-- ==== Sys2Proof/Word.lean ====
section
/-! DEFINITION. The word types of the VUT-6120 model and the sparse store type all of its large state uses. -/
namespace Sys2Proof

abbrev Byte := BitVec 8
abbrev W16 := BitVec 16
abbrev W32 := BitVec 32
abbrev W64 := BitVec 64
/-- A predicate register (R158). -/
abbrev W128 := BitVec 128
/-- A vector register (R158). -/
abbrev W1024 := BitVec 1024

/-- A sparse store: keys strictly rising, one entry per key. What an unlisted key reads as is said where the store is
read (`Map.get`), and an entry equal to it is not listed. -/
abbrev Map (α : Type) := List (Nat × α)

/-- A logical tile index t = 26,400 w + 160 c + k (R155). -/
abbrev TileId := Fin 52800
abbrev PartId := Fin 16
abbrev PalletId := Fin 120
/-- Host port PE_0 or PE_1. -/
abbrev PortId := Fin 2
/-- Alpiun port AL_00 to AL_31. -/
abbrev LinkId := Fin 32
/-- A register number of a tile instruction word. -/
abbrev RegNo := Fin 32
abbrev ArrId := Fin 64
abbrev FlagNo := Fin 256
abbrev QueueNo := Fin 64
abbrev SlotNo := Fin 256
abbrev PlaceNo := Fin 4
/-- Feed A or B. -/
abbrev FeedId := Fin 2
abbrev WallId := Fin 2

end Sys2Proof
end

