-- ==== Sys2Proof/Syntax.lean ====
section
/-! DEFINITION. The commands the block takes: one constructor per row of spec/opcode_table.json, in the table's order,
with the row's operands. What the surroundings decide (the outcome of a physical test, whether a signature verifies, the
bytes a read returns) is an operand of the command that reports it (log entry 4). -/
namespace Sys2Proof

/-- The function that writes a register or a doorbell, or sends an SPDM request: port and function number, 0 the PF (R479). -/
structure Writer where
  port : PortId
  func : Fin 17
deriving DecidableEq, Repr, Inhabited

/-- Who sends an SPDM request: a function over its DOE mailbox (R385), or the management endpoint over MCTP (R487). -/
inductive Requester where
  | doe (w : Writer)
  | mctp
deriving DecidableEq, Repr, Inhabited

/-- A Mehra firmware image as fetched (R516), with what its checks find. -/
structure FwImage where
  magic : W32
  format : W16
  zeros : Bool          -- every zero field is zero
  svn : W32
  version : W32
  codeLen : Nat
  bytes : Nat           -- bytes fetched
  sigOk : Bool          -- the Ed448 signature verifies
  selfOk : Bool         -- the image's check of itself in RAM
  digest : BitVec 512
deriving DecidableEq, Repr, Inhabited

/-- The header of a bounce-buffer envelope (R392) and whether its GCM tag verifies. -/
structure Envelope where
  seq : Nat
  len : Nat
  cls : Byte
  index : Byte
  gen : Byte
  tagOk : Bool
deriving DecidableEq, Repr, Inhabited

/-- A manifest as it has come, in its envelope where it has one (R392, R393). -/
structure ManifestRead where
  bytes : List Byte
  env : Option Envelope
deriving DecidableEq, Repr, Inhabited

/-- What a read of host memory gives: bytes, in an envelope for a confidential partition, or a failed read (R486). -/
inductive HostRead where
  | data (env : Option Envelope) (bytes : List Byte)
  | failed
deriving DecidableEq, Repr, Inhabited

/-- Which entry a payload read fetched (R305, R393). -/
inductive PayloadKind where
  | prompt
  | sequence
  | mask
  | draft
  | steer
deriving DecidableEq, Repr, Inhabited

/-- A ring the module writes. -/
inductive RingId where
  | completion
  | event
  | stream (n : Fin 64)
deriving DecidableEq, Repr, Inhabited

/-- Element types of vector instructions, in the order of R170. -/
inductive VType where
  | int8
  | int16
  | int32
  | int64
  | e4m3
  | e5m2
  | bf16
  | fp32
deriving DecidableEq, Repr, Inhabited

/-- A cell that a program command leaves stuck (R66). -/
structure Stuck where
  arr : Nat
  row : Nat
  col : Nat
  isOver : Bool         -- KIND 0x02 OVER, else 0x01 SHORT, of a cell sensed at its target level
  target : Nat          -- the model takes the target from the source row
  sensed : Nat
deriving DecidableEq, Repr, Inhabited

/-- A cell whose charge is not exactly at its level as its row is sensed (R108): the charge sensed, and the charge at the verify
clocks of a refresh slot, in 1/64 level step. -/
structure CellSense where
  col : Nat
  charge : Nat
  verified : Nat
deriving DecidableEq, Repr, Inhabited

/-- A sensing of a row, or the second sensing after a mismatch (R96): the cells that are not exactly at their levels. -/
structure RowSense where
  arr : Nat
  row : Nat
  second : Bool
  cells : List CellSense
deriving DecidableEq, Repr, Inhabited

/-- What the cells of the masked arrays did during an array command (R65, R66, R69, R96). -/
structure ArrPhys where
  stuck : List Stuck    -- cells not verified of the rows programmed, in the order found
  loops : Nat           -- largest loop count of a row
  eraseFail : List Nat  -- arrays with charge left after both erase attempts
  senses : List RowSense := []
deriving DecidableEq, Repr, Inhabited

/-- The end of the phases of a tile's PASS, and what its readouts and recomputations sense (R43, R96). -/
structure PhasesEnd where
  t : TileId
  phys : ArrPhys
deriving DecidableEq, Repr, Inhabited

/-- Bits of a tile's stores that have flipped (R133, R136): of a 64-bit scratchpad word, of a 64-bit pair of instruction words, or of
a queue descriptor. -/
inductive Upset where
  | word (w : Fin 196608) (bits : List (Fin 64))
  | store (pair : Fin 9216) (bits : List (Fin 64))
  | desc (q : QueueNo)
deriving DecidableEq, Repr, Inhabited

/-- What a link did to a packet (R211). -/
inductive LinkErr where
  | clean
  | corrected
  | dataUe              -- uncorrectable data error: the packet is delivered poisoned
deriving DecidableEq, Repr, Inhabited

/-- What comes back over the mortar: the number of the packet, or of the station that an answer reaches, and what the links did to it. -/
structure Received where
  id : Nat
  err : LinkErr
deriving DecidableEq, Repr, Inhabited

/-- A physical router position [w, pc, pk] (R6). -/
structure Phys where
  w : WallId
  pc : Fin 180
  pk : Fin 164
deriving DecidableEq, Repr, Inhabited

/-- A link of the mesh: a router's outgoing link in a direction (R411: 0 east, 1 south, 2 west, 3 north, 4 to 7 skip and
express), or the bridge link of a course (R16). -/
inductive LinkUnit where
  | mesh (at_ : Phys) (dir : Fin 8)
  | bridge (pc : Fin 180)
deriving DecidableEq, Repr, Inhabited

/-- One message of a link data body (R492). -/
structure LinkMsg where
  op : Byte
  turn : Byte
  target : W64
  units : List (List Byte)   -- 64 B units
deriving DecidableEq, Repr, Inhabited

/-- Identity that a control frame carries (R491). -/
structure PeerId where
  serial : W64
  port : Fin 32
  stepping : Byte
deriving DecidableEq, Repr, Inhabited

/-- The outcome of a training state of an Alpiun port (R489). -/
inductive TrainEvent where
  | powered                 -- both ends powered; also the start after DOWN
  | receiverFound
  | equalised
  | aligned
  | identified (peer : PeerId) (isVut : Bool)
  | lost                    -- the state's time limit passed, or the link was lost
  | retrain
deriving DecidableEq, Repr, Inhabited

/-- A pallet rail, or its root PLL (R448, R450). -/
inductive Rail where
  | vmortar
  | vsram
  | vcore
  | varrayA
  | varrayB
  | pll
deriving DecidableEq, Repr, Inhabited

/-- The plaintext of a key delivery (R387, R388) and whether its GCM tag verifies. -/
structure KeyMsg where
  op : Byte
  epoch : W32
  flags : Byte
  slot : Fin 4
  keyId : W64
  inKey : BitVec 256
  outKey : BitVec 256
  linkKey : BitVec 256
  imageKey : BitVec 456
  zeros : Bool
  tagOk : Bool
deriving DecidableEq, Repr, Inhabited

/-- One sample of the module's sensors (R469, R471). -/
structure ModSample where
  feedMv : List Nat         -- A, B
  feedI : List Nat          -- A, B, 0.1 A
  busMv : List Nat          -- WALL_0, WALL_1
  coolIn : Int              -- 0.01 °C
  coolOut : Int
  flow : Nat                -- 0.01 L/min
  draw : Nat                -- W
deriving DecidableEq, Repr, Inhabited

/-- One sample of a pallet's rails (R472). -/
structure PalletSample where
  pallet : PalletId
  currents : List Nat       -- VCORE, VSRAM, VARRAY_A, VARRAY_B, VMORTAR
  volts : List Nat
  draw : Nat                -- 0.1 W
deriving DecidableEq, Repr, Inhabited

/-- Fields of a configuration write that enables or disables a function (R483). -/
structure FuncCfg where
  busMaster : Bool
  d0 : Bool
  vfEnable : Bool
  numVfs : Fin 17
deriving DecidableEq, Repr, Inhabited

/-- A PLDM platform-monitoring request (R2, R487). -/
inductive PldmReq where
  | sensor (n : Nat)
  | inventory
deriving DecidableEq, Repr, Inhabited

/-- The commands. A tile instruction names its tile `t` and the fields of its word (R159); log entry 6. -/
inductive Instr where
  -- start-up and firmware
  | powerOn (feed : FeedId) (strap kat : Bool)
  | bootLoad (by_ : Writer)
  | pldmFwActivate (img : FwImage)
  | fwCheck (img : Option FwImage)
  | bringUp (out : List PalletId) (eraseFail : List (Nat × Nat)) (linkFaults : List LinkUnit)
  | stage (by_ : Writer)
  | bootAbort (by_ : Writer)
  | svnFloorRaise
  | handoverHold (digestOk : Bool) (holdUs : Nat)
  | handoverTimeout
  -- module beats, partitions, registers
  | moduleBeat
  | unparkDone (pal : PalletId)
  | seal (by_ : Writer) (p : PartId)
  | teardown (by_ : Writer) (p : PartId)
  | kill (by_ : Writer) (p : PartId)
  | scrubDone (p : PartId) (eraseFail : List (Nat × Nat))
  | commit (by_ : Writer) (scope : Option PartId)
  | discard (by_ : Writer) (scope : Option PartId)
  | registerWrite (by_ : Writer) (off size : Nat) (val : W64) (poisoned : Bool)
  | claim (by_ : Writer)
  | release (by_ : Writer)
  | leaseLapse
  -- rings and requests
  | sqTail (by_ : Writer) (p : PartId) (val : W32)
  | cqHead (by_ : Writer) (p : PartId) (val : W32)
  | eqHead (by_ : Writer) (p : PartId) (val : W32)
  | streamHead (by_ : Writer) (p : PartId) (n : Fin 64) (val : W32)
  | descriptorReadDone (p : PartId) (seq : Nat) (data : HostRead)
  | ringFetchError (p : PartId) (seq : Nat)
  | payloadReadDone (p : PartId) (seq : Nat) (kind : PayloadKind) (data : HostRead)
  | generate (p : PartId)
  | tune (p : PartId)
  | cancel (p : PartId)
  | draft (p : PartId)
  | steerWrite (p : PartId)
  | steerRead (p : PartId)
  | prefillPromotion (p : PartId) (slot : SlotNo)
  | coalesceTimer (p : PartId) (ring : RingId)
  -- beats and turns
  | turnBoundary (p : PartId)
  | idleBoundary (p : PartId)
  | resultCollect (p : PartId) (slot : SlotNo)
  | callPoint (p : PartId)
  | beatBoundary (p : PartId)
  | holdWatchdogExpiry (p : PartId)
  | turnAbandon (p : PartId)
  | abandonmentBoundary (p : PartId)
  | forcedSlotDue (t : TileId) (a : ArrId)
  | turnMarkInstant
  | chainHoldInDeassert (at_ : Nat)
  | chainWire
  -- scalar instructions
  | add (t : TileId) (d a b : RegNo)
  | sub (t : TileId) (d a b : RegNo)
  | and (t : TileId) (d a b : RegNo)
  | or (t : TileId) (d a b : RegNo)
  | xor (t : TileId) (d a b : RegNo)
  | shl (t : TileId) (d a b : RegNo)
  | shr (t : TileId) (d a b : RegNo)
  | sar (t : TileId) (d a b : RegNo)
  | slt (t : TileId) (d a b : RegNo)
  | sltu (t : TileId) (d a b : RegNo)
  | min (t : TileId) (d a b : RegNo)
  | max (t : TileId) (d a b : RegNo)
  | minu (t : TileId) (d a b : RegNo)
  | maxu (t : TileId) (d a b : RegNo)
  | mul (t : TileId) (d a b : RegNo)
  | mulhs (t : TileId) (d a b : RegNo)
  | mulhu (t : TileId) (d a b : RegNo)
  | div (t : TileId) (d a b : RegNo)
  | divu (t : TileId) (d a b : RegNo)
  | rem (t : TileId) (d a b : RegNo)
  | remu (t : TileId) (d a b : RegNo)
  | clz (t : TileId) (d a b : RegNo)
  | popc (t : TileId) (d a b : RegNo)
  | addi (t : TileId) (d a : RegNo) (imm : W16)
  | andi (t : TileId) (d a : RegNo) (imm : W16)
  | ori (t : TileId) (d a : RegNo) (imm : W16)
  | xori (t : TileId) (d a : RegNo) (imm : W16)
  | shiShl (t : TileId) (d a : RegNo) (amt : BitVec 6)
  | shiShr (t : TileId) (d a : RegNo) (amt : BitVec 6)
  | shiSar (t : TileId) (d a : RegNo) (amt : BitVec 6)
  | slti (t : TileId) (d a : RegNo) (imm : W16)
  | sltiu (t : TileId) (d a : RegNo) (imm : W16)
  | limm (t : TileId) (d : RegNo) (a : RegNo) (imm : W16)
  | jal (t : TileId) (d : RegNo) (off : BitVec 21)
  | jalr (t : TileId) (d a : RegNo) (imm : W16)
  | beq (t : TileId) (a b : RegNo) (off : W16)
  | bne (t : TileId) (a b : RegNo) (off : W16)
  | blt (t : TileId) (a b : RegNo) (off : W16)
  | bge (t : TileId) (a b : RegNo) (off : W16)
  | bltu (t : TileId) (a b : RegNo) (off : W16)
  | bgeu (t : TileId) (a b : RegNo) (off : W16)
  | ldb (t : TileId) (d a : RegNo) (imm : W16)
  | ldbu (t : TileId) (d a : RegNo) (imm : W16)
  | ldh (t : TileId) (d a : RegNo) (imm : W16)
  | ldhu (t : TileId) (d a : RegNo) (imm : W16)
  | ldw (t : TileId) (d a : RegNo) (imm : W16)
  | ldwu (t : TileId) (d a : RegNo) (imm : W16)
  | ldd (t : TileId) (d a : RegNo) (imm : W16)
  | stb (t : TileId) (s a : RegNo) (imm : W16)
  | sth (t : TileId) (s a : RegNo) (imm : W16)
  | stw (t : TileId) (s a : RegNo) (imm : W16)
  | std (t : TileId) (s a : RegNo) (imm : W16)
  | crr (t : TileId) (x : RegNo) (n : BitVec 12)
  | crw (t : TileId) (x : RegNo) (n : BitVec 12)
  -- vector instructions
  | vadd (t : TileId) (vd va vb : RegNo) (pg : Fin 8) (ty : VType)
  | vsub (t : TileId) (vd va vb : RegNo) (pg : Fin 8) (ty : VType)
  | vmul (t : TileId) (vd va vb : RegNo) (pg : Fin 8) (ty : VType)
  | vfma (t : TileId) (vd va vb : RegNo) (pg : Fin 8) (ty : VType)
  | vmin (t : TileId) (vd va vb : RegNo) (pg : Fin 8) (ty : VType)
  | vmax (t : TileId) (vd va vb : RegNo) (pg : Fin 8) (ty : VType)
  | vadds (t : TileId) (vd va vb : RegNo) (pg : Fin 8) (ty : VType)
  | vabs (t : TileId) (vd va vb : RegNo) (pg : Fin 8) (ty : VType)
  | vand (t : TileId) (vd va vb : RegNo) (pg : Fin 8) (ty : VType)
  | vor (t : TileId) (vd va vb : RegNo) (pg : Fin 8) (ty : VType)
  | vxor (t : TileId) (vd va vb : RegNo) (pg : Fin 8) (ty : VType)
  | vshl (t : TileId) (vd va vb : RegNo) (pg : Fin 8) (ty : VType)
  | vshr (t : TileId) (vd va vb : RegNo) (pg : Fin 8) (ty : VType)
  | vsar (t : TileId) (vd va vb : RegNo) (pg : Fin 8) (ty : VType)
  | vcvt (t : TileId) (vd va vb : RegNo) (pg : Fin 8) (ty : VType)
  | vsel (t : TileId) (vd va vb : RegNo) (pg : Fin 8) (ty : VType)
  | vcmpeq (t : TileId) (vd va vb : RegNo) (pg : Fin 8) (ty : VType)
  | vcmplt (t : TileId) (vd va vb : RegNo) (pg : Fin 8) (ty : VType)
  | vcmple (t : TileId) (vd va vb : RegNo) (pg : Fin 8) (ty : VType)
  | vexp2 (t : TileId) (vd va vb : RegNo) (pg : Fin 8) (ty : VType)
  | vlog2 (t : TileId) (vd va vb : RegNo) (pg : Fin 8) (ty : VType)
  | vrcp (t : TileId) (vd va vb : RegNo) (pg : Fin 8) (ty : VType)
  | vrsq (t : TileId) (vd va vb : RegNo) (pg : Fin 8) (ty : VType)
  | vredsum (t : TileId) (vd va vb : RegNo) (pg : Fin 8) (ty : VType)
  | vredmax (t : TileId) (vd va vb : RegNo) (pg : Fin 8) (ty : VType)
  | vbcast (t : TileId) (vd va vb : RegNo) (pg : Fin 8) (ty : VType)
  | vext (t : TileId) (vd va vb : RegNo) (pg : Fin 8) (ty : VType)
  | vpand (t : TileId) (vd va vb : RegNo) (pg : Fin 8) (ty : VType)
  | vpnot (t : TileId) (vd va vb : RegNo) (pg : Fin 8) (ty : VType)
  | vld (t : TileId) (v a : RegNo) (off : BitVec 13)
  | vldt (t : TileId) (v a : RegNo) (off : BitVec 13)
  | vldtk (t : TileId) (v a : RegNo) (off : BitVec 13)
  | vst (t : TileId) (v a : RegNo) (off : BitVec 13)
  | vstf (t : TileId) (v a : RegNo) (off : BitVec 13)
  | vtagset (t : TileId) (v a : RegNo) (off : BitVec 13)
  | vtagclr (t : TileId) (v a : RegNo) (off : BitVec 13)
  -- Kiln
  | kilnMul (t : TileId) (n : RegNo)
  | kilnStore (t : TileId) (n : RegNo)
  | kilnComplete (t : TileId)
  -- array commands
  | pass (t : TileId) (n : RegNo)
  | passPhasesStart (t : TileId)
  | passPhasesEnd (t : PhasesEnd)
  | read (t : TileId) (n : RegNo)
  | prog (t : TileId) (n : RegNo)
  | refresh (t : TileId) (n : RegNo)
  | erase (t : TileId) (n : RegNo)
  | power (t : TileId) (n : RegNo)
  | status (t : TileId) (n : RegNo)
  | badCmd (t : TileId) (n : RegNo)
  | badBlock (t : TileId) (n : RegNo) (kiln : Bool)
  | arrayCmdComplete (t : TileId) (cmd : Nat) (phys : ArrPhys)
  | acq (t : TileId) (n : RegNo)
  -- remote operations
  | put (t : TileId) (n : RegNo)
  | putFill (t : TileId) (n : RegNo)
  | get (t : TileId) (n : RegNo)
  | addI32 (t : TileId) (n : RegNo)
  | addF32 (t : TileId) (n : RegNo)
  | packetArrival (pkt : Nat) (err : LinkErr)
  | parkEntryWrite (t : TileId) (q : QueueNo)
  | remoteAck (pkt : Received)
  | getDataArrival (pkt : Received)
  | sPut (p : PartId) (station : Nat) (target : W64) (lines : List (List Byte))
  | sFill (p : PartId) (station : Nat) (target : W64) (lines : List (List Byte))
  | sGet (p : PartId) (station : Nat) (target : W64) (n : Nat)
  | sTget (p : PartId) (station : Nat) (target : W64)
  | sTgetWatchRead (t : TileId) (i : Fin 4)
  | stationResponse (station : Received)
  | flitRetransmit (link : LinkUnit) (nth : Nat)
  | linkErrorRate (link : LinkUnit)
  | routeTableRewrite
  -- flags, beats, turns
  | falloc (t : TileId) (f : FlagNo)
  | fset (t : TileId) (f : FlagNo)
  | fclr (t : TileId) (f : FlagNo)
  | fwait (t : TileId) (f : FlagNo)
  | fwaitc (t : TileId) (f : FlagNo)
  | ftest (t : TileId) (d : RegNo) (f : FlagNo)
  | beat (t : TileId) (k : W16) (d : Byte)
  | turn (t : TileId) (d : Byte)
  | fence (t : TileId) (engines : BitVec 4)
  -- background work of the arrays
  | rowRefreshSlot (t : TileId) (a : ArrId) (row : Fin 512) (data checks : List CellSense)
  | refreshPeriodUpdate (t : TileId)
  | refreshOverdue (t : TileId) (a : ArrId) (row : Fin 512)
  | calibrationDue (t : TileId) (a : ArrId)
  | calibrationStep (t : TileId) (a : ArrId) (sums diffs codes : List Int)
  | calEscalate (t : TileId) (a : ArrId)
  | calRestart (t : TileId) (a : ArrId)
  | outlierVerification (t : TileId) (a : ArrId) (phys : ArrPhys)
  | accStatusUpdate (p : PartId)
  -- banks, patrol, self-tests
  | patrol (t : TileId) (line : Fin 24576) (upsets : List Upset)
  | zeroingPassDone (t : TileId) (bank : Fin 24) (readBackOk : Bool)
  | bankPowerChangeDone (t : TileId) (bank : Fin 24)
  | tLine (t : TileId) (line : Fin 24576) (fault : Bool)
  | tBank (t : TileId) (bank : Fin 24) (fault : Bool)
  | tWord (t : TileId) (word : Fin 18432) (fault : Bool)
  | tArray (t : TileId) (a : ArrId) (fault : Bool)
  | tLink (link : LinkUnit) (fault : Bool)
  | tRouter (at_ : Phys) (fault : Bool)
  | tLane (l : LinkId) (lane : Fin 8) (fault : Bool)
  | tileMoveDone (t : TileId) (phys : ArrPhys)
  | replaceDone (pal : PalletId) (hitchMs : Nat)
  | replacementHoldLimit (pal : PalletId)
  -- host ports
  | hostPortDown (port : PortId)
  | functionLevelReset (f : Writer)
  | perstChange (port : PortId) (asserted : Bool)
  | pcieLinkReset (port : PortId)
  -- supply
  | feedOutOfRange (feed : FeedId) (mv : Nat)
  | feedRestored (feed : FeedId)
  | feedLowAlert (feed : FeedId)
  | noFeedTimeout
  | pwrFailWarn (asserted : Bool)
  | bladeResSample (blade : Fin 16) (volts amps temp : W32)
  | railFault (pal : PalletId) (rail : Rail) (us : Nat)
  | refSwitch
  | syncInEdge (phaseStep : Int) (locked : Bool)
  | syncInAbsent
  -- power, temperature, coolant, telemetry
  | budgetDecision
  | powerStepDecision (draws : List Nat)
  | fastLimit (pal : PalletId)
  | loanRecall (p : PartId)
  | stepChange (p : PartId)
  | thermalSample (pal : PalletId) (tj : Int) (cool90 cool95 : Bool)
  | thermalEmergency (wall : WallId)
  | thermalTrip
  | coolOkChange (level : Bool)
  | coolantSample (inlet outlet : Int) (flow : Nat) (rangeFor10s lowFor2s quarterFor1s : Bool)
  | coolDemandUpdate (pMax1s pNow : Nat)
  | telemetrySample (mod_ : ModSample) (pallets : List PalletSample)
  | sidebandChatter (input : Fin 6)
  -- Alpiun links
  | portTraining (l : LinkId) (ev : TrainEvent)
  | dataFrame (l : LinkId) (seq ack : BitVec 12) (crcOk : Bool) (msgs : List LinkMsg)
  | controlFrame (l : LinkId) (credits : W32) (nak : Option (BitVec 12)) (peer : PeerId) (crcOk : Bool) (ack : BitVec 12)
  | frameSend (l : LinkId) (msgs : List LinkMsg)
  | laneSuspect (l : LinkId) (lane : Fin 8)
  -- loading
  | register (by_ : Writer) (p : PartId) (place : PlaceNo)
  | load (by_ : Writer) (p : PartId) (place : PlaceNo)
  | abort (by_ : Writer) (p : PartId) (place : PlaceNo)
  | resume (by_ : Writer) (p : PartId)
  | manifestVerified (p : PartId) (manifest : ManifestRead) (sigOk : Bool) (digest : BitVec 512)
  | loaderShardFetch (p : PartId)
  | shardArrival (p : PartId) (index : Nat) (shard : List Byte) (digestOk : Bool) (env : Option Envelope)
  | shardMissingTimeout (p : PartId) (index : Nat)
  | removalDone (p : PartId) (place : PlaceNo)
  | relayManifest (l : LinkId) (manifest : List Byte)
  | relayShard (l : LinkId) (index : Nat) (shard : List Byte) (digestOk : Bool)
  | relayAck (l : LinkId) (index : Nat)
  | relayNack (l : LinkId) (index : Nat) (reason : Byte)
  | relayFail (l : LinkId) (index hop attempts : Nat)
  | relayHeld (l : LinkId) (index : Nat)
  | relayResume (l : LinkId) (index : Nat)
  | relayDrop (l : LinkId) (hop : Nat)
  -- keys and attestation
  | keyDelivery (by_ : Writer) (p : PartId) (msg : KeyMsg)
  | getVersion (by_ : Requester)
  | getCapabilities (by_ : Requester)
  | negotiateAlgorithms (by_ : Requester)
  | getDigests (by_ : Requester)
  | getCertificate (by_ : Requester) (slot : Fin 8)
  | challenge (by_ : Requester) (slot : Fin 8) (nonce : BitVec 256)
  | getMeasurements (by_ : Requester) (index : Byte) (nonce : BitVec 256)
  | spdmUnsupported (by_ : Requester) (code : Byte)
  | zeroise
  | enclosureOpened
  | pldmMonitoring (req : PldmReq)
  -- debug and diagnosis
  | halt (by_ : Writer) (p : PartId)
  | step (by_ : Writer) (p : PartId)
  | dbgResume (by_ : Writer) (p : PartId)
  | accessScratchpad (by_ : Writer) (p : PartId)
  | accessInstructionStore (by_ : Writer) (p : PartId)
  | accessArrayLevels (by_ : Writer) (p : PartId)
  | accessCtrlRegister (by_ : Writer) (p : PartId)
  | accessArrayProgram (by_ : Writer) (p : PartId) (phys : ArrPhys)
  | accessArrayErase (by_ : Writer) (p : PartId) (phys : ArrPhys)
  | diagRun (by_ : Writer) (test : Byte)
  -- rows added after the table's first list
  | illegal (t : TileId) (word : Option W32)
  | vectorExecute (t : TileId)
  | hostLinkUp (port : PortId)
  | pcieConfigWrite (f : Writer) (cfg : FuncCfg)
  | regulatorPhaseFail (pal : PalletId) (rail : Rail)
  | osfpPlugIn (l : LinkId) (watts : Nat)
deriving DecidableEq, Repr, Inhabited

end Sys2Proof
end

