-- ==== Sys2Proof/Config.lean ====
section
/-! DEFINITION. What one module fixes for itself and what the spec leaves open: constants with no body. No proof can see
their values, so whatever is proved holds for every value of them. -/
namespace Sys2Proof

inductive Stepping where
  | a1
  | b0
deriving DecidableEq, Repr, Inhabited

namespace Config

/-- The stepping letter of the module (R2). -/
opaque stepping : Stepping
/-- Serial number (R523). -/
opaque serial : W64
/-- Year and week of manufacture (R523), the date of R84. -/
opaque mfgYear : W16
opaque mfgWeek : Byte
/-- Digest of the boot ROM (R386, block 0x01). -/
opaque romDigest : BitVec 512
/-- The special functions of R125 on FP32: each a fixed function of its input bits, within 2 ulp; the spec gives no more.
Log entry 9. -/
opaque exp2 : W32 → W32
opaque log2 : W32 → W32
opaque recip : W32 → W32
opaque rsqrt : W32 → W32
/-- Terms of the analogue residual of one conversion (R80, R539): free values, applied to the free-value counter, the array, the
column, and the phase and term. Log entry 10. -/
opaque residual : Nat → Nat → Nat → Nat → Int
/-- Charge deviation of a cell in a pass (R80), in 1/1,000 level step: a free value, applied to the free-value counter, the array, the
row and the column. Log entry 10. -/
opaque cellCharge : Nat → Nat → Nat → Nat → Int
/-- The pseudo-random activations of a verification (R112), by tile, array, counter and row: the spec names no generator. Log entry
82. -/
opaque verifyInput : Nat → Nat → Nat → Nat → Byte
/-- Whether an ERASE of the loading service leaves charge on an array after its second attempt (R69): a free value, applied to the
free-value counter, the tile and the array. Log entry 103. -/
opaque eraseFails : Nat → Nat → Nat → Bool
/-- Years since manufacture, by module time in us: the spec names no calendar (R84). Log entry 21. -/
opaque years : Nat → Nat
/-- What the cells do while an array is programmed or erased by a register write, which has no operand for it: free values, applied to
the free-value counter. Log entry 96. -/
opaque freePhys : Nat → ArrPhys
/-- Free values for every other value the spec leaves open, applied to the free-value counter. Log entry 1. -/
opaque freeValue : Nat → Nat
/-- The time of R324 for a number of prefill positions where PREFILL_RATE is 0: the spec states none. Log entry 24. -/
opaque timeAtRateZero : Nat → Nat
/-- Key material the module generates (session pairs R378, alias pairs R384): free values. -/
opaque keyPair : Nat → BitVec 448 × BitVec 448

/-- Digest of a sequence of values (R386, R406). -/
opaque digest : List Nat → BitVec 512
/-- Ed448 signature by a private key over what a response carries (R385). -/
opaque sign : BitVec 448 → List Nat → Nat
/-- AES-256-GCM tag of a key delivery's answer (R389). -/
opaque deliveryTag : List Nat → Nat

end Config
end Sys2Proof
end

