-- ==== Sys2Proof/Machine/Map.lean ====
section
/-! DEFINITION. Operations of the sparse store: lookup with a default, and an update that keeps keys strictly rising and
lists no entry equal to the default. -/
namespace Sys2Proof

/-- The entry at key `k`, if one is listed. -/
def Map.find {α : Type} : Map α → Nat → Option α
  | [], _ => none
  | (k', v) :: m, k => if k = k' then some v else Map.find m k

/-- What key `k` reads as, `d` where nothing is listed. -/
def Map.get {α : Type} (d : α) (m : Map α) (k : Nat) : α := (Map.find m k).getD d

/-- The store with no entry at `k`. -/
def Map.erase {α : Type} : Map α → Nat → Map α
  | [], _ => []
  | (k', v) :: m, k => if k = k' then m else (k', v) :: Map.erase m k

/-- The store with `v` listed at `k`. -/
def Map.insert {α : Type} : Map α → Nat → α → Map α
  | [], k, v => [(k, v)]
  | (k', v') :: m, k, v =>
    if k < k' then (k, v) :: (k', v') :: m
    else if k = k' then (k, v) :: m
    else (k', v') :: Map.insert m k v

/-- The store that reads `v` at `k` and as before elsewhere: the default is never listed. -/
def Map.set {α : Type} [DecidableEq α] (d : α) (m : Map α) (k : Nat) (v : α) : Map α :=
  if v = d then Map.erase m k else Map.insert m k v

/-- `f` applied to what key `k` reads as. -/
def Map.modify {α : Type} [DecidableEq α] (d : α) (m : Map α) (k : Nat) (f : α → α) : Map α :=
  Map.set d m k (f (Map.get d m k))

/-- Every key of the list set to `v`. -/
def Map.setAll {α : Type} [DecidableEq α] (d : α) (v : α) : List Nat → Map α → Map α
  | [], m => m
  | k :: ks, m => Map.setAll d v ks (Map.set d m k v)

/-- Values written at consecutive keys from `k`. -/
def Map.writeFrom {α : Type} [DecidableEq α] (d : α) (m : Map α) (k : Nat) : List α → Map α
  | [] => m
  | v :: vs => Map.writeFrom d (Map.set d m k v) (k + 1) vs

/-- What `n` consecutive keys from `k` read as. -/
def Map.readFrom {α : Type} (d : α) (m : Map α) (k n : Nat) : List α :=
  (List.range n).map fun i => Map.get d m (k + i)

/-- Every key of the store is at least `lo`, and keys rise strictly. -/
def Map.sortedFrom {α : Type} : Nat → Map α → Bool
  | _, [] => true
  | lo, (k, _) :: m => decide (lo ≤ k) && Map.sortedFrom (k + 1) m

/-- The canonical form: keys strictly rising, no entry equal to the default. -/
def Map.wf {α : Type} [DecidableEq α] (d : α) (m : Map α) : Bool :=
  Map.sortedFrom 0 m && m.all fun e => decide (e.2 ≠ d)

end Sys2Proof
end

