-- ==== Sys2Proof/Machine/Reg.lean ====
section
/-! DEFINITION. The set-up registers as fields: block, offset, bit place, width, access code (R10), reset value and the range of
valid encodings (R12), one per row of the spec's register tables. -/
namespace Sys2Proof.Machine

/-- The register blocks of the BAR0 map (R521); `stage` is MOD_STAGE or a partition's STAGE_CTRL. -/
inductive Blk where
  | ident
  | stage
  | boot
  | diag
  | port
  | svc
  | pwr
  | part
  | array
  | turn
  | gen
  | serve
  | load
  | debug
  | tile
deriving DecidableEq, Repr, Inhabited

/-- Access codes (R10). -/
inductive Acc where
  | ro
  | rw
  | rw1c
  | wo
  | rws
  | rwl
deriving DecidableEq, Repr, Inhabited

/-- One register field. -/
structure Fld where
  blk : Blk
  off : Nat
  lo : Nat
  width : Nat
  acc : Acc
  reset : Nat
  min : Nat
  max : Nat
deriving DecidableEq, Repr, Inhabited

/-- The number of a block, for keys of the register file. -/
def Blk.num : Blk → Nat
  | .ident => 0
  | .stage => 1
  | .boot => 2
  | .diag => 3
  | .port => 4
  | .svc => 5
  | .pwr => 6
  | .part => 7
  | .array => 8
  | .turn => 9
  | .gen => 10
  | .serve => 11
  | .load => 12
  | .debug => 13
  | .tile => 14

/-- The place of a field in a register file. -/
def Fld.key (f : Fld) : Nat := f.blk.num * 2097152 + f.off * 32 + f.lo

/-- A register file: the fields whose value differs from their reset value. -/
abbrev RegFile := Map Nat

def RegFile.get (r : RegFile) (f : Fld) : Nat := Map.get f.reset r f.key
def RegFile.set (r : RegFile) (f : Fld) (v : Nat) : RegFile := Map.set f.reset r f.key (v % 2 ^ f.width)
def RegFile.flag (r : RegFile) (f : Fld) : Bool := RegFile.get r f == 1
/-- A counter that stops at its field's largest value. -/
def RegFile.count (r : RegFile) (f : Fld) (n : Nat) : RegFile :=
  RegFile.set r f (Nat.min (RegFile.get r f + n) (2 ^ f.width - 1))

/-- Offset of the registers of ring r of SERVE_SETUP: 0 submission, 1 completion, 2 event, 3 + n STREAM_n (R336). -/
def ringOff (r : Nat) : Nat := if r < 3 then 0x0040 + 0x10 * r else 0x0100 + 0x10 * (r - 3)

namespace Reg

/-- ARR_CFG.AUTO_WAKE (R76). -/
def ARR_CFG_AUTO_WAKE : Fld := ⟨.array, 0x0, 25, 1, .rws, 1, 0, 1⟩
/-- ARR_CFG.PATCH_MAX (R76). -/
def ARR_CFG_PATCH_MAX : Fld := ⟨.array, 0x0, 16, 8, .rws, 16, 0, 64⟩
/-- ARR_CFG.DEFAULT_MAX_LOOPS (R76). -/
def ARR_CFG_DEFAULT_MAX_LOOPS : Fld := ⟨.array, 0x0, 10, 6, .rws, 32, 1, 63⟩
/-- ARR_CFG.ROW_GROUP_LIMIT (R76). -/
def ARR_CFG_ROW_GROUP_LIMIT : Fld := ⟨.array, 0x0, 0, 10, .rws, 128, 1, 1023⟩
/-- ARR_EVT.BAD_CMD_SEEN (R78). -/
def ARR_EVT_BAD_CMD_SEEN : Fld := ⟨.array, 0x4, 7, 1, .rw1c, 0, 0, 1⟩
/-- ARR_EVT.UE_SEEN (R78). -/
def ARR_EVT_UE_SEEN : Fld := ⟨.array, 0x4, 6, 1, .rw1c, 0, 0, 1⟩
/-- ARR_EVT.PORT_SEEN (R78). -/
def ARR_EVT_PORT_SEEN : Fld := ⟨.array, 0x4, 5, 1, .rw1c, 0, 0, 1⟩
/-- ARR_EVT.FMT_SEEN (R78). -/
def ARR_EVT_FMT_SEEN : Fld := ⟨.array, 0x4, 4, 1, .rw1c, 0, 0, 1⟩
/-- ARR_EVT.STATE_SEEN (R78). -/
def ARR_EVT_STATE_SEEN : Fld := ⟨.array, 0x4, 3, 1, .rw1c, 0, 0, 1⟩
/-- ARR_EVT.CHECK_SEEN (R78). -/
def ARR_EVT_CHECK_SEEN : Fld := ⟨.array, 0x4, 2, 1, .rw1c, 0, 0, 1⟩
/-- ARR_EVT.SAT_SEEN (R78). -/
def ARR_EVT_SAT_SEEN : Fld := ⟨.array, 0x4, 1, 1, .rw1c, 0, 0, 1⟩
/-- ARR_EVT.PROG_FAIL_SEEN (R78). -/
def ARR_EVT_PROG_FAIL_SEEN : Fld := ⟨.array, 0x4, 0, 1, .rw1c, 0, 0, 1⟩
/-- ARR_SAT_COUNT.SAT_COLUMNS (R78). -/
def ARR_SAT_COUNT_SAT_COLUMNS : Fld := ⟨.array, 0x8, 0, 32, .ro, 0, 0, 4294967295⟩
/-- ARR_CAL_CFG.CAL_GRACE (R116). -/
def ARR_CAL_CFG_CAL_GRACE : Fld := ⟨.array, 0xc, 24, 8, .rws, 50, 10, 50⟩
/-- ARR_CAL_CFG.CAL_DELTA_T (R116). -/
def ARR_CAL_CFG_CAL_DELTA_T : Fld := ⟨.array, 0xc, 16, 5, .rws, 5, 1, 8⟩
/-- ARR_CAL_CFG.CAL_PERIOD (R116). -/
def ARR_CAL_CFG_CAL_PERIOD : Fld := ⟨.array, 0xc, 0, 10, .rws, 250, 50, 250⟩
/-- ARR_CHECK_CFG.REF_TOL (R117). -/
def ARR_CHECK_CFG_REF_TOL : Fld := ⟨.array, 0x10, 8, 4, .rws, 4, 1, 15⟩
/-- ARR_CHECK_CFG.SUM_TOL (R117). -/
def ARR_CHECK_CFG_SUM_TOL : Fld := ⟨.array, 0x10, 0, 8, .rws, 64, 8, 255⟩
/-- ARR_MODE.DIGITAL (R118). -/
def ARR_MODE_DIGITAL : Fld := ⟨.array, 0x14, 0, 1, .rws, 0, 0, 1⟩
/-- ARR_ACC_EVT.BEYOND_BOUND (R119). -/
def ARR_ACC_EVT_BEYOND_BOUND : Fld := ⟨.array, 0x18, 5, 1, .rw1c, 0, 0, 1⟩
/-- ARR_ACC_EVT.CAL_LATE (R119). -/
def ARR_ACC_EVT_CAL_LATE : Fld := ⟨.array, 0x18, 4, 1, .rw1c, 0, 0, 1⟩
/-- ARR_ACC_EVT.CAL_FAIL (R119). -/
def ARR_ACC_EVT_CAL_FAIL : Fld := ⟨.array, 0x18, 3, 1, .rw1c, 0, 0, 1⟩
/-- ARR_ACC_EVT.RESTORE_FAIL (R119). -/
def ARR_ACC_EVT_RESTORE_FAIL : Fld := ⟨.array, 0x18, 2, 1, .rw1c, 0, 0, 1⟩
/-- ARR_ACC_EVT.REFRESH_OVERDUE (R119). -/
def ARR_ACC_EVT_REFRESH_OVERDUE : Fld := ⟨.array, 0x18, 1, 1, .rw1c, 0, 0, 1⟩
/-- ARR_ACC_EVT.VERIFY_FAIL (R119). -/
def ARR_ACC_EVT_VERIFY_FAIL : Fld := ⟨.array, 0x18, 0, 1, .rw1c, 0, 0, 1⟩
/-- ARR_ACC_STATUS.TJ_MAX (R119). -/
def ARR_ACC_STATUS_TJ_MAX : Fld := ⟨.array, 0x1c, 16, 8, .ro, 0, 0, 255⟩
/-- ARR_ACC_STATUS.SUSPECT_TILES (R119). -/
def ARR_ACC_STATUS_SUSPECT_TILES : Fld := ⟨.array, 0x1c, 8, 8, .ro, 0, 0, 255⟩
/-- ARR_ACC_STATUS.AGE_CLASS (R119). -/
def ARR_ACC_STATUS_AGE_CLASS : Fld := ⟨.array, 0x1c, 2, 2, .ro, 0, 0, 3⟩
/-- ARR_ACC_STATUS.DIGITAL_ACTIVE (R119). -/
def ARR_ACC_STATUS_DIGITAL_ACTIVE : Fld := ⟨.array, 0x1c, 1, 1, .ro, 0, 0, 1⟩
/-- ARR_ACC_STATUS.IN_BOUND (R119). -/
def ARR_ACC_STATUS_IN_BOUND : Fld := ⟨.array, 0x1c, 0, 1, .ro, 0, 0, 1⟩
/-- TILE_CFG.PATROL_PERIOD (R152). -/
def TILE_CFG_PATROL_PERIOD : Fld := ⟨.tile, 0x0, 8, 4, .rws, 4, 1, 15⟩
/-- TILE_EVT.SCRUB_REFUSED (R153). -/
def TILE_EVT_SCRUB_REFUSED : Fld := ⟨.tile, 0x4, 7, 1, .rw1c, 0, 0, 1⟩
/-- TILE_EVT.FULL_NONOWNER_SEEN (R153). -/
def TILE_EVT_FULL_NONOWNER_SEEN : Fld := ⟨.tile, 0x4, 6, 1, .rw1c, 0, 0, 1⟩
/-- TILE_EVT.QUEUE_OVERFLOW_SEEN (R153). -/
def TILE_EVT_QUEUE_OVERFLOW_SEEN : Fld := ⟨.tile, 0x4, 5, 1, .rw1c, 0, 0, 1⟩
/-- TILE_EVT.PORT_CLASS_SEEN (R153). -/
def TILE_EVT_PORT_CLASS_SEEN : Fld := ⟨.tile, 0x4, 4, 1, .rw1c, 0, 0, 1⟩
/-- TILE_EVT.RANGE_SEEN (R153). -/
def TILE_EVT_RANGE_SEEN : Fld := ⟨.tile, 0x4, 3, 1, .rw1c, 0, 0, 1⟩
/-- TILE_EVT.UE_SEEN (R153). -/
def TILE_EVT_UE_SEEN : Fld := ⟨.tile, 0x4, 2, 1, .rw1c, 0, 0, 1⟩
/-- TILE_EVT.CE_STATE (R153). -/
def TILE_EVT_CE_STATE : Fld := ⟨.tile, 0x4, 1, 1, .rw1c, 0, 0, 1⟩
/-- TILE_EVT.CE_WEIGHT (R153). -/
def TILE_EVT_CE_WEIGHT : Fld := ⟨.tile, 0x4, 0, 1, .rw1c, 0, 0, 1⟩
/-- TILE_CE_COUNT.CE_COUNT (R153). -/
def TILE_CE_COUNT : Fld := ⟨.tile, 0x8, 0, 32, .ro, 0, 0, 4294967295⟩
/-- TILE_UE_COUNT.UE_COUNT (R153). -/
def TILE_UE_COUNT : Fld := ⟨.tile, 0xc, 0, 32, .ro, 0, 0, 4294967295⟩
/-- TILE_ISA_CFG.COMPAT_G1 (R192). -/
def TILE_ISA_CFG_COMPAT_G1 : Fld := ⟨.tile, 0x0010, 0, 1, .rws, 0, 0, 1⟩
/-- TILE_EXC_EVT.CAUSE_SEEN (R192). -/
def TILE_EXC_EVT_CAUSE_SEEN : Fld := ⟨.tile, 0x0014, 1, 14, .rw1c, 0, 0, 16383⟩
/-- TILE_EXC_COUNT.EXC_COUNT (R192). -/
def TILE_EXC_COUNT : Fld := ⟨.tile, 0x0018, 0, 32, .ro, 0, 0, 4294967295⟩
/-- TILE_EXC_FIRST.CAUSE (R192). -/
def TILE_EXC_FIRST_CAUSE : Fld := ⟨.tile, 0x001C, 24, 8, .ro, 0, 0, 255⟩
/-- TILE_EXC_FIRST.TILE_INDEX (R192). -/
def TILE_EXC_FIRST_TILE_INDEX : Fld := ⟨.tile, 0x001C, 0, 16, .ro, 0, 0, 65535⟩
/-- MORTAR_EVT.FIRST_REASON (R224). -/
def MORTAR_EVT_FIRST_REASON : Fld := ⟨.tile, 0x0020, 8, 8, .ro, 0, 0, 255⟩
/-- MORTAR_EVT.DETOUR (R224). -/
def MORTAR_EVT_DETOUR : Fld := ⟨.tile, 0x0020, 4, 1, .rw1c, 0, 0, 1⟩
/-- MORTAR_EVT.STATION_REFUSED (R224). -/
def MORTAR_EVT_STATION_REFUSED : Fld := ⟨.tile, 0x0020, 3, 1, .rw1c, 0, 0, 1⟩
/-- MORTAR_EVT.LINK_UE (R224). -/
def MORTAR_EVT_LINK_UE : Fld := ⟨.tile, 0x0020, 2, 1, .rw1c, 0, 0, 1⟩
/-- MORTAR_EVT.LINK_CE (R224). -/
def MORTAR_EVT_LINK_CE : Fld := ⟨.tile, 0x0020, 1, 1, .rw1c, 0, 0, 1⟩
/-- MORTAR_EVT.REMOTE_FAIL_SEEN (R224). -/
def MORTAR_EVT_REMOTE_FAIL_SEEN : Fld := ⟨.tile, 0x0020, 0, 1, .rw1c, 0, 0, 1⟩
/-- MORTAR_CE_COUNT.CE_COUNT (R224). -/
def MORTAR_CE_COUNT : Fld := ⟨.tile, 0x0024, 0, 32, .ro, 0, 0, 4294967295⟩
/-- MORTAR_UE_COUNT.UE_COUNT (R224). -/
def MORTAR_UE_COUNT : Fld := ⟨.tile, 0x0028, 0, 32, .ro, 0, 0, 4294967295⟩
/-- TURN_CFG.CHAINED (R255). -/
def TURN_CFG_CHAINED : Fld := ⟨.turn, 0x0000, 31, 1, .rws, 0, 0, 1⟩
/-- TURN_CFG.FAULTED (R255). -/
def TURN_CFG_FAULTED : Fld := ⟨.turn, 0x0000, 30, 1, .ro, 0, 0, 1⟩
/-- TURN_CFG.HOLD_WD (R255). -/
def TURN_CFG_HOLD_WD : Fld := ⟨.turn, 0x0000, 0, 24, .rws, 50000, 1000, 5000000⟩
/-- TURN_EVT.TURN_LIMIT (R255). -/
def TURN_EVT_TURN_LIMIT : Fld := ⟨.turn, 0x0004, 4, 1, .rw1c, 0, 0, 1⟩
/-- TURN_EVT.CHAIN_FAULT (R255). -/
def TURN_EVT_CHAIN_FAULT : Fld := ⟨.turn, 0x0004, 3, 1, .rw1c, 0, 0, 1⟩
/-- TURN_EVT.HOLD_WD (R255). -/
def TURN_EVT_HOLD_WD : Fld := ⟨.turn, 0x0004, 2, 1, .rw1c, 0, 0, 1⟩
/-- TURN_EVT.ABANDON (R255). -/
def TURN_EVT_ABANDON : Fld := ⟨.turn, 0x0004, 1, 1, .rw1c, 0, 0, 1⟩
/-- TURN_EVT.SERVICE_HOLD (R255). -/
def TURN_EVT_SERVICE_HOLD : Fld := ⟨.turn, 0x0004, 0, 1, .rw1c, 0, 0, 1⟩
/-- TURN_HOLD_COUNT.HOLD_BEATS (R255). -/
def TURN_HOLD_COUNT_HOLD_BEATS : Fld := ⟨.turn, 0x0008, 0, 32, .ro, 0, 0, 4294967295⟩
/-- TURN_ABANDON_COUNT.ABANDONS (R255). -/
def TURN_ABANDON_COUNT_ABANDONS : Fld := ⟨.turn, 0x000C, 0, 32, .ro, 0, 0, 4294967295⟩
/-- TURN_LATE_FIRST.SOURCE (R255). -/
def TURN_LATE_FIRST_SOURCE : Fld := ⟨.turn, 0x0010, 28, 4, .ro, 0, 0, 15⟩
/-- TURN_LATE_FIRST.TILE_INDEX (R255). -/
def TURN_LATE_FIRST_TILE_INDEX : Fld := ⟨.turn, 0x0010, 0, 16, .ro, 0, 0, 65535⟩
/-- TURN_LAST.HELD (R255). -/
def TURN_LAST_HELD : Fld := ⟨.turn, 0x0014, 16, 16, .ro, 0, 0, 65535⟩
/-- TURN_LAST.BEATS (R255). -/
def TURN_LAST_BEATS : Fld := ⟨.turn, 0x0014, 0, 16, .ro, 0, 0, 65535⟩
/-- TURN_SEQ_LO.SEQ_LO (R255). -/
def TURN_SEQ_LO : Fld := ⟨.turn, 0x0018, 0, 32, .ro, 0, 0, 4294967295⟩
/-- TURN_SEQ_HI.SEQ_HI (R255). -/
def TURN_SEQ_HI : Fld := ⟨.turn, 0x001C, 0, 32, .ro, 0, 0, 4294967295⟩
/-- KV_POOL.KV_PAGES (R296). -/
def KV_POOL_KV_PAGES : Fld := ⟨.gen, 0x0000, 16, 16, .ro, 0, 0, 65535⟩
/-- KV_POOL.KV_LANES (R296). -/
def KV_POOL_KV_LANES : Fld := ⟨.gen, 0x0000, 0, 12, .ro, 0, 0, 4095⟩
/-- KV_FREE.RESERVED_PAGES (R296). -/
def KV_FREE_RESERVED_PAGES : Fld := ⟨.gen, 0x0004, 16, 16, .ro, 0, 0, 65535⟩
/-- KV_FREE.FREE_PAGES (R296). -/
def KV_FREE_FREE_PAGES : Fld := ⟨.gen, 0x0004, 0, 16, .ro, 0, 0, 65535⟩
/-- SPEC_CFG.TREE_OK (R296). -/
def SPEC_CFG_TREE_OK : Fld := ⟨.gen, 0x0008, 8, 1, .rws, 0, 0, 1⟩
/-- SPEC_CFG.MAX_CAND (R296). -/
def SPEC_CFG_MAX_CAND : Fld := ⟨.gen, 0x0008, 0, 5, .rws, 0, 0, 31⟩
/-- STEER_CFG.STEER_ENTRIES (R296). -/
def STEER_CFG_STEER_ENTRIES : Fld := ⟨.gen, 0x000C, 0, 16, .ro, 0, 0, 65535⟩
/-- GEN_EVT.TUNE_STEP (R296). -/
def GEN_EVT_TUNE_STEP : Fld := ⟨.gen, 0x0010, 3, 1, .rw1c, 0, 0, 1⟩
/-- GEN_EVT.RESULT_BAD (R296). -/
def GEN_EVT_RESULT_BAD : Fld := ⟨.gen, 0x0010, 2, 1, .rw1c, 0, 0, 1⟩
/-- GEN_EVT.DRAFT_DROPPED (R296). -/
def GEN_EVT_DRAFT_DROPPED : Fld := ⟨.gen, 0x0010, 1, 1, .rw1c, 0, 0, 1⟩
/-- GEN_EVT.STEER_REFUSED (R296). -/
def GEN_EVT_STEER_REFUSED : Fld := ⟨.gen, 0x0010, 0, 1, .rw1c, 0, 0, 1⟩
/-- SPEC_OFFERED.OFFERED (R296). -/
def SPEC_OFFERED : Fld := ⟨.gen, 0x0014, 0, 32, .ro, 0, 0, 4294967295⟩
/-- SPEC_ACCEPTED.ACCEPTED (R296). -/
def SPEC_ACCEPTED : Fld := ⟨.gen, 0x0018, 0, 32, .ro, 0, 0, 4294967295⟩
/-- SERVE_CFG.PORT (R336). -/
def SERVE_CFG_PORT : Fld := ⟨.serve, 0x0000, 28, 1, .rws, 0, 0, 1⟩
/-- SERVE_CFG.SLOT_COUNT (R336). -/
def SERVE_CFG_SLOT_COUNT : Fld := ⟨.serve, 0x0000, 16, 9, .rws, 0, 0, 256⟩
/-- SERVE_CFG.SLOT_BASE (R336). -/
def SERVE_CFG_SLOT_BASE : Fld := ⟨.serve, 0x0000, 0, 10, .rws, 0, 0, 1023⟩
/-- WVER_CFG.HOLD_COUNT (R336). -/
def WVER_CFG_HOLD_COUNT : Fld := ⟨.serve, 0x0004, 24, 8, .ro, 0, 0, 255⟩
/-- WVER_CFG.HOLD_MAX (R336). -/
def WVER_CFG_HOLD_MAX : Fld := ⟨.serve, 0x0004, 16, 8, .rws, 64, 1, 255⟩
/-- WVER_CFG.DRAIN_FROM (R336). -/
def WVER_CFG_DRAIN_FROM : Fld := ⟨.serve, 0x0004, 10, 2, .ro, 0, 0, 3⟩
/-- WVER_CFG.WVER_STATE (R336). -/
def WVER_CFG_WVER_STATE : Fld := ⟨.serve, 0x0004, 8, 2, .ro, 0, 0, 3⟩
/-- WVER_CFG.ACTIVE_WVER (R336). -/
def WVER_CFG_ACTIVE_WVER : Fld := ⟨.serve, 0x0004, 0, 2, .rws, 0, 0, 3⟩
/-- DRAIN_CFG.DRAIN_PAUSE_MAX (R336). -/
def DRAIN_CFG_DRAIN_PAUSE_MAX : Fld := ⟨.serve, 0x0008, 0, 13, .rws, 2900, 0, 2900⟩
/-- PREFILL_RATE.PREFILL_RATE (R336). -/
def PREFILL_RATE : Fld := ⟨.serve, 0x000C, 0, 24, .ro, 0, 0, 16777215⟩
/-- SERVE_EVT.WVER_SWITCHED (R336). -/
def SERVE_EVT_WVER_SWITCHED : Fld := ⟨.serve, 0x0010, 8, 1, .rw1c, 0, 0, 1⟩
/-- SERVE_EVT.DRAIN_ENTERED (R336). -/
def SERVE_EVT_DRAIN_ENTERED : Fld := ⟨.serve, 0x0010, 7, 1, .rw1c, 0, 0, 1⟩
/-- SERVE_EVT.CEIL_MISS (R336). -/
def SERVE_EVT_CEIL_MISS : Fld := ⟨.serve, 0x0010, 6, 1, .rw1c, 0, 0, 1⟩
/-- SERVE_EVT.EQ_LOST (R336). -/
def SERVE_EVT_EQ_LOST : Fld := ⟨.serve, 0x0010, 5, 1, .rw1c, 0, 0, 1⟩
/-- SERVE_EVT.STREAM_FULL (R336). -/
def SERVE_EVT_STREAM_FULL : Fld := ⟨.serve, 0x0010, 4, 1, .rw1c, 0, 0, 1⟩
/-- SERVE_EVT.FETCH_ERROR (R336). -/
def SERVE_EVT_FETCH_ERROR : Fld := ⟨.serve, 0x0010, 3, 1, .rw1c, 0, 0, 1⟩
/-- SERVE_EVT.DOORBELL_BAD (R336). -/
def SERVE_EVT_DOORBELL_BAD : Fld := ⟨.serve, 0x0010, 2, 1, .rw1c, 0, 0, 1⟩
/-- SERVE_EVT.BAD_DESC_SEEN (R336). -/
def SERVE_EVT_BAD_DESC_SEEN : Fld := ⟨.serve, 0x0010, 1, 1, .rw1c, 0, 0, 1⟩
/-- SERVE_EVT.BUSY_SEEN (R336). -/
def SERVE_EVT_BUSY_SEEN : Fld := ⟨.serve, 0x0010, 0, 1, .rw1c, 0, 0, 1⟩
/-- TURN_MEAN.TURN_US (R336). -/
def TURN_MEAN_TURN_US : Fld := ⟨.serve, 0x0014, 0, 24, .ro, 0, 0, 16777215⟩
/-- BASE_LO.BASE (R336). -/
def BASE_LO_BASE (r : Nat) : Fld := ⟨.serve, ringOff r, 12, 20, .rws, 0, 0, 1048575⟩
/-- BASE_HI.BASE (R336). -/
def BASE_HI_BASE (r : Nat) : Fld := ⟨.serve, ringOff r + 4, 0, 32, .rws, 0, 0, 4294967295⟩
/-- RING_CFG.COAL_US (R336). -/
def RING_CFG_COAL_US (r : Nat) : Fld := ⟨.serve, ringOff r + 8, 24, 8, .rws, 0, 0, 255⟩
/-- RING_CFG.VECTOR (R336). -/
def RING_CFG_VECTOR (r : Nat) : Fld := ⟨.serve, ringOff r + 8, 16, 8, .rws, 0, 0, 255⟩
/-- RING_CFG.COALESCE (R336). -/
def RING_CFG_COALESCE (r : Nat) : Fld := ⟨.serve, ringOff r + 8, 8, 8, .rws, 0, 0, 255⟩
/-- RING_CFG.ENABLE (R336). -/
def RING_CFG_ENABLE (r : Nat) : Fld := ⟨.serve, ringOff r + 8, 7, 1, .rws, 0, 0, 1⟩
/-- RING_CFG.SIZE_CODE (R336). -/
def RING_CFG_SIZE_CODE (r : Nat) : Fld := ⟨.serve, ringOff r + 8, 0, 4, .rws, 0, 0, 10⟩
/-- CLASS_CFG.VALID (R337). -/
def CLASS_CFG_VALID (n : Nat) : Fld := ⟨.serve, 0x0600 + 0x10 * n, 31, 1, .rws, if n = 0 then 1 else 0, 0, 1⟩
/-- CLASS_CFG.PRIORITY (R337). -/
def CLASS_CFG_PRIORITY (n : Nat) : Fld := ⟨.serve, 0x0600 + 0x10 * n, 24, 3, .rws, 4, 0, 7⟩
/-- CLASS_CFG.MAX_CHUNK (R337). -/
def CLASS_CFG_MAX_CHUNK (n : Nat) : Fld := ⟨.serve, 0x0600 + 0x10 * n, 12, 7, .rws, 64, 1, 64⟩
/-- CLASS_TIME.TTFT_TARGET (R337). -/
def CLASS_TIME_TTFT_TARGET (n : Nat) : Fld := ⟨.serve, 0x0604 + 0x10 * n, 16, 16, .rws, 2000, 0, 65535⟩
/-- CLASS_TIME.QUEUE_BOUND (R337). -/
def CLASS_TIME_QUEUE_BOUND (n : Nat) : Fld := ⟨.serve, 0x0604 + 0x10 * n, 0, 16, .rws, 1000, 1, 65535⟩
/-- CLASS_TBT.TBT_CEIL (R337). -/
def CLASS_TBT_TBT_CEIL (n : Nat) : Fld := ⟨.serve, 0x0608 + 0x10 * n, 16, 16, .rws, 0, 0, 65535⟩
/-- CLASS_TBT.TBT_TARGET (R337). -/
def CLASS_TBT_TBT_TARGET (n : Nat) : Fld := ⟨.serve, 0x0608 + 0x10 * n, 0, 16, .rws, 1000, 0, 65535⟩
/-- CLASS_STAT.TTFT_MISS (R337). -/
def CLASS_STAT_TTFT_MISS (n : Nat) : Fld := ⟨.serve, 0x0700 + 0x10 * n, 0, 32, .ro, 0, 0, 4294967295⟩
/-- CLASS_STAT.TBT_MISS (R337). -/
def CLASS_STAT_TBT_MISS (n : Nat) : Fld := ⟨.serve, 0x0704 + 0x10 * n, 0, 32, .ro, 0, 0, 4294967295⟩
/-- CLASS_STAT.CEIL_MISS (R337). -/
def CLASS_STAT_CEIL_MISS (n : Nat) : Fld := ⟨.serve, 0x0708 + 0x10 * n, 0, 32, .ro, 0, 0, 4294967295⟩
/-- CLASS_STAT.BUSY_COUNT (R337). -/
def CLASS_STAT_BUSY_COUNT (n : Nat) : Fld := ⟨.serve, 0x070C + 0x10 * n, 0, 32, .ro, 0, 0, 4294967295⟩
/-- LOAD_CTRL.OP (R372). -/
def LOAD_CTRL_OP : Fld := ⟨.load, 0x0000, 28, 4, .wo, 0, 1, 4⟩
/-- LOAD_CTRL.PLACE (R372). -/
def LOAD_CTRL_PLACE : Fld := ⟨.load, 0x0000, 24, 2, .wo, 0, 0, 3⟩
/-- LOAD_SRC.SRC_UP (R372). -/
def LOAD_SRC_SRC_UP : Fld := ⟨.load, 0x0004, 2, 1, .rw, 0, 0, 1⟩
/-- LOAD_SRC.SRC_PE1 (R372). -/
def LOAD_SRC_SRC_PE1 : Fld := ⟨.load, 0x0004, 1, 1, .rw, 0, 0, 1⟩
/-- LOAD_SRC.SRC_PE0 (R372). -/
def LOAD_SRC_SRC_PE0 : Fld := ⟨.load, 0x0004, 0, 1, .rw, 0, 0, 1⟩
/-- RELAY_CFG.DOWN_EN (R372). -/
def RELAY_CFG_DOWN_EN : Fld := ⟨.load, 0x0008, 31, 1, .rw, 0, 0, 1⟩
/-- RELAY_CFG.DOWN_PORT (R372). -/
def RELAY_CFG_DOWN_PORT : Fld := ⟨.load, 0x0008, 24, 5, .rw, 0, 0, 31⟩
/-- RELAY_CFG.HOP (R372). -/
def RELAY_CFG_HOP : Fld := ⟨.load, 0x0008, 16, 6, .rw, 0, 0, 63⟩
/-- RELAY_CFG.UP_PORT (R372). -/
def RELAY_CFG_UP_PORT : Fld := ⟨.load, 0x0008, 0, 5, .rw, 0, 0, 31⟩
/-- MANIFEST_LO.ADDR (R372). -/
def MANIFEST_LO_ADDR : Fld := ⟨.load, 0x0010, 6, 26, .rw, 0, 0, 67108863⟩
/-- MANIFEST_HI.ADDR (R372). -/
def MANIFEST_HI_ADDR : Fld := ⟨.load, 0x0014, 0, 32, .rw, 0, 0, 4294967295⟩
/-- MANIFEST_LEN.LEN (R372). -/
def MANIFEST_LEN : Fld := ⟨.load, 0x0018, 0, 32, .rw, 0, 256, 67108864⟩
/-- LOAD_ORIGIN.ORIGIN_SET (R372). -/
def LOAD_ORIGIN_ORIGIN_SET : Fld := ⟨.load, 0x001C, 7, 1, .rw, 0, 0, 1⟩
/-- LOAD_ORIGIN.ORIGIN (R372). -/
def LOAD_ORIGIN : Fld := ⟨.load, 0x001C, 0, 7, .rw, 0, 0, 119⟩
/-- IMAGE_BASE_LO.BASE (R372). -/
def IMAGE_BASE_LO_BASE (i : Nat) : Fld := ⟨.load, 0x0020 + 8 * i, 6, 26, .rw, 0, 0, 67108863⟩
/-- IMAGE_BASE_HI.BASE (R372). -/
def IMAGE_BASE_HI_BASE (i : Nat) : Fld := ⟨.load, 0x0024 + 8 * i, 0, 32, .rw, 0, 0, 4294967295⟩
/-- LOAD_IRQ.VECTOR (R372). -/
def LOAD_IRQ_VECTOR : Fld := ⟨.load, 0x0030, 0, 8, .rw, 0, 0, 255⟩
/-- LOAD_STATUS.STATE (R372). -/
def LOAD_STATUS_STATE : Fld := ⟨.load, 0x0040, 28, 4, .ro, 0, 0, 15⟩
/-- LOAD_STATUS.PLACE (R372). -/
def LOAD_STATUS_PLACE : Fld := ⟨.load, 0x0040, 24, 2, .ro, 0, 0, 3⟩
/-- LOAD_STATUS.REASON (R372). -/
def LOAD_STATUS_REASON : Fld := ⟨.load, 0x0040, 16, 8, .ro, 0, 0, 255⟩
/-- LOAD_DONE.SHARDS_DONE (R372). -/
def LOAD_DONE_SHARDS_DONE : Fld := ⟨.load, 0x0044, 0, 32, .ro, 0, 0, 4294967295⟩
/-- LOAD_TOTAL.SHARDS_TOTAL (R372). -/
def LOAD_TOTAL_SHARDS_TOTAL : Fld := ⟨.load, 0x0048, 0, 32, .ro, 0, 0, 4294967295⟩
/-- LOAD_FAIL_SHARD.INDEX (R372). -/
def LOAD_FAIL_SHARD_INDEX : Fld := ⟨.load, 0x004C, 0, 32, .ro, 0, 0, 4294967295⟩
/-- LOAD_FAIL_HOP.HOP (R372). -/
def LOAD_FAIL_HOP : Fld := ⟨.load, 0x0050, 8, 6, .ro, 0, 0, 63⟩
/-- LOAD_FAIL_HOP.ATTEMPTS (R372). -/
def LOAD_FAIL_HOP_ATTEMPTS : Fld := ⟨.load, 0x0050, 0, 4, .ro, 0, 0, 15⟩
/-- WVER_PLACES.PLACE_STATE (R372). -/
def WVER_PLACES_PLACE_STATE : Fld := ⟨.load, 0x0060, 0, 16, .ro, 0, 0, 65535⟩
/-- WVER_REMOVE.REMOVE (R372). -/
def WVER_REMOVE : Fld := ⟨.load, 0x0064, 0, 4, .rws, 0, 0, 15⟩
/-- LOAD_EVT.WRITE_DROPPED (R372). -/
def LOAD_EVT_WRITE_DROPPED : Fld := ⟨.load, 0x0068, 6, 1, .rw1c, 0, 0, 1⟩
/-- LOAD_EVT.REMOVED (R372). -/
def LOAD_EVT_REMOVED : Fld := ⟨.load, 0x0068, 5, 1, .rw1c, 0, 0, 1⟩
/-- LOAD_EVT.SHARD_RETRY (R372). -/
def LOAD_EVT_SHARD_RETRY : Fld := ⟨.load, 0x0068, 4, 1, .rw1c, 0, 0, 1⟩
/-- LOAD_EVT.RELAY_HELD (R372). -/
def LOAD_EVT_RELAY_HELD : Fld := ⟨.load, 0x0068, 3, 1, .rw1c, 0, 0, 1⟩
/-- LOAD_EVT.REFUSED (R372). -/
def LOAD_EVT_REFUSED : Fld := ⟨.load, 0x0068, 2, 1, .rw1c, 0, 0, 1⟩
/-- LOAD_EVT.FAILED (R372). -/
def LOAD_EVT_FAILED : Fld := ⟨.load, 0x0068, 1, 1, .rw1c, 0, 0, 1⟩
/-- LOAD_EVT.LOADED (R372). -/
def LOAD_EVT_LOADED : Fld := ⟨.load, 0x0068, 0, 1, .rw1c, 0, 0, 1⟩
/-- LOAD_RETRY_COUNT.RETRIES (R372). -/
def LOAD_RETRY_COUNT_RETRIES : Fld := ⟨.load, 0x006C, 0, 32, .ro, 0, 0, 4294967295⟩
/-- PART_CTRL.OP (R410). -/
def PART_CTRL_OP : Fld := ⟨.part, 0x0000, 28, 4, .wo, 0, 1, 3⟩
/-- PART_STATUS.STATE (R410). -/
def PART_STATUS_STATE : Fld := ⟨.part, 0x0004, 28, 4, .ro, 0, 0, 15⟩
/-- PART_STATUS.SEAL_RULE (R410). -/
def PART_STATUS_SEAL_RULE : Fld := ⟨.part, 0x0004, 16, 8, .ro, 0, 0, 255⟩
/-- PART_STATUS.FIXED_SLOTS (R410). -/
def PART_STATUS_FIXED_SLOTS : Fld := ⟨.part, 0x0004, 1, 1, .ro, 0, 0, 1⟩
/-- PART_STATUS.DEBUG_LOCK (R410). -/
def PART_STATUS_DEBUG_LOCK : Fld := ⟨.part, 0x0004, 0, 1, .ro, 0, 0, 1⟩
/-- PART_CFG.SEC_MODE (R410). -/
def PART_CFG_SEC_MODE : Fld := ⟨.part, 0x0008, 31, 1, .rwl, 0, 0, 1⟩
/-- PART_CFG.DEBUG_LEVEL (R410). -/
def PART_CFG_DEBUG_LEVEL : Fld := ⟨.part, 0x0008, 29, 2, .rwl, 0, 0, 2⟩
/-- PART_CFG.DMA_SLOTS (R410). -/
def PART_CFG_DMA_SLOTS : Fld := ⟨.part, 0x0008, 16, 7, .rwl, 0, 0, 64⟩
/-- PART_CFG.POWER_SHARE (R410). -/
def PART_CFG_POWER_SHARE : Fld := ⟨.part, 0x0008, 0, 9, .rwl, 0, 1, 450⟩
/-- PALLET_MASK.PALLETS (R410). -/
def PALLET_MASK_PALLETS (n : Nat) : Fld := ⟨.part, 0x0010 + 4 * n, 0, 32, .rwl, 0, 0, 4294967295⟩
/-- PALLET_MASK_3.PALLETS (R410). -/
def PALLET_MASK_3_PALLETS : Fld := ⟨.part, 0x001C, 0, 24, .rwl, 0, 0, 16777215⟩
/-- PART_EVT.LOCK_VIOLATION (R410). -/
def PART_EVT_LOCK_VIOLATION : Fld := ⟨.part, 0x0020, 6, 1, .rw1c, 0, 0, 1⟩
/-- PART_EVT.SCRUB_DONE (R410). -/
def PART_EVT_SCRUB_DONE : Fld := ⟨.part, 0x0020, 5, 1, .rw1c, 0, 0, 1⟩
/-- PART_EVT.NONCE_LIMIT (R410). -/
def PART_EVT_NONCE_LIMIT : Fld := ⟨.part, 0x0020, 4, 1, .rw1c, 0, 0, 1⟩
/-- PART_EVT.AUTH_FAIL_SEEN (R410). -/
def PART_EVT_AUTH_FAIL_SEEN : Fld := ⟨.part, 0x0020, 3, 1, .rw1c, 0, 0, 1⟩
/-- PART_EVT.KEY_REFUSED (R410). -/
def PART_EVT_KEY_REFUSED : Fld := ⟨.part, 0x0020, 2, 1, .rw1c, 0, 0, 1⟩
/-- PART_EVT.KEY_DELIVERED (R410). -/
def PART_EVT_KEY_DELIVERED : Fld := ⟨.part, 0x0020, 1, 1, .rw1c, 0, 0, 1⟩
/-- PART_EVT.SEAL_REFUSED (R410). -/
def PART_EVT_SEAL_REFUSED : Fld := ⟨.part, 0x0020, 0, 1, .rw1c, 0, 0, 1⟩
/-- KEY_STATUS.EPOCH_LO (R410). -/
def KEY_STATUS_EPOCH_LO : Fld := ⟨.part, 0x0024, 16, 16, .ro, 0, 0, 65535⟩
/-- KEY_STATUS.GEN (R410). -/
def KEY_STATUS_GEN : Fld := ⟨.part, 0x0024, 8, 8, .ro, 0, 0, 255⟩
/-- KEY_STATUS.LINK_KEY (R410). -/
def KEY_STATUS_LINK_KEY : Fld := ⟨.part, 0x0024, 7, 1, .ro, 0, 0, 1⟩
/-- KEY_STATUS.HOST_KEYS (R410). -/
def KEY_STATUS_HOST_KEYS : Fld := ⟨.part, 0x0024, 6, 1, .ro, 0, 0, 1⟩
/-- KEY_STATUS.ROTATING (R410). -/
def KEY_STATUS_ROTATING : Fld := ⟨.part, 0x0024, 5, 1, .ro, 0, 0, 1⟩
/-- KEY_STATUS.IMAGE_KEYS (R410). -/
def KEY_STATUS_IMAGE_KEYS : Fld := ⟨.part, 0x0024, 0, 3, .ro, 0, 0, 7⟩
/-- AUTH_FAIL_COUNT.AUTH_FAILS (R410). -/
def AUTH_FAIL_COUNT_AUTH_FAILS : Fld := ⟨.part, 0x0028, 0, 32, .ro, 0, 0, 4294967295⟩
/-- KEY_EPOCH.KEY_EPOCH (R410). -/
def KEY_EPOCH : Fld := ⟨.part, 0x002C, 0, 32, .ro, 0, 0, 4294967295⟩
/-- SVC_CFG.LASTING_WINDOW (R436). -/
def SVC_CFG_LASTING_WINDOW : Fld := ⟨.svc, 0x0000, 8, 8, .rw, 24, 1, 168⟩
/-- SVC_CFG.LASTING_N (R436). -/
def SVC_CFG_LASTING_N : Fld := ⟨.svc, 0x0000, 0, 4, .rw, 3, 2, 15⟩
/-- SVC_STATUS.HANDOVER (R436). -/
def SVC_STATUS_HANDOVER : Fld := ⟨.svc, 0x0004, 28, 4, .ro, 0, 0, 15⟩
/-- SVC_STATUS.REBUILD (R436). -/
def SVC_STATUS_REBUILD : Fld := ⟨.svc, 0x0004, 9, 1, .ro, 0, 0, 1⟩
/-- SVC_STATUS.REPLACE_BUSY (R436). -/
def SVC_STATUS_REPLACE_BUSY : Fld := ⟨.svc, 0x0004, 8, 1, .ro, 0, 0, 1⟩
/-- SVC_STATUS.PE1_UP (R436). -/
def SVC_STATUS_PE1_UP : Fld := ⟨.svc, 0x0004, 3, 1, .ro, 0, 0, 1⟩
/-- SVC_STATUS.PE0_UP (R436). -/
def SVC_STATUS_PE0_UP : Fld := ⟨.svc, 0x0004, 2, 1, .ro, 0, 0, 1⟩
/-- SVC_STATUS.FEED_B_OK (R436). -/
def SVC_STATUS_FEED_B_OK : Fld := ⟨.svc, 0x0004, 1, 1, .ro, 0, 0, 1⟩
/-- SVC_STATUS.FEED_A_OK (R436). -/
def SVC_STATUS_FEED_A_OK : Fld := ⟨.svc, 0x0004, 0, 1, .ro, 0, 0, 1⟩
/-- SVC_EVT.ALERT (R436). -/
def SVC_EVT_ALERT : Fld := ⟨.svc, 0x0008, 8, 1, .rw1c, 0, 0, 1⟩
/-- SVC_EVT.PLACEMENT_LOST (R436). -/
def SVC_EVT_PLACEMENT_LOST : Fld := ⟨.svc, 0x0008, 7, 1, .rw1c, 0, 0, 1⟩
/-- SVC_EVT.WITHDRAW (R436). -/
def SVC_EVT_WITHDRAW : Fld := ⟨.svc, 0x0008, 6, 1, .rw1c, 0, 0, 1⟩
/-- SVC_EVT.FW_HANDOVER (R436). -/
def SVC_EVT_FW_HANDOVER : Fld := ⟨.svc, 0x0008, 5, 1, .rw1c, 0, 0, 1⟩
/-- SVC_EVT.FEED_FAILOVER (R436). -/
def SVC_EVT_FEED_FAILOVER : Fld := ⟨.svc, 0x0008, 4, 1, .rw1c, 0, 0, 1⟩
/-- SVC_EVT.HOST_FAILOVER (R436). -/
def SVC_EVT_HOST_FAILOVER : Fld := ⟨.svc, 0x0008, 3, 1, .rw1c, 0, 0, 1⟩
/-- SVC_EVT.REPLACED (R436). -/
def SVC_EVT_REPLACED : Fld := ⟨.svc, 0x0008, 2, 1, .rw1c, 0, 0, 1⟩
/-- SVC_EVT.LASTING (R436). -/
def SVC_EVT_LASTING : Fld := ⟨.svc, 0x0008, 1, 1, .rw1c, 0, 0, 1⟩
/-- SVC_EVT.TRANSIENT (R436). -/
def SVC_EVT_TRANSIENT : Fld := ⟨.svc, 0x0008, 0, 1, .rw1c, 0, 0, 1⟩
/-- SVC_LAST_UNIT_LO.UNIT (R436). -/
def SVC_LAST_UNIT_LO_UNIT : Fld := ⟨.svc, 0x0010, 0, 32, .ro, 0, 0, 4294967295⟩
/-- SVC_LAST_UNIT_HI.UNIT (R436). -/
def SVC_LAST_UNIT_HI_UNIT : Fld := ⟨.svc, 0x0014, 0, 32, .ro, 0, 0, 4294967295⟩
/-- SVC_TRANSIENT_COUNT.TRANSIENTS (R436). -/
def SVC_TRANSIENT_COUNT_TRANSIENTS : Fld := ⟨.svc, 0x0018, 0, 32, .ro, 0, 0, 4294967295⟩
/-- SVC_LASTING_COUNT.LASTINGS (R436). -/
def SVC_LASTING_COUNT_LASTINGS : Fld := ⟨.svc, 0x001C, 0, 32, .ro, 0, 0, 4294967295⟩
/-- SVC_HITCH_COUNT.HITCHES (R436). -/
def SVC_HITCH_COUNT_HITCHES : Fld := ⟨.svc, 0x0020, 0, 32, .ro, 0, 0, 4294967295⟩
/-- SVC_STOP_COUNT.STOPS (R436). -/
def SVC_STOP_COUNT_STOPS : Fld := ⟨.svc, 0x0024, 0, 32, .ro, 0, 0, 4294967295⟩
/-- SVC_HITCH_MAX.MS (R436). -/
def SVC_HITCH_MAX_MS : Fld := ⟨.svc, 0x0028, 0, 32, .ro, 0, 0, 4294967295⟩
/-- PWR_CFG.PARK_EN (R473). -/
def PWR_CFG_PARK_EN : Fld := ⟨.pwr, 0x0000, 31, 1, .rws, 1, 0, 1⟩
/-- PWR_CFG.LEND_EN (R473). -/
def PWR_CFG_LEND_EN : Fld := ⟨.pwr, 0x0000, 30, 1, .rws, 1, 0, 1⟩
/-- PWR_CFG.COOL_MIN (R473). -/
def PWR_CFG_COOL_MIN : Fld := ⟨.pwr, 0x0000, 0, 8, .rws, 8, 4, 40⟩
/-- PWR_STATUS.TRIPPED_LAST (R473). -/
def PWR_STATUS_TRIPPED_LAST : Fld := ⟨.pwr, 0x0004, 16, 1, .ro, 0, 0, 1⟩
/-- PWR_STATUS.COOL_OK_IN (R473). -/
def PWR_STATUS_COOL_OK_IN : Fld := ⟨.pwr, 0x0004, 15, 1, .ro, 0, 0, 1⟩
/-- PWR_STATUS.PWR_WARN_IN (R473). -/
def PWR_STATUS_PWR_WARN_IN : Fld := ⟨.pwr, 0x0004, 14, 1, .ro, 0, 0, 1⟩
/-- PWR_STATUS.EMERG_W1 (R473). -/
def PWR_STATUS_EMERG_W1 : Fld := ⟨.pwr, 0x0004, 13, 1, .ro, 0, 0, 1⟩
/-- PWR_STATUS.EMERG_W0 (R473). -/
def PWR_STATUS_EMERG_W0 : Fld := ⟨.pwr, 0x0004, 12, 1, .ro, 0, 0, 1⟩
/-- PWR_STATUS.REF_STANDBY (R473). -/
def PWR_STATUS_REF_STANDBY : Fld := ⟨.pwr, 0x0004, 11, 1, .ro, 0, 0, 1⟩
/-- PWR_STATUS.SYNC_LOCKED (R473). -/
def PWR_STATUS_SYNC_LOCKED : Fld := ⟨.pwr, 0x0004, 10, 1, .ro, 0, 0, 1⟩
/-- PWR_STATUS.REF_FREERUN (R473). -/
def PWR_STATUS_REF_FREERUN : Fld := ⟨.pwr, 0x0004, 9, 1, .ro, 1, 0, 1⟩
/-- PWR_STATUS.FEED_B (R473). -/
def PWR_STATUS_FEED_B : Fld := ⟨.pwr, 0x0004, 2, 2, .ro, 0, 0, 3⟩
/-- PWR_STATUS.FEED_A (R473). -/
def PWR_STATUS_FEED_A : Fld := ⟨.pwr, 0x0004, 0, 2, .ro, 0, 0, 3⟩
/-- PWR_EVT.SHARE_CUT (R473). -/
def PWR_EVT_SHARE_CUT : Fld := ⟨.pwr, 0x0008, 8, 1, .rw1c, 0, 0, 1⟩
/-- PWR_EVT.PWR_WARN (R473). -/
def PWR_EVT_PWR_WARN : Fld := ⟨.pwr, 0x0008, 7, 1, .rw1c, 0, 0, 1⟩
/-- PWR_EVT.COOL_RANGE (R473). -/
def PWR_EVT_COOL_RANGE : Fld := ⟨.pwr, 0x0008, 6, 1, .rw1c, 0, 0, 1⟩
/-- PWR_EVT.COOL_FLOW_LOW (R473). -/
def PWR_EVT_COOL_FLOW_LOW : Fld := ⟨.pwr, 0x0008, 5, 1, .rw1c, 0, 0, 1⟩
/-- PWR_EVT.EMERGENCY (R473). -/
def PWR_EVT_EMERGENCY : Fld := ⟨.pwr, 0x0008, 4, 1, .rw1c, 0, 0, 1⟩
/-- PWR_EVT.RAIL_FAULT (R473). -/
def PWR_EVT_RAIL_FAULT : Fld := ⟨.pwr, 0x0008, 3, 1, .rw1c, 0, 0, 1⟩
/-- PWR_EVT.REF_EVENT (R473). -/
def PWR_EVT_REF_EVENT : Fld := ⟨.pwr, 0x0008, 2, 1, .rw1c, 0, 0, 1⟩
/-- PWR_EVT.CRACK_WITHDRAW (R473). -/
def PWR_EVT_CRACK_WITHDRAW : Fld := ⟨.pwr, 0x0008, 1, 1, .rw1c, 0, 0, 1⟩
/-- PWR_EVT.CRACK_WARN (R473). -/
def PWR_EVT_CRACK_WARN : Fld := ⟨.pwr, 0x0008, 0, 1, .rw1c, 0, 0, 1⟩
/-- MODULE_POWER.CAP (R473). -/
def MODULE_POWER_CAP : Fld := ⟨.pwr, 0x000C, 16, 16, .ro, 24000, 0, 65535⟩
/-- MODULE_POWER.DRAW (R473). -/
def MODULE_POWER_DRAW : Fld := ⟨.pwr, 0x000C, 0, 16, .ro, 0, 0, 65535⟩
/-- COOL_FORECAST.FORECAST (R473). -/
def COOL_FORECAST : Fld := ⟨.pwr, 0x0010, 16, 16, .ro, 0, 0, 65535⟩
/-- COOL_FORECAST.DEMAND (R473). -/
def COOL_FORECAST_DEMAND : Fld := ⟨.pwr, 0x0010, 0, 8, .ro, 0, 0, 255⟩
/-- PART_POWER.BUDGET (R476). -/
def PART_POWER_BUDGET : Fld := ⟨.part, 0x0030, 16, 16, .ro, 0, 0, 65535⟩
/-- PART_POWER.DRAW (R476). -/
def PART_POWER_DRAW : Fld := ⟨.part, 0x0030, 0, 16, .ro, 0, 0, 65535⟩
/-- PART_THROTTLE.THROTTLES (R476). -/
def PART_THROTTLE_THROTTLES : Fld := ⟨.part, 0x0034, 0, 32, .ro, 0, 0, 4294967295⟩
/-- PART_PWR_EVT.EMERGENCY_SEEN (R476). -/
def PART_PWR_EVT_EMERGENCY_SEEN : Fld := ⟨.part, 0x0038, 2, 1, .rw1c, 0, 0, 1⟩
/-- PART_PWR_EVT.THERMAL_STEP (R476). -/
def PART_PWR_EVT_THERMAL_STEP : Fld := ⟨.part, 0x0038, 1, 1, .rw1c, 0, 0, 1⟩
/-- PART_PWR_EVT.POWER_STEP (R476). -/
def PART_PWR_EVT_POWER_STEP : Fld := ⟨.part, 0x0038, 0, 1, .rw1c, 0, 0, 1⟩
/-- FUNC_MAP.PE1_VALID (R511). -/
def FUNC_MAP_PE1_VALID (p : Nat) : Fld := ⟨.port, 0x0000 + 4 * p, 29, 1, .rws, 1, 0, 1⟩
/-- FUNC_MAP.PE1_FUNC (R511). -/
def FUNC_MAP_PE1_FUNC (p : Nat) : Fld := ⟨.port, 0x0000 + 4 * p, 24, 5, .rws, 0, 0, 16⟩
/-- FUNC_MAP.PE0_VALID (R511). -/
def FUNC_MAP_PE0_VALID (p : Nat) : Fld := ⟨.port, 0x0000 + 4 * p, 13, 1, .rws, 1, 0, 1⟩
/-- FUNC_MAP.PE0_FUNC (R511). -/
def FUNC_MAP_PE0_FUNC (p : Nat) : Fld := ⟨.port, 0x0000 + 4 * p, 8, 5, .rws, 0, 0, 16⟩
/-- HOST_LEASE.HOLDER (R511). -/
def HOST_LEASE_HOLDER : Fld := ⟨.port, 0x0040, 30, 2, .ro, 0, 0, 3⟩
/-- HOST_LEASE.RELEASE (R511). -/
def HOST_LEASE_RELEASE : Fld := ⟨.port, 0x0040, 17, 1, .wo, 0, 0, 1⟩
/-- HOST_LEASE.CLAIM (R511). -/
def HOST_LEASE_CLAIM : Fld := ⟨.port, 0x0040, 16, 1, .wo, 0, 0, 1⟩
/-- HOST_LEASE.LEASE_MS (R511). -/
def HOST_LEASE_LEASE_MS : Fld := ⟨.port, 0x0040, 0, 16, .rw, 1000, 100, 60000⟩
/-- HOST_EVT.LEASE_DROPPED (R511). -/
def HOST_EVT_LEASE_DROPPED : Fld := ⟨.port, 0x0044, 5, 1, .rw1c, 0, 0, 1⟩
/-- HOST_EVT.LEASE_LAPSED (R511). -/
def HOST_EVT_LEASE_LAPSED : Fld := ⟨.port, 0x0044, 4, 1, .rw1c, 0, 0, 1⟩
/-- HOST_EVT.FLR_PE1 (R511). -/
def HOST_EVT_FLR_PE1 : Fld := ⟨.port, 0x0044, 3, 1, .rw1c, 0, 0, 1⟩
/-- HOST_EVT.FLR_PE0 (R511). -/
def HOST_EVT_FLR_PE0 : Fld := ⟨.port, 0x0044, 2, 1, .rw1c, 0, 0, 1⟩
/-- HOST_EVT.RESET_PE1 (R511). -/
def HOST_EVT_RESET_PE1 : Fld := ⟨.port, 0x0044, 1, 1, .rw1c, 0, 0, 1⟩
/-- HOST_EVT.RESET_PE0 (R511). -/
def HOST_EVT_RESET_PE0 : Fld := ⟨.port, 0x0044, 0, 1, .rw1c, 0, 0, 1⟩
/-- SB_STATUS.CHATTER (R511). -/
def SB_STATUS_CHATTER : Fld := ⟨.port, 0x0080, 16, 6, .rw1c, 0, 0, 63⟩
/-- SB_STATUS.SHORT_COUNT (R511). -/
def SB_STATUS_SHORT_COUNT : Fld := ⟨.port, 0x0080, 8, 8, .ro, 0, 0, 255⟩
/-- SB_STATUS.CHAIN_WIRE (R511). -/
def SB_STATUS_CHAIN_WIRE : Fld := ⟨.port, 0x0080, 7, 1, .ro, 0, 0, 1⟩
/-- SB_STATUS.STRAP_IN (R511). -/
def SB_STATUS_STRAP_IN : Fld := ⟨.port, 0x0080, 6, 1, .ro, 0, 0, 1⟩
/-- SB_STATUS.LEVEL (R511). -/
def SB_STATUS_LEVEL : Fld := ⟨.port, 0x0080, 0, 6, .ro, 0, 0, 63⟩
/-- CHAIN_CFG.CHAIN_MEMBER (R511). -/
def CHAIN_CFG_CHAIN_MEMBER : Fld := ⟨.port, 0x0084, 31, 1, .rw, 0, 0, 1⟩
/-- CHAIN_CFG.SYNC_SOURCE (R511). -/
def CHAIN_CFG_SYNC_SOURCE : Fld := ⟨.port, 0x0084, 30, 1, .rw, 0, 0, 1⟩
/-- CHAIN_CFG.CHAIN_PULLUP (R511). -/
def CHAIN_CFG_CHAIN_PULLUP : Fld := ⟨.port, 0x0084, 29, 1, .rw, 0, 0, 1⟩
/-- CHAIN_CFG.SYNC_DELAY_NS (R511). -/
def CHAIN_CFG_SYNC_DELAY_NS : Fld := ⟨.port, 0x0084, 0, 16, .rw, 0, 0, 65535⟩
/-- AL_STATUS.STATE (R511). -/
def AL_STATUS_STATE (n : Nat) : Fld := ⟨.port, 0x0100 + 4 * n, 29, 3, .ro, 0, 0, 7⟩
/-- AL_STATUS.HALF (R511). -/
def AL_STATUS_HALF (n : Nat) : Fld := ⟨.port, 0x0100 + 4 * n, 28, 1, .ro, 0, 0, 1⟩
/-- AL_STATUS.UPPER (R511). -/
def AL_STATUS_UPPER (n : Nat) : Fld := ⟨.port, 0x0100 + 4 * n, 27, 1, .ro, 0, 0, 1⟩
/-- AL_STATUS.PEER_PORT (R511). -/
def AL_STATUS_PEER_PORT (n : Nat) : Fld := ⟨.port, 0x0100 + 4 * n, 16, 5, .ro, 0, 0, 31⟩
/-- AL_STATUS.LANE_FAULT (R511). -/
def AL_STATUS_LANE_FAULT (n : Nat) : Fld := ⟨.port, 0x0100 + 4 * n, 8, 8, .ro, 0, 0, 255⟩
/-- AL_STATUS.RETRAINS (R511). -/
def AL_STATUS_RETRAINS (n : Nat) : Fld := ⟨.port, 0x0100 + 4 * n, 0, 8, .ro, 0, 0, 255⟩
/-- AL_PEER.PEER_SERIAL (R511). -/
def AL_PEER_PEER_SERIAL (n : Nat) : Fld := ⟨.port, 0x0180 + 4 * n, 0, 32, .ro, 0, 0, 4294967295⟩
/-- AL_RETRY.REPLAYS (R511). -/
def AL_RETRY_REPLAYS (n : Nat) : Fld := ⟨.port, 0x0200 + 4 * n, 0, 32, .ro, 0, 0, 4294967295⟩
/-- BOOT_CTRL.OP (R520). -/
def BOOT_CTRL_OP : Fld := ⟨.boot, 0x000, 28, 4, .wo, 0, 1, 3⟩
/-- BOOT_IMG_LO.ADDR (R520). -/
def BOOT_IMG_LO_ADDR : Fld := ⟨.boot, 0x004, 6, 26, .rw, 0, 0, 67108863⟩
/-- BOOT_IMG_HI.ADDR (R520). -/
def BOOT_IMG_HI_ADDR : Fld := ⟨.boot, 0x008, 0, 32, .rw, 0, 0, 4294967295⟩
/-- BOOT_LEN.LEN (R520). -/
def BOOT_LEN : Fld := ⟨.boot, 0x00C, 0, 32, .rw, 0, 0, 4294967295⟩
/-- BOOT_STATUS.BOOT_STATE (R520). -/
def BOOT_STATUS_BOOT_STATE : Fld := ⟨.boot, 0x010, 28, 4, .ro, 0, 0, 15⟩
/-- BOOT_STATUS.BOOT_ERR (R520). -/
def BOOT_STATUS_BOOT_ERR : Fld := ⟨.boot, 0x010, 16, 8, .ro, 0, 0, 255⟩
/-- BOOT_EVT.BOOT_BUSY (R520). -/
def BOOT_EVT_BOOT_BUSY : Fld := ⟨.boot, 0x014, 1, 1, .rw1c, 0, 0, 1⟩
/-- BOOT_EVT.FW_REFUSED (R520). -/
def BOOT_EVT_FW_REFUSED : Fld := ⟨.boot, 0x014, 0, 1, .rw1c, 0, 0, 1⟩
/-- SVN_FLOOR.FLOOR (R520). -/
def SVN_FLOOR : Fld := ⟨.boot, 0x018, 0, 32, .ro, 0, 0, 4294967295⟩
/-- ID_PRODUCT.PRODUCT (R523). -/
def ID_PRODUCT : Fld := ⟨.ident, 0x000, 16, 16, .ro, 24864, 0, 65535⟩
/-- ID_PRODUCT.STEPPING (R523). -/
def ID_PRODUCT_STEPPING : Fld := ⟨.ident, 0x000, 8, 8, .ro, 0, 0, 255⟩
/-- ID_PRODUCT.MAP_VER (R523). -/
def ID_PRODUCT_MAP_VER : Fld := ⟨.ident, 0x000, 0, 8, .ro, 1, 0, 255⟩
/-- ID_SERIAL_LO.SERIAL (R523). -/
def ID_SERIAL_LO_SERIAL : Fld := ⟨.ident, 0x004, 0, 32, .ro, 0, 0, 4294967295⟩
/-- ID_SERIAL_HI.SERIAL (R523). -/
def ID_SERIAL_HI_SERIAL : Fld := ⟨.ident, 0x008, 0, 32, .ro, 0, 0, 4294967295⟩
/-- ID_MFG.YEAR (R523). -/
def ID_MFG_YEAR : Fld := ⟨.ident, 0x00C, 16, 16, .ro, 0, 0, 65535⟩
/-- ID_MFG.WEEK (R523). -/
def ID_MFG_WEEK : Fld := ⟨.ident, 0x00C, 8, 8, .ro, 0, 0, 255⟩
/-- ID_FW_SVN.SVN (R523). -/
def ID_FW_SVN : Fld := ⟨.ident, 0x010, 0, 32, .ro, 0, 0, 4294967295⟩
/-- ID_FW_VER.VERSION (R523). -/
def ID_FW_VER_VERSION : Fld := ⟨.ident, 0x014, 0, 32, .ro, 0, 0, 4294967295⟩
/-- ID_CAPS.PARTS (R523). -/
def ID_CAPS_PARTS : Fld := ⟨.ident, 0x018, 24, 8, .ro, 16, 0, 255⟩
/-- ID_CAPS.PALLETS (R523). -/
def ID_CAPS_PALLETS : Fld := ⟨.ident, 0x018, 16, 8, .ro, 120, 0, 255⟩
/-- ID_CAPS.SLOTS (R523). -/
def ID_CAPS_SLOTS : Fld := ⟨.ident, 0x018, 0, 16, .ro, 1024, 0, 65535⟩
/-- COMMIT_CTRL.OP (R528). -/
def COMMIT_CTRL_OP : Fld := ⟨.stage, 0x000, 28, 4, .wo, 0, 1, 2⟩
/-- COMMIT_STATUS.STATE (R528). -/
def COMMIT_STATUS_STATE : Fld := ⟨.stage, 0x004, 28, 4, .ro, 0, 0, 15⟩
/-- COMMIT_STATUS.RESULT (R528). -/
def COMMIT_STATUS_RESULT : Fld := ⟨.stage, 0x004, 24, 4, .ro, 0, 0, 15⟩
/-- COMMIT_STATUS.RULE (R528). -/
def COMMIT_STATUS_RULE : Fld := ⟨.stage, 0x004, 0, 16, .ro, 0, 0, 65535⟩
/-- COMMIT_SEQ.COMMITS (R528). -/
def COMMIT_SEQ_COMMITS : Fld := ⟨.stage, 0x008, 0, 32, .ro, 0, 0, 4294967295⟩
/-- LAST_LO.LAST (R528). -/
def LAST_LO_LAST : Fld := ⟨.stage, 0x00C, 0, 32, .ro, 0, 0, 4294967295⟩
/-- LAST_HI.LAST (R528). -/
def LAST_HI_LAST : Fld := ⟨.stage, 0x010, 0, 32, .ro, 0, 0, 4294967295⟩
/-- STAGE_EVT.COMMIT_REFUSED (R528). -/
def STAGE_EVT_COMMIT_REFUSED : Fld := ⟨.stage, 0x014, 9, 1, .rw1c, 0, 0, 1⟩
/-- STAGE_EVT.STAGE_BUSY (R528). -/
def STAGE_EVT_STAGE_BUSY : Fld := ⟨.stage, 0x014, 8, 1, .rw1c, 0, 0, 1⟩
/-- STAGE_EVT.WRITE_ERR (R528). -/
def STAGE_EVT_WRITE_ERR : Fld := ⟨.stage, 0x014, 0, 8, .rw1c, 0, 0, 255⟩
/-- DBG_CTRL.OP (R535). -/
def DBG_CTRL_OP : Fld := ⟨.debug, 0x000, 28, 4, .wo, 0, 1, 4⟩
/-- DBG_STATUS.DBG_STATE (R535). -/
def DBG_STATUS_DBG_STATE : Fld := ⟨.debug, 0x004, 28, 4, .ro, 0, 0, 15⟩
/-- DBG_STATUS.DBG_RESULT (R535). -/
def DBG_STATUS_DBG_RESULT : Fld := ⟨.debug, 0x004, 24, 4, .ro, 0, 0, 15⟩
/-- DBG_TILE.TILE_INDEX (R535). -/
def DBG_TILE_TILE_INDEX : Fld := ⟨.debug, 0x008, 0, 16, .rw, 0, 0, 65535⟩
/-- DBG_ADDR.SPACE (R535). -/
def DBG_ADDR_SPACE : Fld := ⟨.debug, 0x00C, 29, 3, .rw, 0, 0, 5⟩
/-- DBG_ADDR.WRITE (R535). -/
def DBG_ADDR_WRITE : Fld := ⟨.debug, 0x00C, 28, 1, .rw, 0, 0, 1⟩
/-- DBG_ADDR.ADDR (R535). -/
def DBG_ADDR : Fld := ⟨.debug, 0x00C, 0, 21, .rw, 0, 0, 2097151⟩
/-- DBG_SRC.SRC (R535). -/
def DBG_SRC : Fld := ⟨.debug, 0x010, 0, 21, .rw, 0, 0, 2097151⟩
/-- HALT_MS.MS (R535). -/
def HALT_MS : Fld := ⟨.debug, 0x014, 0, 32, .ro, 0, 0, 4294967295⟩
/-- PROF_CTRL.FREEZE (R535). -/
def PROF_CTRL_FREEZE : Fld := ⟨.debug, 0x020, 31, 1, .rw, 1, 0, 1⟩
/-- PROF_CTRL.TRACE_EN (R535). -/
def PROF_CTRL_TRACE_EN : Fld := ⟨.debug, 0x020, 30, 1, .rw, 0, 0, 1⟩
/-- PROF_CTRL.FILTER (R535). -/
def PROF_CTRL_FILTER : Fld := ⟨.debug, 0x020, 29, 1, .rw, 0, 0, 1⟩
/-- PROF_CTRL.PROF_TILE (R535). -/
def PROF_CTRL_PROF_TILE : Fld := ⟨.debug, 0x020, 0, 16, .rw, 0, 0, 65535⟩
/-- TRACE_HEAD.RECORDS (R535). -/
def TRACE_HEAD_RECORDS : Fld := ⟨.debug, 0x030, 0, 32, .ro, 0, 0, 4294967295⟩
/-- PROF_SEL.EVENT (R535). -/
def PROF_SEL_EVENT (i : Nat) : Fld := ⟨.debug, 0x040 + 4 * i, 0, 8, .rw, 0, 0, 255⟩
/-- PROF_CNT_LO.COUNT (R535). -/
def PROF_CNT_LO_COUNT (i : Nat) : Fld := ⟨.debug, 0x080 + 8 * i, 0, 32, .rw, 0, 0, 4294967295⟩
/-- PROF_CNT_HI.COUNT (R535). -/
def PROF_CNT_HI_COUNT (i : Nat) : Fld := ⟨.debug, 0x084 + 8 * i, 0, 32, .rw, 0, 0, 4294967295⟩
/-- DBG_DATA.DATA (R535). -/
def DBG_DATA (i : Nat) : Fld := ⟨.debug, 0x100 + 4 * i, 0, 32, .rw, 0, 0, 4294967295⟩
/-- DIAG_CTRL.OP (R537). -/
def DIAG_CTRL_OP : Fld := ⟨.diag, 0x000, 28, 4, .wo, 0, 1, 1⟩
/-- DIAG_CTRL.DIAG_TEST (R537). -/
def DIAG_CTRL_DIAG_TEST : Fld := ⟨.diag, 0x000, 0, 4, .rw, 0, 1, 7⟩
/-- DIAG_UNIT_LO.UNIT (R537). -/
def DIAG_UNIT_LO_UNIT : Fld := ⟨.diag, 0x004, 0, 32, .rw, 0, 0, 4294967295⟩
/-- DIAG_UNIT_HI.UNIT (R537). -/
def DIAG_UNIT_HI_UNIT : Fld := ⟨.diag, 0x008, 0, 32, .rw, 0, 0, 4294967295⟩
/-- DIAG_STATUS.RESULT (R537). -/
def DIAG_STATUS_RESULT : Fld := ⟨.diag, 0x00C, 28, 4, .ro, 0, 0, 15⟩
/-- Bank bytes of profile p, bank b (R154). -/
def BANK_PROF_PWR (p b : Nat) : Fld := ⟨.tile, 0x0100 + 0x18 * p + 4 * (b / 4), 8 * (b % 4) + 4, 2, .rws, 0, 0, 2⟩
def BANK_PROF_PROT (p b : Nat) : Fld := ⟨.tile, 0x0100 + 0x18 * p + 4 * (b / 4), 8 * (b % 4) + 2, 2, .rws, 0, 0, 2⟩
def BANK_PROF_PORT (p b : Nat) : Fld := ⟨.tile, 0x0100 + 0x18 * p + 4 * (b / 4), 8 * (b % 4), 2, .rws, 0, 0, 3⟩
/-- Profile selection of tile t (R155). -/
def TILE_PROF (t : Nat) : Fld := ⟨.tile, 0x1000 + 4 * (t / 8), 4 * (t % 8), 3, .rws, 0, 0, 7⟩
/-- SPARE_USE word of pallet p (R437). -/
def SPARE_STATE (p : Nat) : Fld := ⟨.svc, 0x0100 + 4 * p, 30, 2, .ro, 0, 0, 3⟩
def SPARE_FAULTS (p : Nat) : Fld := ⟨.svc, 0x0100 + 4 * p, 24, 4, .ro, 0, 0, 15⟩
def SPARE_ROW (p : Nat) : Fld := ⟨.svc, 0x0100 + 4 * p, 20, 4, .ro, 15, 0, 15⟩
def SPARE_TILE (p : Nat) : Fld := ⟨.svc, 0x0100 + 4 * p, 0, 12, .ro, 0, 0, 4095⟩
/-- BOND_MAP byte of span-row i of pallet p (R438); its word lies at the byte's offset rounded down to 4. -/
def BOND_SKIP (p i : Nat) : Fld :=
  ⟨.svc, 0x1000 + 4 * ((12 * p + i) / 4), 8 * ((12 * p + i) % 4) + 7, 1, .ro, 0, 0, 1⟩
def BOND_ROUTER_OUT (p i : Nat) : Fld :=
  ⟨.svc, 0x1000 + 4 * ((12 * p + i) / 4), 8 * ((12 * p + i) % 4) + 6, 1, .ro, 0, 0, 1⟩
def BOND_POS (p i : Nat) : Fld :=
  ⟨.svc, 0x1000 + 4 * ((12 * p + i) / 4), 8 * ((12 * p + i) % 4), 6, .ro, 0, 0, 40⟩
/-- BLADE_RES word b (R474). -/
def BLADE_R25 (b : Nat) : Fld := ⟨.pwr, 0x0040 + 4 * b, 16, 16, .ro, 0, 0, 65535⟩
def BLADE_BASE (b : Nat) : Fld := ⟨.pwr, 0x0040 + 4 * b, 0, 16, .ro, 0, 0, 65535⟩
/-- PALLET_PWR word p (R475). -/
def PALLET_STEP (p : Nat) : Fld := ⟨.pwr, 0x0100 + 4 * p, 30, 2, .ro, 0, 0, 2⟩
def PALLET_PARKED (p : Nat) : Fld := ⟨.pwr, 0x0100 + 4 * p, 29, 1, .ro, 0, 0, 1⟩
def PALLET_EMERGENCY (p : Nat) : Fld := ⟨.pwr, 0x0100 + 4 * p, 28, 1, .ro, 0, 0, 1⟩
def PALLET_LIMIT (p : Nat) : Fld := ⟨.pwr, 0x0100 + 4 * p, 16, 12, .ro, 0, 0, 4095⟩
def PALLET_DRAW (p : Nat) : Fld := ⟨.pwr, 0x0100 + 4 * p, 0, 16, .ro, 0, 0, 65535⟩

end Reg

def ringFields (r sub : Nat) : List Fld :=
  match sub with
  | 0x0 => [Reg.BASE_LO_BASE r]
  | 0x4 => [Reg.BASE_HI_BASE r]
  | 0x8 => [Reg.RING_CFG_COAL_US r, Reg.RING_CFG_VECTOR r, Reg.RING_CFG_COALESCE r, Reg.RING_CFG_ENABLE r, Reg.RING_CFG_SIZE_CODE r]
  | _ => []
def classFields (n sub : Nat) : List Fld :=
  match sub with
  | 0x0 => [Reg.CLASS_CFG_VALID n, Reg.CLASS_CFG_PRIORITY n, Reg.CLASS_CFG_MAX_CHUNK n]
  | 0x4 => [Reg.CLASS_TIME_TTFT_TARGET n, Reg.CLASS_TIME_QUEUE_BOUND n]
  | 0x8 => [Reg.CLASS_TBT_TBT_CEIL n, Reg.CLASS_TBT_TBT_TARGET n]
  | _ => []
def classStats (n sub : Nat) : List Fld :=
  match sub with
  | 0x0 => [Reg.CLASS_STAT_TTFT_MISS n]
  | 0x4 => [Reg.CLASS_STAT_TBT_MISS n]
  | 0x8 => [Reg.CLASS_STAT_CEIL_MISS n]
  | 0xC => [Reg.CLASS_STAT_BUSY_COUNT n]
  | _ => []
def alStatus (n : Nat) : List Fld :=
  [Reg.AL_STATUS_STATE n, Reg.AL_STATUS_HALF n, Reg.AL_STATUS_UPPER n, Reg.AL_STATUS_PEER_PORT n, Reg.AL_STATUS_LANE_FAULT n, Reg.AL_STATUS_RETRAINS n]
def bankFields (p n : Nat) : List Fld :=
  (List.range 4).flatMap fun i =>
    [Reg.BANK_PROF_PWR p (4 * n + i), Reg.BANK_PROF_PROT p (4 * n + i), Reg.BANK_PROF_PORT p (4 * n + i)]
def bondFields (w : Nat) : List Fld :=
  (List.range 4).flatMap fun i =>
    let p := (4 * w + i) / 12
    let r := (4 * w + i) % 12
    [Reg.BOND_SKIP p r, Reg.BOND_ROUTER_OUT p r, Reg.BOND_POS p r]

/-- Fields of the register at an offset of the block. -/
def identFields (off : Nat) : List Fld :=
  match off with
  | 0x0 => [Reg.ID_PRODUCT, Reg.ID_PRODUCT_STEPPING, Reg.ID_PRODUCT_MAP_VER]
  | 0x4 => [Reg.ID_SERIAL_LO_SERIAL]
  | 0x8 => [Reg.ID_SERIAL_HI_SERIAL]
  | 0xc => [Reg.ID_MFG_YEAR, Reg.ID_MFG_WEEK]
  | 0x10 => [Reg.ID_FW_SVN]
  | 0x14 => [Reg.ID_FW_VER_VERSION]
  | 0x18 => [Reg.ID_CAPS_PARTS, Reg.ID_CAPS_PALLETS, Reg.ID_CAPS_SLOTS]
  | _ => []

/-- Fields of the register at an offset of the block. -/
def stageFields (off : Nat) : List Fld :=
  match off with
  | 0x0 => [Reg.COMMIT_CTRL_OP]
  | 0x4 => [Reg.COMMIT_STATUS_STATE, Reg.COMMIT_STATUS_RESULT, Reg.COMMIT_STATUS_RULE]
  | 0x8 => [Reg.COMMIT_SEQ_COMMITS]
  | 0xc => [Reg.LAST_LO_LAST]
  | 0x10 => [Reg.LAST_HI_LAST]
  | 0x14 => [Reg.STAGE_EVT_COMMIT_REFUSED, Reg.STAGE_EVT_STAGE_BUSY, Reg.STAGE_EVT_WRITE_ERR]
  | _ => []

/-- Fields of the register at an offset of the block. -/
def bootFields (off : Nat) : List Fld :=
  match off with
  | 0x0 => [Reg.BOOT_CTRL_OP]
  | 0x4 => [Reg.BOOT_IMG_LO_ADDR]
  | 0x8 => [Reg.BOOT_IMG_HI_ADDR]
  | 0xc => [Reg.BOOT_LEN]
  | 0x10 => [Reg.BOOT_STATUS_BOOT_STATE, Reg.BOOT_STATUS_BOOT_ERR]
  | 0x14 => [Reg.BOOT_EVT_BOOT_BUSY, Reg.BOOT_EVT_FW_REFUSED]
  | 0x18 => [Reg.SVN_FLOOR]
  | _ => []

/-- Fields of the register at an offset of the block. -/
def diagFields (off : Nat) : List Fld :=
  match off with
  | 0x0 => [Reg.DIAG_CTRL_OP, Reg.DIAG_CTRL_DIAG_TEST]
  | 0x4 => [Reg.DIAG_UNIT_LO_UNIT]
  | 0x8 => [Reg.DIAG_UNIT_HI_UNIT]
  | 0xc => [Reg.DIAG_STATUS_RESULT]
  | _ => []

/-- Fields of the register at an offset of the block. -/
def portFields (off : Nat) : List Fld :=
  if off < 0x0040 ∧ off % 4 = 0 then
    [Reg.FUNC_MAP_PE1_VALID (off / 4), Reg.FUNC_MAP_PE1_FUNC (off / 4), Reg.FUNC_MAP_PE0_VALID (off / 4),
      Reg.FUNC_MAP_PE0_FUNC (off / 4)]
  else if 0x0100 ≤ off ∧ off < 0x0180 ∧ off % 4 = 0 then alStatus ((off - 0x0100) / 4)
  else if 0x0180 ≤ off ∧ off < 0x0200 ∧ off % 4 = 0 then [Reg.AL_PEER_PEER_SERIAL ((off - 0x0180) / 4)]
  else if 0x0200 ≤ off ∧ off < 0x0280 ∧ off % 4 = 0 then [Reg.AL_RETRY_REPLAYS ((off - 0x0200) / 4)]
  else
    match off with
    | 0x40 => [Reg.HOST_LEASE_HOLDER, Reg.HOST_LEASE_RELEASE, Reg.HOST_LEASE_CLAIM, Reg.HOST_LEASE_LEASE_MS]
    | 0x44 => [Reg.HOST_EVT_LEASE_DROPPED, Reg.HOST_EVT_LEASE_LAPSED, Reg.HOST_EVT_FLR_PE1, Reg.HOST_EVT_FLR_PE0, Reg.HOST_EVT_RESET_PE1, Reg.HOST_EVT_RESET_PE0]
    | 0x80 => [Reg.SB_STATUS_CHATTER, Reg.SB_STATUS_SHORT_COUNT, Reg.SB_STATUS_CHAIN_WIRE, Reg.SB_STATUS_STRAP_IN, Reg.SB_STATUS_LEVEL]
    | 0x84 => [Reg.CHAIN_CFG_CHAIN_MEMBER, Reg.CHAIN_CFG_SYNC_SOURCE, Reg.CHAIN_CFG_CHAIN_PULLUP, Reg.CHAIN_CFG_SYNC_DELAY_NS]
    | _ => []

/-- Fields of the register at an offset of the block. -/
def svcFields (off : Nat) : List Fld :=
  if 0x0100 ≤ off ∧ off < 0x02E0 ∧ off % 4 = 0 then
    let p := (off - 0x0100) / 4
    [Reg.SPARE_STATE p, Reg.SPARE_FAULTS p, Reg.SPARE_ROW p, Reg.SPARE_TILE p]
  else if 0x1000 ≤ off ∧ off < 0x15A0 ∧ off % 4 = 0 then bondFields ((off - 0x1000) / 4)
  else
    match off with
    | 0x0 => [Reg.SVC_CFG_LASTING_WINDOW, Reg.SVC_CFG_LASTING_N]
    | 0x4 => [Reg.SVC_STATUS_HANDOVER, Reg.SVC_STATUS_REBUILD, Reg.SVC_STATUS_REPLACE_BUSY, Reg.SVC_STATUS_PE1_UP, Reg.SVC_STATUS_PE0_UP, Reg.SVC_STATUS_FEED_B_OK, Reg.SVC_STATUS_FEED_A_OK]
    | 0x8 => [Reg.SVC_EVT_ALERT, Reg.SVC_EVT_PLACEMENT_LOST, Reg.SVC_EVT_WITHDRAW, Reg.SVC_EVT_FW_HANDOVER, Reg.SVC_EVT_FEED_FAILOVER, Reg.SVC_EVT_HOST_FAILOVER, Reg.SVC_EVT_REPLACED, Reg.SVC_EVT_LASTING, Reg.SVC_EVT_TRANSIENT]
    | 0x10 => [Reg.SVC_LAST_UNIT_LO_UNIT]
    | 0x14 => [Reg.SVC_LAST_UNIT_HI_UNIT]
    | 0x18 => [Reg.SVC_TRANSIENT_COUNT_TRANSIENTS]
    | 0x1c => [Reg.SVC_LASTING_COUNT_LASTINGS]
    | 0x20 => [Reg.SVC_HITCH_COUNT_HITCHES]
    | 0x24 => [Reg.SVC_STOP_COUNT_STOPS]
    | 0x28 => [Reg.SVC_HITCH_MAX_MS]
    | _ => []

/-- Fields of the register at an offset of the block. -/
def pwrFields (off : Nat) : List Fld :=
  if 0x0040 ≤ off ∧ off < 0x0080 ∧ off % 4 = 0 then
    [Reg.BLADE_R25 ((off - 0x0040) / 4), Reg.BLADE_BASE ((off - 0x0040) / 4)]
  else if 0x0100 ≤ off ∧ off < 0x02E0 ∧ off % 4 = 0 then
    let p := (off - 0x0100) / 4
    [Reg.PALLET_STEP p, Reg.PALLET_PARKED p, Reg.PALLET_EMERGENCY p, Reg.PALLET_LIMIT p, Reg.PALLET_DRAW p]
  else
    match off with
    | 0x0 => [Reg.PWR_CFG_PARK_EN, Reg.PWR_CFG_LEND_EN, Reg.PWR_CFG_COOL_MIN]
    | 0x4 => [Reg.PWR_STATUS_TRIPPED_LAST, Reg.PWR_STATUS_COOL_OK_IN, Reg.PWR_STATUS_PWR_WARN_IN, Reg.PWR_STATUS_EMERG_W1, Reg.PWR_STATUS_EMERG_W0, Reg.PWR_STATUS_REF_STANDBY, Reg.PWR_STATUS_SYNC_LOCKED, Reg.PWR_STATUS_REF_FREERUN, Reg.PWR_STATUS_FEED_B, Reg.PWR_STATUS_FEED_A]
    | 0x8 => [Reg.PWR_EVT_SHARE_CUT, Reg.PWR_EVT_PWR_WARN, Reg.PWR_EVT_COOL_RANGE, Reg.PWR_EVT_COOL_FLOW_LOW, Reg.PWR_EVT_EMERGENCY, Reg.PWR_EVT_RAIL_FAULT, Reg.PWR_EVT_REF_EVENT, Reg.PWR_EVT_CRACK_WITHDRAW, Reg.PWR_EVT_CRACK_WARN]
    | 0xc => [Reg.MODULE_POWER_CAP, Reg.MODULE_POWER_DRAW]
    | 0x10 => [Reg.COOL_FORECAST, Reg.COOL_FORECAST_DEMAND]
    | _ => []

/-- Fields of the register at an offset of the block. -/
def partFields (off : Nat) : List Fld :=
  if 0x0010 ≤ off ∧ off ≤ 0x0018 ∧ off % 4 = 0 then [Reg.PALLET_MASK_PALLETS ((off - 0x0010) / 4)]
  else
    match off with
    | 0x0 => [Reg.PART_CTRL_OP]
    | 0x4 => [Reg.PART_STATUS_STATE, Reg.PART_STATUS_SEAL_RULE, Reg.PART_STATUS_FIXED_SLOTS, Reg.PART_STATUS_DEBUG_LOCK]
    | 0x8 => [Reg.PART_CFG_SEC_MODE, Reg.PART_CFG_DEBUG_LEVEL, Reg.PART_CFG_DMA_SLOTS, Reg.PART_CFG_POWER_SHARE]
    | 0x1c => [Reg.PALLET_MASK_3_PALLETS]
    | 0x20 => [Reg.PART_EVT_LOCK_VIOLATION, Reg.PART_EVT_SCRUB_DONE, Reg.PART_EVT_NONCE_LIMIT, Reg.PART_EVT_AUTH_FAIL_SEEN, Reg.PART_EVT_KEY_REFUSED, Reg.PART_EVT_KEY_DELIVERED, Reg.PART_EVT_SEAL_REFUSED]
    | 0x24 => [Reg.KEY_STATUS_EPOCH_LO, Reg.KEY_STATUS_GEN, Reg.KEY_STATUS_LINK_KEY, Reg.KEY_STATUS_HOST_KEYS, Reg.KEY_STATUS_ROTATING, Reg.KEY_STATUS_IMAGE_KEYS]
    | 0x28 => [Reg.AUTH_FAIL_COUNT_AUTH_FAILS]
    | 0x2c => [Reg.KEY_EPOCH]
    | 0x30 => [Reg.PART_POWER_BUDGET, Reg.PART_POWER_DRAW]
    | 0x34 => [Reg.PART_THROTTLE_THROTTLES]
    | 0x38 => [Reg.PART_PWR_EVT_EMERGENCY_SEEN, Reg.PART_PWR_EVT_THERMAL_STEP, Reg.PART_PWR_EVT_POWER_STEP]
    | _ => []

/-- Fields of the register at an offset of the block. -/
def arrayFields (off : Nat) : List Fld :=
  match off with
  | 0x0 => [Reg.ARR_CFG_AUTO_WAKE, Reg.ARR_CFG_PATCH_MAX, Reg.ARR_CFG_DEFAULT_MAX_LOOPS, Reg.ARR_CFG_ROW_GROUP_LIMIT]
  | 0x4 => [Reg.ARR_EVT_BAD_CMD_SEEN, Reg.ARR_EVT_UE_SEEN, Reg.ARR_EVT_PORT_SEEN, Reg.ARR_EVT_FMT_SEEN, Reg.ARR_EVT_STATE_SEEN, Reg.ARR_EVT_CHECK_SEEN, Reg.ARR_EVT_SAT_SEEN, Reg.ARR_EVT_PROG_FAIL_SEEN]
  | 0x8 => [Reg.ARR_SAT_COUNT_SAT_COLUMNS]
  | 0xc => [Reg.ARR_CAL_CFG_CAL_GRACE, Reg.ARR_CAL_CFG_CAL_DELTA_T, Reg.ARR_CAL_CFG_CAL_PERIOD]
  | 0x10 => [Reg.ARR_CHECK_CFG_REF_TOL, Reg.ARR_CHECK_CFG_SUM_TOL]
  | 0x14 => [Reg.ARR_MODE_DIGITAL]
  | 0x18 => [Reg.ARR_ACC_EVT_BEYOND_BOUND, Reg.ARR_ACC_EVT_CAL_LATE, Reg.ARR_ACC_EVT_CAL_FAIL, Reg.ARR_ACC_EVT_RESTORE_FAIL, Reg.ARR_ACC_EVT_REFRESH_OVERDUE, Reg.ARR_ACC_EVT_VERIFY_FAIL]
  | 0x1c => [Reg.ARR_ACC_STATUS_TJ_MAX, Reg.ARR_ACC_STATUS_SUSPECT_TILES, Reg.ARR_ACC_STATUS_AGE_CLASS, Reg.ARR_ACC_STATUS_DIGITAL_ACTIVE, Reg.ARR_ACC_STATUS_IN_BOUND]
  | _ => []

/-- Fields of the register at an offset of the block. -/
def turnFields (off : Nat) : List Fld :=
  match off with
  | 0x0 => [Reg.TURN_CFG_CHAINED, Reg.TURN_CFG_FAULTED, Reg.TURN_CFG_HOLD_WD]
  | 0x4 => [Reg.TURN_EVT_TURN_LIMIT, Reg.TURN_EVT_CHAIN_FAULT, Reg.TURN_EVT_HOLD_WD, Reg.TURN_EVT_ABANDON, Reg.TURN_EVT_SERVICE_HOLD]
  | 0x8 => [Reg.TURN_HOLD_COUNT_HOLD_BEATS]
  | 0xc => [Reg.TURN_ABANDON_COUNT_ABANDONS]
  | 0x10 => [Reg.TURN_LATE_FIRST_SOURCE, Reg.TURN_LATE_FIRST_TILE_INDEX]
  | 0x14 => [Reg.TURN_LAST_HELD, Reg.TURN_LAST_BEATS]
  | 0x18 => [Reg.TURN_SEQ_LO]
  | 0x1c => [Reg.TURN_SEQ_HI]
  | _ => []

/-- Fields of the register at an offset of the block. -/
def genFields (off : Nat) : List Fld :=
  match off with
  | 0x0 => [Reg.KV_POOL_KV_PAGES, Reg.KV_POOL_KV_LANES]
  | 0x4 => [Reg.KV_FREE_RESERVED_PAGES, Reg.KV_FREE_FREE_PAGES]
  | 0x8 => [Reg.SPEC_CFG_TREE_OK, Reg.SPEC_CFG_MAX_CAND]
  | 0xc => [Reg.STEER_CFG_STEER_ENTRIES]
  | 0x10 => [Reg.GEN_EVT_TUNE_STEP, Reg.GEN_EVT_RESULT_BAD, Reg.GEN_EVT_DRAFT_DROPPED, Reg.GEN_EVT_STEER_REFUSED]
  | 0x14 => [Reg.SPEC_OFFERED]
  | 0x18 => [Reg.SPEC_ACCEPTED]
  | _ => []

/-- Fields of the register at an offset of the block. -/
def serveFields (off : Nat) : List Fld :=
  if 0x0040 ≤ off ∧ off < 0x0070 ∧ off % 4 = 0 then ringFields ((off - 0x0040) / 0x10) (off % 0x10)
  else if 0x0100 ≤ off ∧ off < 0x0500 ∧ off % 4 = 0 then ringFields (3 + (off - 0x0100) / 0x10) (off % 0x10)
  else if 0x0600 ≤ off ∧ off < 0x0680 ∧ off % 4 = 0 then classFields ((off - 0x0600) / 0x10) (off % 0x10)
  else if 0x0700 ≤ off ∧ off < 0x0780 ∧ off % 4 = 0 then classStats ((off - 0x0700) / 0x10) (off % 0x10)
  else
    match off with
    | 0x0 => [Reg.SERVE_CFG_PORT, Reg.SERVE_CFG_SLOT_COUNT, Reg.SERVE_CFG_SLOT_BASE]
    | 0x4 => [Reg.WVER_CFG_HOLD_COUNT, Reg.WVER_CFG_HOLD_MAX, Reg.WVER_CFG_DRAIN_FROM, Reg.WVER_CFG_WVER_STATE, Reg.WVER_CFG_ACTIVE_WVER]
    | 0x8 => [Reg.DRAIN_CFG_DRAIN_PAUSE_MAX]
    | 0xc => [Reg.PREFILL_RATE]
    | 0x10 => [Reg.SERVE_EVT_WVER_SWITCHED, Reg.SERVE_EVT_DRAIN_ENTERED, Reg.SERVE_EVT_CEIL_MISS, Reg.SERVE_EVT_EQ_LOST, Reg.SERVE_EVT_STREAM_FULL, Reg.SERVE_EVT_FETCH_ERROR, Reg.SERVE_EVT_DOORBELL_BAD, Reg.SERVE_EVT_BAD_DESC_SEEN, Reg.SERVE_EVT_BUSY_SEEN]
    | 0x14 => [Reg.TURN_MEAN_TURN_US]
    | _ => []

/-- Fields of the register at an offset of the block. -/
def loadFields (off : Nat) : List Fld :=
  if off = 0x0020 ∨ off = 0x0028 then [Reg.IMAGE_BASE_LO_BASE ((off - 0x0020) / 8)]
  else if off = 0x0024 ∨ off = 0x002C then [Reg.IMAGE_BASE_HI_BASE ((off - 0x0024) / 8)]
  else
    match off with
    | 0x0 => [Reg.LOAD_CTRL_OP, Reg.LOAD_CTRL_PLACE]
    | 0x4 => [Reg.LOAD_SRC_SRC_UP, Reg.LOAD_SRC_SRC_PE1, Reg.LOAD_SRC_SRC_PE0]
    | 0x8 => [Reg.RELAY_CFG_DOWN_EN, Reg.RELAY_CFG_DOWN_PORT, Reg.RELAY_CFG_HOP, Reg.RELAY_CFG_UP_PORT]
    | 0x10 => [Reg.MANIFEST_LO_ADDR]
    | 0x14 => [Reg.MANIFEST_HI_ADDR]
    | 0x18 => [Reg.MANIFEST_LEN]
    | 0x1c => [Reg.LOAD_ORIGIN_ORIGIN_SET, Reg.LOAD_ORIGIN]
    | 0x30 => [Reg.LOAD_IRQ_VECTOR]
    | 0x40 => [Reg.LOAD_STATUS_STATE, Reg.LOAD_STATUS_PLACE, Reg.LOAD_STATUS_REASON]
    | 0x44 => [Reg.LOAD_DONE_SHARDS_DONE]
    | 0x48 => [Reg.LOAD_TOTAL_SHARDS_TOTAL]
    | 0x4c => [Reg.LOAD_FAIL_SHARD_INDEX]
    | 0x50 => [Reg.LOAD_FAIL_HOP, Reg.LOAD_FAIL_HOP_ATTEMPTS]
    | 0x60 => [Reg.WVER_PLACES_PLACE_STATE]
    | 0x64 => [Reg.WVER_REMOVE]
    | 0x68 => [Reg.LOAD_EVT_WRITE_DROPPED, Reg.LOAD_EVT_REMOVED, Reg.LOAD_EVT_SHARD_RETRY, Reg.LOAD_EVT_RELAY_HELD, Reg.LOAD_EVT_REFUSED, Reg.LOAD_EVT_FAILED, Reg.LOAD_EVT_LOADED]
    | 0x6c => [Reg.LOAD_RETRY_COUNT_RETRIES]
    | _ => []

/-- Fields of the register at an offset of the block. -/
def debugFields (off : Nat) : List Fld :=
  if 0x040 ≤ off ∧ off < 0x060 ∧ off % 4 = 0 then [Reg.PROF_SEL_EVENT ((off - 0x040) / 4)]
  else if 0x080 ≤ off ∧ off < 0x0C0 ∧ off % 8 = 0 then [Reg.PROF_CNT_LO_COUNT ((off - 0x080) / 8)]
  else if 0x080 ≤ off ∧ off < 0x0C0 ∧ off % 8 = 4 then [Reg.PROF_CNT_HI_COUNT ((off - 0x084) / 8)]
  else if 0x100 ≤ off ∧ off < 0x200 ∧ off % 4 = 0 then [Reg.DBG_DATA ((off - 0x100) / 4)]
  else
    match off with
    | 0x0 => [Reg.DBG_CTRL_OP]
    | 0x4 => [Reg.DBG_STATUS_DBG_STATE, Reg.DBG_STATUS_DBG_RESULT]
    | 0x8 => [Reg.DBG_TILE_TILE_INDEX]
    | 0xc => [Reg.DBG_ADDR_SPACE, Reg.DBG_ADDR_WRITE, Reg.DBG_ADDR]
    | 0x10 => [Reg.DBG_SRC]
    | 0x14 => [Reg.HALT_MS]
    | 0x20 => [Reg.PROF_CTRL_FREEZE, Reg.PROF_CTRL_TRACE_EN, Reg.PROF_CTRL_FILTER, Reg.PROF_CTRL_PROF_TILE]
    | 0x30 => [Reg.TRACE_HEAD_RECORDS]
    | _ => []

/-- Fields of the register at an offset of the block. -/
def tileFields (off : Nat) : List Fld :=
  if 0x0100 ≤ off ∧ off < 0x01C0 ∧ off % 4 = 0 then bankFields ((off - 0x0100) / 0x18) ((off - 0x0100) % 0x18 / 4)
  else if 0x1000 ≤ off ∧ off < 0x7720 ∧ off % 4 = 0 then
    (List.range 8).map fun i => Reg.TILE_PROF (8 * ((off - 0x1000) / 4) + i)
  else
    match off with
    | 0x0 => [Reg.TILE_CFG_PATROL_PERIOD]
    | 0x4 => [Reg.TILE_EVT_SCRUB_REFUSED, Reg.TILE_EVT_FULL_NONOWNER_SEEN, Reg.TILE_EVT_QUEUE_OVERFLOW_SEEN, Reg.TILE_EVT_PORT_CLASS_SEEN, Reg.TILE_EVT_RANGE_SEEN, Reg.TILE_EVT_UE_SEEN, Reg.TILE_EVT_CE_STATE, Reg.TILE_EVT_CE_WEIGHT]
    | 0x8 => [Reg.TILE_CE_COUNT]
    | 0xc => [Reg.TILE_UE_COUNT]
    | 0x10 => [Reg.TILE_ISA_CFG_COMPAT_G1]
    | 0x14 => [Reg.TILE_EXC_EVT_CAUSE_SEEN]
    | 0x18 => [Reg.TILE_EXC_COUNT]
    | 0x1c => [Reg.TILE_EXC_FIRST_CAUSE, Reg.TILE_EXC_FIRST_TILE_INDEX]
    | 0x20 => [Reg.MORTAR_EVT_FIRST_REASON, Reg.MORTAR_EVT_DETOUR, Reg.MORTAR_EVT_STATION_REFUSED, Reg.MORTAR_EVT_LINK_UE, Reg.MORTAR_EVT_LINK_CE, Reg.MORTAR_EVT_REMOTE_FAIL_SEEN]
    | 0x24 => [Reg.MORTAR_CE_COUNT]
    | 0x28 => [Reg.MORTAR_UE_COUNT]
    | _ => []

/-- The fields of the register at an offset of a block. -/
def fieldsAt : Blk → Nat → List Fld
  | .ident, off => identFields off
  | .stage, off => stageFields off
  | .boot, off => bootFields off
  | .diag, off => diagFields off
  | .port, off => portFields off
  | .svc, off => svcFields off
  | .pwr, off => pwrFields off
  | .part, off => partFields off
  | .array, off => arrayFields off
  | .turn, off => turnFields off
  | .gen, off => genFields off
  | .serve, off => serveFields off
  | .load, off => loadFields off
  | .debug, off => debugFields off
  | .tile, off => tileFields off

end Sys2Proof.Machine
end

