-- ==== Sys2Proof/Machine/State.lean ====
section
/-! DEFINITION. The state of the module, as plain data: registers in effect and staged, tiles, partitions, pallets, ports, links,
supplies and the wear record, and the queue of commands that wait. -/
namespace Sys2Proof.Machine

/-! ### Outcomes -/

/-- Reasons to stop with a fault. The spec gives every command an effect, so no command raises one; kept for the interface. -/
inductive Fault where
  /-- Raised by nothing. Safe. -/
  | none
deriving DecidableEq, Repr, Inhabited

/-- Reasons to refuse a command. -/
inductive Refusal where
  /-- Raised by an arm of exec whose command has no meaning yet. Safe. -/
  | notModelled (mnemonic : String)
deriving DecidableEq, Repr, Inhabited

/-! ### Tiles -/

/-- Port classes (R131), in the order of R154. -/
inductive PortClass where
  | narrow
  | wide
  | array
  | mortar
deriving DecidableEq, Repr, Inhabited

/-- Protection classes (R133), in the order of R154. -/
inductive ProtClass where
  | state
  | weight
  | scratch
deriving DecidableEq, Repr, Inhabited

/-- Bank power states (R146), in the order of R154. -/
inductive BankPwr where
  | on
  | retain
  | off
deriving DecidableEq, Repr, Inhabited

/-- One scratchpad bank: its binding, and the changes in progress (R147, R148, R156). -/
structure Bank where
  pwr : BankPwr := .on
  prot : ProtClass := .state
  port : PortClass := .narrow
  /-- Waking, or its change not yet ended (R147). -/
  changing : Bool := false
  /-- Its change waits for operations of the tile with a smaller identity, which run under the old binding (R156), and whether it
  then becomes pending-scrub. -/
  held : Bool := false
  heldAt : Nat := 0
  oldPwr : BankPwr := .on
  oldProt : ProtClass := .state
  oldPort : PortClass := .narrow
  scrubNext : Bool := false
  /-- Pending-scrub (R148). -/
  scrub : Bool := false
  /-- Its patrol has fallen behind its period (R137) and takes 1 port cycle in 16 (R419): port timing, nothing else. -/
  patrolLate : Bool := false
deriving DecidableEq, Repr, Inhabited

/-- A tile's exception causes (R190). -/
inductive Cause where
  | illegal
  | misalign
  | range
  | portClass
  | ueLocal
  | badBlock
  | flagUnalloc
  | beatOrder
  | remotePart
  | array
  | queueOverflow
  | fullNonowner
  | remoteFail
  | divZero
deriving DecidableEq, Repr, Inhabited

/-- Run state of a control core: not a member or not started (R225), issuing, stopped on an exception (R189), stopped in
TURN (R187), stopped by an abandonment (R239). -/
inductive CoreRun where
  | stopped
  | running
  | excepted
  | inTurn
  | abandoned
deriving DecidableEq, Repr, Inhabited

/-- The vector functions of R171, with the kinds of R174 apart. -/
inductive VFn where
  | add | sub | mul | fma | min | max | adds | abs | and | or | xor | shl | shr | sar | cvt | sel
  | cmpeq | cmplt | cmple | exp2 | log2 | rcp | rsq | redsum | redmax | bcast | ext | pand | pnot
deriving DecidableEq, Repr, Inhabited

/-- The kinds of VM-format instructions (R174). -/
inductive VmKind where
  | ld | ldt | ldtk | st | stf | tagset | tagclr
deriving DecidableEq, Repr, Inhabited

/-- An entry of the vector unit's queue (R122): the instruction's address and its fields, with scalar operands as read at
issue. -/
inductive VEntry where
  | op (pc : Nat) (fn : VFn) (vd va vb : RegNo) (pg : Fin 8) (ty : VType) (xs : W64)
  /-- `lines` of the two lines are done; `low` and `bad` keep what a tagged load has read of the first. -/
  | mem (pc id : Nat) (kind : VmKind) (v : RegNo) (addr lines : Nat) (low : List Byte) (bad : Bool)
deriving DecidableEq, Repr, Inhabited

/-- Accumulator types (R127). -/
inductive AccTy where
  | fp32
  | int32
deriving DecidableEq, Repr, Inhabited

/-- Operand formats of Kiln, A and B (R176). -/
inductive KFmt where
  | int8 | l8 | l4 | e4m3 | e5m2 | bf16
deriving DecidableEq, Repr, Inhabited

/-- A Kiln command as queued (R176, R178). -/
inductive KCmd where
  | mul (zero : Bool) (flag : Option FlagNo) (a b aStride bStride k : Nat) (acc : Fin 4) (fa fb : KFmt)
  | store (flag : Option FlagNo) (dst : Nat) (acc : Fin 4) (outFmt : Fin 4)
deriving DecidableEq, Repr, Inhabited

/-- An accumulator set: 256 words in row-major order, its type and its poison mark (R127, R135). -/
structure AccSet where
  ty : AccTy := .fp32
  poison : Bool := false
  c : Map W32 := []
deriving DecidableEq, Repr, Inhabited

/-- Content states of an array (R68, R73). -/
inductive Content where
  | unknown | empty | loading | valid | patched | failed
deriving DecidableEq, Repr, Inhabited

/-- Power states of an array (R74). -/
inductive ArrPower where
  | off | standby | active
deriving DecidableEq, Repr, Inhabited

/-- Steps of a calibration (R89). -/
inductive CalStep where
  | offset
  | inject
  | gain (group : Nat)
deriving DecidableEq, Repr, Inhabited

/-- A row's 520 charge levels: data columns 0 to 511, check columns 512 to 519 (R31, R35). -/
abbrev Row := List (Fin 16)

/-- One charge array. -/
structure Arr where
  content : Content := .empty
  power : ArrPower := .off
  /-- FMT of the last PROG: W8 when set (R73). -/
  w8 : Bool := false
  loopsSeen : Nat := 0
  stuckCount : Nat := 0
  refreshLate : Bool := false
  /-- Suspect flag (R97). -/
  suspect : Bool := false
  /-- Stuck-cell table (R538). -/
  stuck : List Stuck := []
  rows : Map Row := []
  /-- Calibrated offset and gain of each column (R91); unlisted columns hold 0 and 1.0. -/
  off : Map Int := []
  gain : Map Nat := []
  /-- Calibration: due since (us), escalated, next step, began at (us) and temperature, values gathered so far. -/
  calDue : Option Nat := none
  calEscalated : Bool := false
  calStep : Option CalStep := none
  calBegan : Nat := 0
  calTemp : Int := 0
  /-- End of the last completed calibration (us), and the temperature at which it began. -/
  calDone : Option Nat := none
  doneTemp : Int := 0
  calOff : Map Int := []
  /-- k_c of R89 in units of 1/3,072. -/
  calK : Map Int := []
  /-- Codes of each GAIN group so far: 4 conversions of CK0, then of CK1, CK2 and CK3 (R89, R92). -/
  calGain : List (List Int) := []
  /-- Time of each row's last refresh or programming, us (R71). -/
  rowTime : Map Nat := []
  /-- Rows due for a second slot (R109). -/
  retryRows : List Nat := []
  /-- Last outlier verification, or the end of the last PROG, us (R111), and the verifications so far (R112). -/
  verifyAt : Nat := 0
  verifyCount : Nat := 0
  /-- HOT of the shard that named the array (R371). -/
  hot : Bool := false
  /-- Idle beats in a row, and the beat offsets of the gaps of the turn so far and of the last completed turn (R418). -/
  gapRun : Nat := 0
  gaps : List Nat := []
  lastGaps : List Nat := []
deriving DecidableEq, Repr, Inhabited

/-- Who issued an array command: tile code, with its address, or a service of R354 (loader, re-placement, debug). -/
inductive CmdBy where
  | core (pc : Nat)
  | loader
  | replacement
  | debug
deriving DecidableEq, Repr, Inhabited

/-- Where an array command stands (R48, R50). `ended` holds the status of a command whose completion is still to be
reported. -/
inductive CmdStage where
  | queued
  | load
  | loaded
  | phases
  /-- A PASS whose phases have ended and that waits for the drain stage (R49). -/
  | held
  | drain
  | running
  | ended (status : Nat)
deriving DecidableEq, Repr, Inhabited

/-- An array command in the controller (R50): its 32 B record and its progress. -/
structure ACmd where
  id : Nat := 0
  qtag : Nat := 0
  by_ : CmdBy := .loader
  record : List Byte := []
  stage : CmdStage := .queued
  /-- Input of a PASS as loaded: segments in order. Of a PROG, what has been read of the current slot. -/
  input : List Byte := []
  /-- Rows that a PROG has programmed, and stuck cells it has found (R63, R66). -/
  rowsDone : Nat := 0
  found : Nat := 0
  /-- Output blocks and saturation masks that wait for the drain: (address, bytes). -/
  out : List (Nat × List Byte) := []
  /-- Columns found saturated (R46). -/
  sat : Nat := 0
  /-- Status it will end with. -/
  status : Nat := 0
  /-- Directory words sampled as the phase stage began (R100). -/
  dirs : List (Nat × W32) := []
deriving DecidableEq, Repr, Inhabited

/-- Kinds of remote operation (R212). -/
inductive RKind where
  | put | putFill | get | addI32 | addF32
deriving DecidableEq, Repr, Inhabited

/-- A packet or response in flight in the mortar. -/
inductive PktKind where
  /-- A request of a tile operation: its lines, or the lines a GET reads. -/
  | request (kind : RKind) (src op : Nat) (queue : Nat)
  /-- A request of a station operation. -/
  | station (kind : RKind) (ctx : PartId) (station : Nat) (tagged : Bool) (queue : Nat)
  /-- A positive or negative response to a tile. -/
  | ack (src op : Nat) (reason : Option Nat) (remote : W64)
  /-- GET data on its way back. -/
  | getData (src op : Nat) (at_ : Nat)
  /-- A response to a station. -/
  | stationAck (ctx : PartId) (station : Nat) (reason : Option Nat)
deriving DecidableEq, Repr, Inhabited

/-- A parked fill (R143): its lines not yet written, each with its poison mark, and who waits for the acknowledgement. -/
structure Park where
  kind : PktKind
  remote : W64
  lines : List (Nat × List Byte × Bool)
deriving DecidableEq, Repr, Inhabited

/-- A scoreboard range (R138): lines first to last, whether the operation writes them, and the operation. -/
structure SbRange where
  first : Nat
  last : Nat
  write : Bool
  owner : Nat
deriving DecidableEq, Repr, Inhabited

/-- A remote operation that a tile has issued and that is not complete (R206, R217, R220). -/
structure ROp where
  id : Nat := 0
  pc : Nat := 0
  kind : RKind := .put
  flag : Option FlagNo := none
  remote : W64 := 0
  localAddr : Nat := 0
  /-- Packets not yet acknowledged, or lines of a GET not yet written. -/
  left : Nat := 0
  /-- Reason code of its first refused packet. -/
  refused : Option Nat := none
  /-- Remote address of that packet. -/
  refusedAt : W64 := 0
  /-- Issued before the last abandonment boundary (R240). -/
  stale : Bool := false
deriving DecidableEq, Repr, Inhabited

/-- A station's tagged read that waits at a line (R222). -/
structure Watch where
  kind : PktKind
  line : Nat
deriving DecidableEq, Repr, Inhabited

/-- One tile. -/
structure Tile where
  -- control core
  run : CoreRun := .stopped
  pc : Nat := 0
  x : Map W64 := []
  v : Map W1024 := []
  vPoison : Map Bool := []
  p : Map W128 := []
  -- exception record (R168)
  excCause : Option Cause := none
  excPc : Nat := 0
  excInfo : W64 := 0
  excMore : Nat := 0
  -- beats and flags
  beatDue : Option Nat := none
  lastBeat : Option Nat := none
  /-- A BEAT has issued and waits for its beat (R186). -/
  beatWait : Bool := false
  turnD : Nat := 0
  flags : Map Bool := []
  alloc : Map Bool := []
  /-- The periods of R185 in which every flag counts as allocated. -/
  allAlloc : Bool := false
  -- engines
  vq : List VEntry := []
  kq : List (Nat × KCmd) := []
  kIssued : Map AccTy := []
  acc : Map AccSet := []
  aq : List ACmd := []
  cq : List W32 := []
  cqLost : Bool := false
  mq : List ROp := []
  sb : List SbRange := []
  nextId : Nat := 0
  -- scratchpad
  mem : Map Byte := []
  full : Map Bool := []
  poison : Map Bool := []
  /-- Flipped bits of each 64-bit word of the scratchpad (R133). -/
  wordErr : Map (List Nat) := []
  /-- Time at which patrol last read each line, us (R137). -/
  patrolAt : Map Nat := []
  banks : Map Bank := []
  -- instruction store
  body : Map W32 := []
  pages : Map W32 := []
  page : Fin 3 := 0
  /-- Flipped bits of each 64-bit pair of instruction words (R121). -/
  istoreErr : Map (List Nat) := []
  -- arrays and queues
  arrs : Map Arr := []
  grout : Map W32 := []
  qdesc : Map W32 := []
  /-- Queue descriptors with an uncorrectable error (R136). -/
  qdescErr : Map Bool := []
  park : Map (Option Park) := []
  watch : List Watch := []
  /-- Refresh period in us (R105). -/
  period : Nat := 64000
  /-- Member of its partition's beat domain (R225). -/
  member : Bool := false
deriving DecidableEq, Repr, Inhabited

/-! ### Partitions -/

/-- One entry of the turn card (R237). -/
structure CardEntry where
  slot : SlotNo
  decode : Bool
  prefill : Bool
  lastChunk : Bool
  bound : Bool
  replay : Bool
  wver : Fin 4
  positions : Nat
  steer : Nat
  chunkLen : Nat
  committed : Nat
  sampleCtr : Nat
  /-- A rebuild chunk (R426). -/
  rebuild : Bool
deriving DecidableEq, Repr, Inhabited

/-- Descriptor types (R307). -/
inductive DescType where
  | generate | tune | cancel | draft | steerWrite | steerRead
deriving DecidableEq, Repr, Inhabited

/-- The fields of a submission descriptor (R307 to R312), decoded. -/
structure Desc where
  type : DescType := .generate
  code : Nat := 0              -- TYPE as read
  follow : Bool := false
  cls : Nat := 0
  wver : Nat := 0
  steer : Nat := 0
  stream : Nat := 0
  tag : W64 := 0
  addr : W64 := 0              -- PROMPT_ADDR, SEQ_ADDR, DRAFT_ADDR or ENTRY_ADDR
  len : Nat := 0               -- PROMPT_LEN, SEQ_LEN or ENTRY_LEN
  maxNew : Nat := 0            -- MAX_NEW or STEPS
  temp : W32 := 0              -- TEMP or LR
  topP : W32 := 0
  topK : Nat := 0
  candidates : Nat := 0
  draftSource : Nat := 0
  seed : W64 := 0
  endTokens : List W32 := []
  target : W64 := 0
  maskAddr : W64 := 0
deriving DecidableEq, Repr, Inhabited

/-- Completion statuses (R316). -/
inductive Status where
  | completed | cancelled | busy | badDesc | authFail | dataError | schedFault | notFound | steerBusy | partFaulted
  | killed | fetchError
deriving DecidableEq, Repr, Inhabited

/-- A stored host draft (R285, R313). -/
structure Draft where
  turnSeq : Nat
  bytes : List Byte
deriving DecidableEq, Repr, Inhabited

/-- An admitted request: what its slot carries from acceptance to completion. -/
structure Req where
  seq : Nat := 0               -- SUBMIT_SEQ (R308)
  desc : Desc := {}
  wver : Fin 4 := 0            -- version it runs on (R332)
  bellUs : Nat := 0            -- arrival of the SQ_TAIL write that first covered it (R328)
  acceptUs : Nat := 0
  bindUs : Nat := 0
  promoted : Bool := false
  held : Bool := false             -- waited in the hold queue (R335)
  prompt : List W32 := []       -- tokens as read
  promptRead : Bool := false
  mask : List Byte := []
  done : Nat := 0              -- prefill positions done, or positions of the sweep of a TUNE
  chunks : List Nat := []       -- chunks of the forward sweep, in order (R293)
  back : Bool := false         -- the backward sweep of a tuning step (R293)
  cand : Nat := 0              -- K, the candidate count of the reservation (R268, R274)
  tokens : Nat := 0            -- tokens delivered; completed steps of a TUNE
  accepted : Nat := 0
  ttftUs : Nat := 0
  tbtMax : Nat := 0
  tbtSum : Nat := 0
  tbtCount : Nat := 0
  lastTokenUs : Nat := 0
  replayed : Bool := false
  hostPaused : Bool := false
  pausedAt : Option Nat := none
  pausedUs : Nat := 0         -- paused time since the last token record (R320)
  loss : W32 := 0
  ending : Option Status := none  -- how it ends at the next boundary
  endToken : Bool := false
  limit : Bool := false
  cancelLate : Bool := false
deriving DecidableEq, Repr, Inhabited

/-- A descriptor that has been read and checked and is handed on (R304). -/
structure Handed where
  seq : Nat
  bellUs : Nat
  desc : Desc
deriving DecidableEq, Repr, Inhabited

/-- A completion record that waits (R301): what R315 writes, but for the request's own figures. -/
structure Done where
  req : Req
  status : Status
  slot : Option Nat
  endTurn : Nat
  reason : Nat
  waitUs : Nat
deriving DecidableEq, Repr, Inhabited

/-- One partition slot. -/
structure Slot where
  req : Option Req := none
  bound : Bool := false
  committed : Nat := 0
  sampleCtr : Nat := 0
  baseLane : Nat := 0
  pages : List Nat := []        -- allocated pages, in order (R269)
  twins : List Nat := []        -- their twin pages, for a tuning slot (R292)
  reserved : Nat := 0          -- pages reserved and not yet allocated (R268)
  paused : Bool := false           -- left out for a full ring (R319)
  drafts : List Draft := []
  history : Map W32 := []       -- token history (R426)
  rebuildTo : Option Nat := none  -- committed length to rebuild, while its KV is lost
  rebuilt : Nat := 0
  failedOnce : Bool := false       -- affected in the turn being replayed (R413)
  affected : Bool := false         -- affected by the abandonment in progress
  kvLost : Bool := false           -- a KV block of it has been lost (R413)
deriving DecidableEq, Repr, Inhabited

/-- A descriptor whose read is in flight, or that has been read and waits its turn (R304). -/
structure Fetch where
  seq : Nat
  bellUs : Nat
  data : Option HostRead
deriving DecidableEq, Repr, Inhabited

/-- A token record that waits for room in its ring (R317, R319): the request it belongs to, and its place in the turn. -/
structure TokenRec where
  seq : Nat
  bytes : List Byte
  first : Bool
  last : Bool
deriving DecidableEq, Repr, Inhabited

/-- A ring the module writes: indices modulo its size, phase, and what interrupts and failover need (R300, R306, R429). -/
structure Ring where
  prod : Nat := 0
  cons : Nat := 0
  phase : Bool := true
  unsignalled : Nat := 0
  sinceUs : Nat := 0
  kept : List (List Byte) := []
  /-- Records held because the port is down or the nonce limit is reached (R396, R429). -/
  waiting : List TokenRec := []
  full : Bool := false             -- a stream ring that is full (R319)
deriving DecidableEq, Repr, Inhabited

/-- States of a steering entry (R288); `changing` between a write's boundary and the boundary after its last record. -/
inductive SteerState where
  | empty | ready | tuning | changing
deriving DecidableEq, Repr, Inhabited

structure Steer where
  state : SteerState := .empty
  active : Bool := false           -- active copy
  generation : W32 := 0
deriving DecidableEq, Repr, Inhabited

/-- States of a version place (R339). -/
inductive PlaceState where
  | empty | registered | loading | resident | removing
deriving DecidableEq, Repr, Inhabited

/-- What the module keeps of the image header (R348), relocated (R541). -/
structure ImgHeader where
  imageId : BitVec 128 := 0
  compat : Bool := false
  digital : Bool := false
  tree : Bool := false
  draft : Bool := false
  overflow : Bool := false
  twoWall : Bool := false
  origin : Nat := 0
  rows : Nat := 0
  cols : Nat := 0
  dispatch : List (Nat × Nat × Nat) := []   -- TILE, QUEUE, CARD_ADDR
  result : List Nat := []
  kvHeads : Nat := 0
  layers : Nat := 0
  heads : Nat := 0
  vocab : Nat := 0
  slotBase : Nat := 0
  resultBase : Nat := 0
  kvLanes : Nat := 0
  kvPages : Nat := 0
  steerWidth : Nat := 0
  steerLayers : Nat := 0
  steerEntries : Nat := 0
  prefillLimit : Nat := 0
  prefillRate : Nat := 0
  loadMs : Nat := 0
  ovfBytes : Nat := 0
  companions : List (BitVec 128) := []
deriving DecidableEq, Repr, Inhabited

/-- A tile entry of the tile table (R349). -/
structure TileEnt where
  tile : Nat
  prof : Nat
  member : Bool
  bankUse : BitVec 24
  stageBanks : BitVec 24
  codeBase : Nat
  codeWords : Nat
  arrUse : W64
deriving DecidableEq, Repr, Inhabited

/-- One shard entry of a manifest (R342). -/
structure ShardEnt where
  kind : Byte
  hops : W64
  off : Nat
  len : Nat
deriving DecidableEq, Repr, Inhabited

/-- A verified manifest (R341), and its digest. -/
structure Manifest where
  imageId : BitVec 128
  hopCount : Nat
  imageBytes : Nat
  keyId : W64
  digest : BitVec 512
  shards : List ShardEnt
deriving DecidableEq, Repr, Inhabited

/-- One version place. -/
structure Place where
  state : PlaceState := .empty
  manifest : Option Manifest := none
  header : Option ImgHeader := none
  tiles : List TileEnt := []
  leafDigest : Nat := 0        -- identity of leaf map and block scales (R541)
  leafMap : Map (Nat × Nat) := []
  steerMap : Map (Nat × Nat) := []
  hotArrs : List (Nat × Nat) := []
  /-- Arrays that its OVERFLOW shards name: the pool (R369, R371). -/
  poolArrs : List (Nat × Nat) := []
  /-- Entry page of the store that holds its solo entry, and its joint entry (R351). -/
  ovf : List Nat := []          -- OVERFLOW shards, and the next to feed (R369)
  ovfNext : Nat := 0
  /-- Overflow shards read and not arrived, and rows that wait for slots (tile, row, bytes). -/
  ovfAsked : List Nat := []
  ovfRows : List (Nat × Nat × List Byte) := []
  /-- Target origin pallet of the relocation (R251). -/
  target : Nat := 0
  soloPage : Option (Fin 3) := none
  jointPage : Option (Fin 3) := none
deriving DecidableEq, Repr, Inhabited

/-- A patch record of a tile (R352). -/
structure Patch where
  tile : Nat
  kind : Nat
  space : Nat
  addr : Nat
deriving DecidableEq, Repr, Inhabited

/-- One run of ARRAY shards being programmed in a tile (R357). -/
structure ProgRun where
  tile : Nat
  mask : W64
  w8 : Bool
  ring : Nat
  cmd : Nat
  rows : List (Nat × List Byte)   -- rows not yet in the ring
  again : Bool                    -- programming again after a failure (R358)
  testing : Bool                  -- the second program has failed too: its arrays are under test
  kept : List (Nat × List Byte)   -- every row so far
deriving DecidableEq, Repr, Inhabited

/-- The load of a partition (R356): what it has taken and applied. -/
structure Load where
  place : PlaceNo := 0
  registerOnly : Bool := false
  reload : Bool := false           -- the load of RELOAD (R334)
  next : Nat := 0              -- next shard to take (R345)
  inFlight : List Nat := []
  applied : List Nat := []
  seen : List Nat := []         -- kinds and places seen, for R345
  failures : Map Nat := []      -- failures by shard (R364)
  patches : List Patch := []
  runs : List ProgRun := []
  programmed : List (Nat × Nat) := []
  profiles : List (Fld × Nat) := []     -- bank profiles and tile selections of the tile table
  tablesDue : Bool := false        -- they wait for a boundary (step 3), or have been committed
  tablesDone : Bool := false
  staged : Bool := false           -- residency staged (step 6)
  held : Bool := false
  heldUp : Bool := false           -- HELD from upstream in force
  forward : List Nat := []      -- hops below, still in the forward set
  keptShards : Map (List Byte) := []
  acked : List Nat := []
  failedShard : Option Nat := none
  stopAt : Option Nat := none      -- forwarding has stopped at this shard (R365)
  relayed : Bool := false          -- the manifest has come from upstream (R361)
deriving DecidableEq, Repr, Inhabited

/-- One installed image-signing key (R388). -/
structure ImgKey where
  id : W64
  key : BitVec 456
deriving DecidableEq, Repr, Inhabited

/-- A partition's keys (R388, R391). -/
structure Keys where
  session : Option (BitVec 448 × BitVec 448) := none
  gen : Nat := 0               -- newest installed generation
  inKey : Option (BitVec 256) := none
  outKey : Option (BitVec 256) := none
  inOld : Option (BitVec 256) := none
  outOld : Option (BitVec 256) := none
  link : Option (BitVec 256) := none
  image : Map (Option ImgKey) := []
  loads : Nat := 0             -- LOADS (R393)
  /-- Outbound SEQ by class and index (R396). -/
  outSeq : Map Nat := []
deriving DecidableEq, Repr, Inhabited

/-- Hold sources of a partition, in the order of R255. -/
inductive HoldSrc where
  | tile | chain | forced | service
deriving DecidableEq, Repr, Inhabited

/-- A cancel that stage 4 has accepted (R329). -/
structure Cancel where
  seq : Nat
  tag : W64
  target : Nat
  turn : Nat
deriving DecidableEq, Repr, Inhabited

/-- A steering write in progress (R289, R314). -/
structure SteerOp where
  seq : Nat
  tag : W64
  index : Nat
  bytes : Option (List Byte)
  applied : Bool
deriving DecidableEq, Repr, Inhabited

/-- A trace record (R534). -/
structure TraceRec where
  turnSeq : Nat
  timeUs : Nat
  beats : Nat
  held : Nat
  heldChain : Nat
  heldForced : Nat
  heldService : Nat
  lateTile : Nat
  decode : Nat
  abandoned : Bool
  replay : Bool
  digital : Bool
  commit : Bool
  prefill : Nat
deriving DecidableEq, Repr, Inhabited

/-- The rest of a turn card on its way to one dispatch tile (R235): operations not yet issued, each a first line and its lines, and
whether the one before them waits in the tile's park entry. -/
structure CardOut where
  tile : Nat
  queue : Nat
  waiting : Bool
  ops : List (Nat × List (List Byte))
deriving DecidableEq, Repr, Inhabited

/-- One partition. -/
structure Part where
  regs : RegFile := []
  staged : List (Fld × Nat) := []
  -- life
  sealPending : Bool := false
  teardownPending : Bool := false
  sealCount : Nat := 0
  dmaSlots : List Nat := []
  keys : Keys := {}
  -- beats and turns
  beatNow : Nat := 0
  inTurn : Bool := false           -- a turn runs (a card is out)
  turnHeld : Nat := 0          -- held beats of the turn
  turnUnits : Nat := 0         -- time of the turn so far, in nominal beats
  turnHist : List Nat := []    -- times of the turns of the last second, newest first (R336)
  prefillHist : List (Nat × Nat) := []  -- time and positions of the turns that carried prefill
  decided : Bool := false          -- the call point of the current beat has passed
  heldSrc : Nat := 0           -- first source of its decision, as in R255
  heldBy : Map Nat := []        -- held beats of the turn by first source (R534)
  lateTile : Option Nat := none
  nextHeld : Bool := false         -- decision of the call point (R228)
  boundaryNext : Bool := false     -- the call point decided on a turn boundary (R232)
  holding : Bool := false          -- a hold is in progress
  holdUs : Nat := 0            -- hold count in 1/3 of 0.32 us: module beats counted (R242)
  service : Nat := 0           -- service holds in force (R228)
  forced : List (Nat × Nat) := []   -- tiles and arrays with a forced item (R419)
  chainLatched : Bool := false
  chainM0 : Nat := 0           -- time of the boundary mark, in reference cycles (R500)
  chainFound : Bool := false       -- a call point of the turn has found every member tile in TURN (R499)
  chainRelease : Bool := false     -- CHAIN_HOLD_OUT released
  abandonReq : Bool := false       -- an abandonment is called for (R238)
  abandonUnit : Nat := 0           -- unit code of the error that called for it, or zero (R411, R434)
  affectAll : Bool := false   -- it affects every slot of the turn
  abandoning : Bool := false       -- steps 1 to 3 of R239 under way
  replay : Bool := false           -- the current turn is a replay turn
  wdFirst : Bool := false          -- the watchdog has expired for the turn being replayed
  reloadUs : Nat := 0          -- when RELOAD began
  card : List CardEntry := []
  collected : List (Nat × List Byte) := []  -- slots with their records of the turn
  cardOut : List CardOut := []
  turnDrafts : List (Nat × List Byte) := []  -- host drafts of the turn, by slot (R285)
  tablesOut : Map (List Nat) := []  -- page tables as last written, by 256 x version + slot (R266)
  idleAt : Nat := 0            -- module beat of the last idle boundary without member tiles (R24)
  -- requests
  slots : Map Slot := []
  holdQueue : List Req := []
  cancels : List Cancel := []
  steerOps : List SteerOp := []
  waitingDone : List Done := []
  boundaryDone : List Done := []   -- completions due at the next turn boundary
  steers : Map Steer := []
  -- rings
  fetchNext : Nat := 0         -- SUBMIT_SEQ of the next descriptor to fetch (R308)
  fetchIdx : Nat := 0          -- its place in the submission ring
  tail : Nat := 0              -- latest TAIL
  bells : List (Nat × Nat) := []   -- SQ_TAIL writes: the SUBMIT_SEQ each ends at, and its time
  fetching : List Fetch := []
  handed : List Handed := []
  endedNow : List Nat := []     -- requests COMPLETED in step 1 of the boundary in progress (R25)
  reads : List Handed := []    -- control descriptors whose payload is being read
  owed : Nat := 0              -- descriptors fetched and not yet completed (R304)
  fetchStopped : Bool := false
  /-- The function on PORT has been out of reach since the last failover or doorbell (R483). -/
  hostLost : Bool := false
  rings : Map Ring := []
  msixPending : List Nat := []
  -- loading
  places : Map Place := []
  loadOp : Option Load := none
  -- power
  powerReq : Nat := 0          -- power step of R460
  drawHist : List Nat := []     -- draws of the last 100 ms
  overAt1 : Nat := 0           -- ms above budget at step 1
  belowMs : Nat := 0
  loan : Nat := 0              -- W borrowed
  lent : Nat := 0
  -- debug
  haltReq : Bool := false
  stepping : Bool := false
  haltBeats : Nat := 0        -- module beats halted since the seal (R531, R535)
  faultEnds : Nat := 0        -- requests ended with DATA_ERROR or SCHED_FAULT, on their way to SVC_STOP_COUNT (R433)
  trace : Map (Option TraceRec) := []
deriving DecidableEq, Repr, Inhabited

/-! ### Module -/

/-- A pallet's place in the service life and its power (R375, R437, R457, R462). -/
structure Pallet where
  owner : Option PartId := none
  powered : Bool := false
  /-- Parked (R462): banks and arrays OFF, nothing held. Its tiles are not listed. -/
  parked : Bool := false
  unparking : Bool := false
  tj : Int := 0                -- junction temperature of R106, °C
  thermal : Nat := 0           -- thermal step (R464)
  fast : Bool := false             -- fast-limit step (R461)
  pendingStep : Bool := false
  /-- Its regulation is lost: unpowered, its routers out of transit service (R450). -/
  dark : Bool := false
deriving DecidableEq, Repr, Inhabited

/-- Where a packet enters or leaves the mortar: a tile's router, or a port station (R221): 0 and 1 the host stations, 2 + n port
AL_n. -/
inductive Port where
  | tile (t : Nat)
  | station (n : Nat)
deriving DecidableEq, Repr, Inhabited

structure Packet where
  id : Nat := 0
  kind : PktKind
  /-- Where it entered. -/
  from_ : Port := .station 0
  target : Nat            -- target tile, or the source tile for responses
  addr : Nat := 0              -- scratchpad address of the first line
  lines : List (List Byte × Bool) := []   -- data, each line with its poison mark
  count : Nat := 0             -- lines a GET reads
  remote : W64 := 0
deriving DecidableEq, Repr, Inhabited

/-- A PCIe function's enables (R483). -/
structure Func where
  d0 : Bool := false
  busMaster : Bool := false
  flr : Bool := false
  /-- SPDM: version negotiated, capabilities exchanged, algorithms negotiated (R385). -/
  spdm : Nat := 0
deriving DecidableEq, Repr, Inhabited

/-- A host port (R429, R484). -/
structure HostPort where
  up : Bool := false
  perst : Bool := false
  vfEnable : Bool := false
  numVfs : Nat := 0
  funcs : Map Func := []
  /-- The partition that the port's DMA engine serves (R383). -/
  serving : Option PartId := none
deriving DecidableEq, Repr, Inhabited

/-- A data frame kept for replay (R493). -/
structure Frame where
  seq : Nat
  msgs : List LinkMsg
deriving DecidableEq, Repr, Inhabited

/-- An Alpiun port (R488 to R495); state, lanes and peer are in PORT_SETUP. -/
structure Link where
  trained : Bool := false          -- stored equalisation (R489)
  outbox : List LinkMsg := []   -- messages to send, oldest first
  credits : Nat := 4096        -- units of 64 B that may be sent (R493)
  freed : Nat := 0             -- units freed since the last control frame
  nextSeq : Nat := 0
  expected : Nat := 0
  lastAck : Nat := 0
  replayBuf : List Frame := []
  replays : Nat := 0           -- consecutive replays of one frame
  turnOff : Option Int := none
  lanesTest : List Nat := []
  lowPower : Bool := false
  /-- Frames encrypted and decrypted under the link key (R397). -/
  txCount : Nat := 0
  rxCount : Nat := 0
deriving DecidableEq, Repr, Inhabited

/-- A supply feed (R441). -/
structure Feed where
  mv : Nat := 0
  share : Nat := 0             -- percent of the input current
  low : Bool := false              -- low and in use for 60 s, or lost: alert raised
  withdrawn : Bool := false
  belowSince : Option Nat := none  -- below 1 V since (us)
deriving DecidableEq, Repr, Inhabited

/-- A power blade's resistance history (R446, R447). -/
structure Blade where
  samples : List Nat := []      -- last 10 values of r25, in 2^(-64) Ohm
  first : List Nat := []        -- values the baseline is formed from, at most 1,000
  base : Nat := 0               -- the baseline once formed
  n : Nat := 0                  -- values so far, modulo 10
  means : List Nat := []        -- last three 10 s means
deriving DecidableEq, Repr, Inhabited

/-- A wall (R465). -/
structure Wall where
  powered : Bool := false
  causes : List Nat := []       -- causes of emergency present: 0 pallet, 1 outlet, 2 COOL_OK, 3 flow
  changedAt : Option Nat := none  -- time of the last change, us
  causesGoneAt : Nat := 0
deriving DecidableEq, Repr, Inhabited

/-- The transit map and the bridge links out of service that the route tables were last written from (R201): routers out of transit
service, pallets without regulation, and courses whose bridge link is out. -/
structure Transit where
  routers : List Phys := []
  dark : List Nat := []
  bridges : List Nat := []
deriving DecidableEq, Repr, Inhabited

/-- Units under a self-test, or waiting for the end of a re-placement (R415, R423). -/
inductive TestUnit where
  | line (t line : Nat)
  | bank (t bank : Nat)
  | array (t a : Nat)
  | word (t word : Nat)
  | link (u : LinkUnit)
  | router (at_ : Phys)
  | lane (l lane : Nat)
deriving DecidableEq, Repr, Inhabited

/-- Which spare absorbs a lasting tile fault (R420), or repair in place (R417). -/
inductive Absorb where
  | spareTile
  | spareRow
  | inPlace (arr : Nat)
deriving DecidableEq, Repr, Inhabited

/-- A re-placement in progress (R423). -/
structure Replace where
  pallet : PalletId
  part : Option PartId
  row : Nat               -- physical span-row of the fault
  pos : Nat               -- position in the span
  absorb : Absorb
  moves : List Nat        -- logical tiles still to move, in order
  failed : Nat            -- logical tile whose physical tile or array failed
  unit : W64
  mapped : Bool           -- its bond map entries are written and its hold is released
  since : Nat := 0        -- start of its hold, us (R427)
deriving DecidableEq, Repr, Inhabited

/-- What the module has sent to its surroundings. -/
inductive Out where
  /-- A record written to a ring of host memory. -/
  | record (p : PartId) (port : PortId) (ring : RingId) (index : Nat) (bytes : List Byte) (env : Option Envelope)
  /-- A read of host memory that has been issued: descriptor, payload or shard. -/
  | hostRead (p : Option PartId) (port : PortId) (addr : W64) (len : Nat)
  | hostWrite (p : PartId) (port : PortId) (addr : W64) (bytes : List Byte) (env : Option Envelope)
  | msix (port : PortId) (func : Nat) (vector : Nat)
  | linkData (l : LinkId) (frame : Frame)
  | linkControl (l : LinkId) (credits : Nat) (nak : Option Nat)
  | relay (l : LinkId) (type index arg : Nat)
  | spdm (dest : Requester) (code : Nat) (body : List Nat)
  | pldm (sensor : Nat) (value : Option Int)
  | pldmInventory (product stepping : Nat) (serial : W64)
  | alert (code : Nat) (unit : W64)
  | aer (port : PortId)
deriving DecidableEq, Repr, Inhabited

/-- Telemetry as published (R469 to R472): the module record and the pallet records, with the energies in mJ and 0.1 mJ. -/
structure Telemetry where
  seq : Nat := 0
  modRec : List Byte := []
  sample : ModSample := ⟨[], [], [], 0, 0, 0, 0⟩
  energy : Nat := 0
  pallets : Map (List Byte) := []
  palletSeq : Map Nat := []
  palletEnergy : Map Nat := []
deriving DecidableEq, Repr, Inhabited

/-- Firmware images the controller holds (R517, R519, R432). -/
structure Boot where
  /-- Where the image being fetched comes from. -/
  fetching : Option Writer := none
  viaPldm : Option FwImage := none
  staging : Bool := false
  running : Option FwImage := none
  staged : Option FwImage := none
  inHold : Bool := false
  partsHeld : List PartId := []
  aliasKey : Option (BitVec 448 × BitVec 448) := none
  tampered : Bool := false
  moduleUp : Bool := false         -- powered
  debugLock : Bool := false
  fixedSlots : Bool := false
  /-- TEARDOWN (2) and KILL (3) that wait for the end of a handover (R381). -/
  ctrlWaits : List (PartId × Nat) := []
  /-- Module time at which the running image began, us (R518). -/
  runSince : Nat := 0
deriving DecidableEq, Repr, Inhabited

/-- The wear record (R84, R416) beside the fields of SVC_SETUP, PWR_SETUP and BOOT that are kept. -/
structure Wear where
  cycles : Map Nat := []        -- program cycles by physical array
  transients : List (W64 × Nat) := []   -- unit code and hour of each transient classification
  phaseFails : Map Nat := []
  tripped : Bool := false
  faultRows : Map (List Nat) := []      -- span-rows of each pallet with a lasting fault, in order
  saved : Nat := 0             -- writes of the record on PWR_FAIL_WARN
  beyond : List W64 := []      -- arrays for which alert 0x03 has been raised
deriving DecidableEq, Repr, Inhabited

/-- The module, all but the queue of waiting commands. -/
structure Mach where
  ctr : Nat := 0               -- free-value counter (the model's own)
  nextPkt : Nat := 0
  beats : Nat := 0             -- module beats since time 0 (R454)
  timeAdj : Int := 0           -- steps of module time, in reference cycles (R498)
  syncValid : Bool := false
  syncStepped : Bool := false      -- module time has been stepped onto SYNC_IN (R498)
  /-- After a loss of SYNC_IN: since when it has been valid again (us); none while it is not (R452). -/
  syncLost : Option (Option Nat) := none
  leaseAt : Nat := 0           -- time of the last CLAIM by the holder, us (R485)
  regs : RegFile := []
  staged : List (Fld × Nat) := []
  boot : Boot := {}
  wear : Wear := {}
  /-- Bring-up has zeroed the banks and erased the arrays of every tile (R513); before it an unlisted tile is `Tile.fresh`. -/
  zeroed : Bool := false
  tiles : Map Tile := []
  parts : Map Part := []
  pallets : Map Pallet := []
  flight : List Packet := []
  routersOut : List Phys := []
  bridgesOut : List Nat := []
  linksOut : List LinkUnit := []
  /-- The route tables, as the maps they were last written from (R201). -/
  tables : Transit := {}
  routesStale : List Phys := []    -- routers whose change waits for the route tables (R201)
  routeHolds : List Nat := []      -- partitions held for it
  feedHold : List Nat := []        -- partitions held while the input stage transfers (R431)
  tests : List TestUnit := []
  diag : Option TestUnit := none
  replaces : List Replace := []
  ports : Map HostPort := []
  links : Map Link := []
  feeds : Map Feed := []
  blades : Map Blade := []
  walls : Map Wall := []
  telemetry : Telemetry := {}
  spdmMctp : Nat := 0          -- SPDM over MCTP, as Func.spdm
  shareCut : Bool := false         -- a supply cut is in force (R443)
  chainIn : Bool := false          -- CHAIN_HOLD_IN asserted
  chainOut : Bool := false         -- CHAIN_HOLD_OUT asserted
  out : List Out := []
deriving DecidableEq, Repr, Inhabited

/-- The state: the module and the commands that wait, first in, first out. -/
structure State where
  pending : List Instr
  m : Mach
deriving DecidableEq, Repr, Inhabited

/-- A bank in pending-scrub, as power-on leaves it (R148). -/
def Bank.fresh : Bank := { scrub := true }

/-- A tile as power-on leaves it: banks pending-scrub (R148), arrays UNKNOWN (R68). -/
def Tile.fresh : Tile :=
  { banks := (List.range 24).map fun b => (b, Bank.fresh)
    arrs := (List.range 64).map fun a => (a, { content := .unknown }) }

/-- A tile of a parked pallet (R462): banks OFF, to be zeroed when they wake; arrays EMPTY and OFF. -/
def Tile.parked : Tile := { banks := (List.range 24).map fun b => (b, { pwr := .off, scrub := true }) }

/-- What a tile that is not listed holds, in a pallet that is not parked. -/
def Mach.blank (m : Mach) : Tile := if m.zeroed then {} else Tile.fresh

/-- The module at power-on reset (R14, R513): unpowered, every register at its reset value, no command waiting. -/
def State.reset : State := { pending := [], m := {} }

end Sys2Proof.Machine
end

