-- ==== Sys2Proof/Machine/Operands.lean ====
section
/-! DEFINITION. What a tile's step reads and writes: registers, command blocks, scratchpad lines, checks of addresses, the
scoreboard, and instruction words; and what it asks of its surroundings (`Sig`). -/
namespace Sys2Proof.Machine

/-! ### Bytes and fields -/

/-- Little-endian bytes as a number (R9). -/
def leNat : List Byte → Nat
  | [] => 0
  | b :: bs => b.toNat + 256 * leNat bs

/-- The low `n` bytes of a number, little-endian. -/
def leBytes : Nat → Nat → List Byte
  | 0, _ => []
  | n + 1, v => BitVec.ofNat 8 v :: leBytes n (v / 256)

/-- `w` bits of a number from bit `lo`. -/
def bits (v lo w : Nat) : Nat := v / 2 ^ lo % 2 ^ w

/-- Sign extension to 64 bits. -/
def sx {w : Nat} (b : BitVec w) : W64 := b.signExtend 64

/-! ### What a tile asks of its surroundings -/

/-- Signals of a tile's step, applied to its partition and to the module (Ops.lean). -/
inductive Sig where
  /-- The tile has raised an exception (R189), on reading the given line if one is. -/
  | exc (c : Cause) (line : Option Nat)
  /-- An event bit of the partition's registers. -/
  | evt (f : Fld)
  /-- A counter of the partition's registers. -/
  | count (f : Fld) (n : Nat)
  /-- An uncorrectable error read by an engine during a turn (R412): the line, or none where every slot is affected. -/
  | ueTurn (line : Option Nat)
  /-- The unit whose error the next signal reports, as (KIND, SUB_A, SUB_B) of R411; of several, one that is under test. -/
  | blame (us : List (Nat × Nat × Nat))
  /-- A self-test starts, or joins the run of its unit (R415). -/
  | test (u : TestUnit)
  /-- A free value has been taken. -/
  | free
  /-- A packet enters the mortar. -/
  | send (p : Packet)
  /-- Profiling event (R533). -/
  | prof (code n : Nat)
  /-- A background item becomes forced for an array (R419). -/
  | forced (a : Nat)
  /-- A command of the loading service has ended (R357). -/
  | loaderEnd (tag status : Nat)
  /-- Program cycles of arrays counted in the wear record (R84). -/
  | cycles (arrs : List Nat)
deriving DecidableEq, Repr, Inhabited

/-- The result of a tile's step. -/
abbrev TRes := Tile × List Sig

/-! ### Registers -/

def Tile.getX (T : Tile) (r : Nat) : W64 := if r = 0 then 0 else Map.get 0 T.x r
/-- Writes to x0 are discarded (R158). -/
def Tile.setX (T : Tile) (r : Nat) (v : W64) : Tile := if r = 0 then T else { T with x := Map.set 0 T.x r v }
/-- p0 reads all ones (R158). -/
def Tile.getP (T : Tile) (r : Nat) : W128 := if r = 0 then BitVec.allOnes 128 else Map.get 0 T.p r
def Tile.setP (T : Tile) (r : Nat) (v : W128) : Tile := if r = 0 then T else { T with p := Map.set 0 T.p r v }
def Tile.getV (T : Tile) (r : Nat) : W1024 := Map.get 0 T.v r
def Tile.vPoisoned (T : Tile) (r : Nat) : Bool := Map.get false T.vPoison r
def Tile.setV (T : Tile) (r : Nat) (v : W1024) (poison : Bool) : Tile :=
  { T with v := Map.set 0 T.v r v, vPoison := Map.set false T.vPoison r poison }

/-- Sync flags (R124). -/
def Tile.flagSet (T : Tile) (f : Nat) : Bool := Map.get false T.flags f
def Tile.setFlag (T : Tile) (f : Nat) (b : Bool) : Tile := { T with flags := Map.set false T.flags f b }
/-- The completion of an operation sets the flag it names. -/
def Tile.doneFlag (T : Tile) (f : Option FlagNo) : Tile :=
  match f with
  | none => T
  | some f => T.setFlag f.val true
def Tile.allocated (T : Tile) (f : Nat) : Bool := T.allAlloc || Map.get false T.alloc f
def Tile.setAlloc (T : Tile) (f : Nat) : Tile := { T with alloc := Map.set false T.alloc f true }

/-- Registers whose value a queued VEXT has yet to deliver (R171). -/
def VEntry.dest : VEntry → Option Nat
  | .op _ .ext vd _ _ _ _ _ => if vd.val = 0 then none else some vd.val
  | _ => none
def Tile.awaited (T : Tile) : List Nat := T.vq.filterMap VEntry.dest

/-! ### Exceptions (R189 to R191) -/

def Cause.code : Cause → Nat
  | .illegal => 1 | .misalign => 2 | .range => 3 | .portClass => 4 | .ueLocal => 5 | .badBlock => 6
  | .flagUnalloc => 7 | .beatOrder => 8 | .remotePart => 9 | .array => 10 | .queueOverflow => 11
  | .fullNonowner => 12 | .remoteFail => 13 | .divZero => 14

/-- A core that runs or waits stops when the tile raises an exception. -/
def CoreRun.except : CoreRun → CoreRun
  | .running => .excepted
  | .inTurn => .excepted
  | r => r

/-- The tile's record of an exception: written when it is empty, else counted in EXC_MORE. -/
def Tile.recordExc (T : Tile) (c : Cause) (pc : Nat) (info : W64) : Tile :=
  match T.excCause with
  | none => { T with run := T.run.except, excCause := some c, excPc := pc, excInfo := info }
  | some _ => { T with run := T.run.except, excMore := Min.min (T.excMore + 1) 0xFFFF }

/-- Raising an exception: the record, and the signal to the partition. -/
def Tile.raise (T : Tile) (c : Cause) (pc : Nat) (info : W64) : TRes := (T.recordExc c pc info, [.exc c none])

/-- An exception of the instruction at the program counter. -/
def Tile.raiseAt (T : Tile) (c : Cause) (info : W64) : TRes := T.raise c T.pc info

/-- The next instruction follows. -/
def Tile.advance (T : Tile) : Tile := { T with pc := T.pc + 4 }

/-! ### Instruction words (R159, R161), for EXC_INFO of ILLEGAL -/

def encR (major d a b fn : Nat) : W64 :=
  BitVec.ofNat 64 (major * 2 ^ 26 + d * 2 ^ 21 + a * 2 ^ 16 + b * 2 ^ 11 + fn)
def encI (major d a imm : Nat) : W64 := BitVec.ofNat 64 (major * 2 ^ 26 + d * 2 ^ 21 + a * 2 ^ 16 + imm)
def encJ (major d imm : Nat) : W64 := BitVec.ofNat 64 (major * 2 ^ 26 + d * 2 ^ 21 + imm)
def encV (vd va vb pg ty fn : Nat) : W64 :=
  BitVec.ofNat 64 (0x20 * 2 ^ 26 + vd * 2 ^ 21 + va * 2 ^ 16 + vb * 2 ^ 11 + pg * 2 ^ 8 + ty * 2 ^ 5 + fn)
def encC (major n : Nat) : W64 := BitVec.ofNat 64 (major * 2 ^ 26 + n * 2 ^ 21)
def encCr (x dir n : Nat) : W64 := BitVec.ofNat 64 (0x1D * 2 ^ 26 + x * 2 ^ 21 + dir * 2 ^ 20 + n * 2 ^ 8)

/-! ### Command blocks (R175) -/

/-- n is 4, 8, …, 28. -/
def blockReg (n : Nat) : Bool := n % 4 == 0 && decide (4 ≤ n) && decide (n ≤ 28)
/-- The 32 bytes of the block in registers n to n + 3, as one number. -/
def Tile.block (T : Tile) (n : Nat) : Nat :=
  (T.getX n).toNat + 2 ^ 64 * (T.getX (n + 1)).toNat + 2 ^ 128 * (T.getX (n + 2)).toNat
    + 2 ^ 192 * (T.getX (n + 3)).toNat
/-- The field of `size` bytes at byte `off` of a block. -/
def blk (b off size : Nat) : Nat := bits b (8 * off) (8 * size)
/-- A DONE_FLAG field: 0xFFFF for none. -/
def doneOf (v : Nat) : Option FlagNo := if h : v < 256 then some ⟨v, h⟩ else none

/-! ### Scratchpad -/

/-- Bytes of the scratchpad (R130). -/
def padSize : Nat := 0x180000
def Tile.bank (T : Tile) (b : Nat) : Bank := Map.get {} T.banks b
def Tile.bankAt (T : Tile) (addr : Nat) : Bank := T.bank (addr / 65536)
def Tile.setBank (T : Tile) (b : Nat) (k : Bank) : Tile := { T with banks := Map.set {} T.banks b k }

def Tile.readBytes (T : Tile) (addr n : Nat) : List Byte := Map.readFrom 0 T.mem addr n
/-- A byte of a pending-scrub bank: writes to it are dropped (R148). -/
def Tile.dropsAt (T : Tile) (addr : Nat) : Bool := (T.bankAt addr).scrub
/-- The stored bytes after a write: those of a pending-scrub bank are unchanged (R148). -/
def Tile.putBytes (T : Tile) (addr : Nat) (bs : List Byte) : Map Byte :=
  if (List.range bs.length).all fun i => !T.dropsAt (addr + i) then Map.writeFrom 0 T.mem addr bs
  else ((List.range bs.length).zip bs).foldl (fun m b => if T.dropsAt (addr + b.1) then m else Map.set 0 m (addr + b.1) b.2) T.mem
/-- Bytes written, with good check bits in every word that is wholly written. -/
def Tile.writeBytes (T : Tile) (addr : Nat) (bs : List Byte) : Tile :=
  { T with
    mem := T.putBytes addr bs
    wordErr := T.wordErr.filter fun e => decide (8 * e.1 < addr) || decide (addr + bs.length < 8 * e.1 + 8) }
/-- A tag reads empty in a pending-scrub bank (R148). -/
def Tile.tagFull (T : Tile) (line : Nat) : Bool := Map.get false T.full line && !T.dropsAt (64 * line)
def Tile.setTag (T : Tile) (line : Nat) (b : Bool) : Tile := { T with full := Map.set false T.full line b }
def Tile.poisoned (T : Tile) (line : Nat) : Bool := Map.get false T.poison line
def Tile.setPoison (T : Tile) (line : Nat) (b : Bool) : Tile :=
  { T with poison := Map.set false T.poison line b }

/-- A whole line written, with its poison bit (R135): clean data clear it. New data carry good check bits. -/
def Tile.storeLine (T : Tile) (line : Nat) (bs : List Byte) (poison : Bool) : Tile :=
  (T.writeBytes (64 * line) bs).setPoison line poison

/-- Clean bytes written by the array controller: each line wholly written loses its poison bit (R135). -/
def Tile.storeRun (T : Tile) (addr : Nat) (bs : List Byte) : Tile :=
  { T.writeBytes addr bs with
    poison := T.poison.filter fun e => decide (64 * e.1 < addr) || decide (addr + bs.length < 64 * e.1 + 64) }

/-- Lines written one after another. -/
def Tile.storeLines (T : Tile) (line : Nat) (poison : Bool) : List (List Byte) → Tile
  | [] => T
  | l :: ls => (T.storeLine line l poison).storeLines (line + 1) poison ls

/-- Bytes cut into lines of 64. -/
def cutLines : Nat → List Byte → List (List Byte)
  | 0, _ => []
  | n + 1, bs => bs.take 64 :: cutLines n (bs.drop 64)

/-- What an engine's read of a line finds. -/
inductive Found where
  | clean | corrected | bad
deriving DecidableEq, Repr, Inhabited

def Found.worst : Found → Found → Found
  | .bad, _ => .bad
  | _, .bad => .bad
  | .corrected, _ => .corrected
  | _, f => f

/-- Flipped bits of byte `i` of a word. -/
def byteFlips (flips : List Nat) (i : Nat) : Nat := (flips.filter fun b => b / 8 == i).length
/-- What a class's code finds in a word with flipped bits (R133). -/
def ProtClass.finds (k : ProtClass) (flips : List Nat) : Found :=
  if flips.isEmpty then .clean
  else match k with
    | .weight => if flips.length ≤ 2 then .corrected else .bad
    | .state => if flips.length ≤ 1 then .corrected else .bad
    | .scratch => if (List.range 8).any fun i => byteFlips flips i % 2 == 1 then .bad else .clean
/-- The flips of a word are more than its class is stated to detect (R540). -/
def ProtClass.misses (k : ProtClass) (flips : List Nat) : Bool :=
  match k with
  | .weight => decide (4 ≤ flips.length)
  | .state => decide (3 ≤ flips.length)
  | .scratch => !flips.isEmpty && (List.range 8).all fun i => byteFlips flips i % 2 == 0

def Tile.wordFlips (T : Tile) (w : Nat) : List Nat := Map.get [] T.wordErr w
/-- The code a bank's words carry: that of its old class while its change waits (R156). -/
def Bank.code (k : Bank) : ProtClass := if k.held then k.oldProt else k.prot
/-- What the code finds in a line, whatever its poison bit. -/
def Tile.codeFound (T : Tile) (line : Nat) : Found :=
  (List.range 8).foldl (fun f i => f.worst ((T.bankAt (64 * line)).code.finds (T.wordFlips (8 * line + i)))) .clean
def Tile.found (T : Tile) (line : Nat) : Found := if T.poisoned line then .bad else T.codeFound line
/-- A line with good check bits again. -/
def Tile.clearErr (T : Tile) (line : Nat) : Tile := { T with wordErr := T.wordErr.filter fun e => e.1 / 8 != line }

/-- Bits of a word flipped. -/
def flipBits (v : W64) (flips : List Nat) : W64 := flips.foldl (fun v b => v ^^^ BitVec.ofNat 64 (2 ^ b)) v
/-- Flips that come together with those already there: a bit flipped twice is good again. -/
def joinFlips (old : List Nat) (new : List Nat) : List Nat :=
  old.filter (fun b => !new.contains b) ++ new.filter fun b => !old.contains b

/-- Bits of a word of the scratchpad flip (R133, R540). Flips that the class's code does not detect leave wrong data with no error: an
even number in each byte under parity, and a free value where the code may miscorrect. -/
def Tile.upsetWord (T : Tile) (free : W64) (w : Nat) (bits_ : List Nat) : Tile :=
  let fl := joinFlips (T.wordFlips w) bits_
  let k := (T.bankAt (8 * w)).code
  if k.misses fl then
    T.writeBytes (8 * w) (leBytes 8
      (match k with
        | .scratch => flipBits (BitVec.ofNat 64 (leNat (T.readBytes (8 * w) 8))) fl
        | _ => free).toNat)
  else { T with wordErr := Map.set [] T.wordErr w fl }

/-- Flipped bits of the 64-bit pair that holds a word of the instruction store (SECDED, R121). -/
def Tile.storeFlips (T : Tile) (i : Nat) : List Nat := Map.get [] T.istoreErr (i / 2)
/-- Every error of the pair that holds a word of the instruction store is gone. -/
def Tile.clearStoreErr (T : Tile) (i : Nat) : Tile := { T with istoreErr := Map.erase T.istoreErr (i / 2) }

/-- What follows a corrected error (R134): the line is written back, counted and tested. -/
def corrSigs (t line : Nat) (prot : ProtClass) : List Sig :=
  [.count Reg.TILE_CE_COUNT 1,
   .evt (match prot with | .weight => Reg.TILE_EVT_CE_WEIGHT | _ => Reg.TILE_EVT_CE_STATE),
   .test (.line t line)]
/-- What follows an uncorrectable error or a poisoned read (R135). -/
def badSigs (t line : Nat) : List Sig :=
  [.count Reg.TILE_UE_COUNT 1, .evt Reg.TILE_EVT_UE_SEEN, .test (.line t line)]

/-- The error side of reading a line: the line as the read leaves it, its signals, and whether the data are bad. -/
def Tile.senseLine (T : Tile) (t line : Nat) : Tile × List Sig × Bool :=
  match T.found line with
  | .clean => (T, [], false)
  | .corrected => (T.clearErr line, corrSigs t line (T.bankAt (64 * line)).code, false)
  | .bad => (T, badSigs t line, true)

/-- The error side of reading several lines. -/
def Tile.senseLines (T : Tile) (t : Nat) : List Nat → Tile × List Sig × Bool
  | [] => (T, [], false)
  | l :: ls =>
    let r := T.senseLine t l
    let q := r.1.senseLines t ls
    (q.1, r.2.1 ++ q.2.1, r.2.2 || q.2.2)

/-- The lines of a range of bytes. -/
def linesOf (addr n : Nat) : List Nat :=
  (List.range ((addr + n - 1) / 64 + 1 - addr / 64)).map (addr / 64 + ·)

/-! ### Checks of a local access (R130, R131, R147, R149) -/

/-- The outcome of the checks of a range: allowed, out of range or of a wrong port class at an address, or a wait. -/
inductive Chk where
  | ok
  | range (addr : Nat)
  | port (addr : Nat)
  | wait
deriving DecidableEq, Repr, Inhabited

/-- The first of the banks that fails a test, as the address at which the range meets it. -/
def Tile.firstBad (T : Tile) (addr : Nat) (bad : Bank → Bool) : List Nat → Option Nat
  | [] => none
  | b :: bs => if bad (T.bank b) then some (Nat.max addr (65536 * b)) else T.firstBad addr bad bs

/-- Banks of a range. -/
def banksOf (addr n : Nat) : List Nat :=
  (List.range ((addr + n - 1) / 65536 + 1 - addr / 65536)).map (addr / 65536 + ·)

/-- R191 puts RANGE before PORT_CLASS; a bank whose change has not ended or that is pending-scrub makes a local engine wait (R147,
R149, R156). -/
def Tile.check (T : Tile) (allow : PortClass → Bool) (addr n : Nat) : Chk :=
  if padSize ≤ addr then .range addr
  else
    let bs := banksOf addr (Nat.min n (padSize - addr))
    match T.firstBad addr (fun k => decide (k.pwr ≠ .on)) bs with
    | some a => .range a
    | none =>
      if padSize < addr + n then .range padSize
      else match T.firstBad addr (fun k => !allow k.port) bs with
        | some a => .port a
        | none => if bs.any fun b => (T.bank b).changing || (T.bank b).held || (T.bank b).scrub then .wait else .ok

/-- The tile as an operation meets its banks: one issued before the boundary of a change that still waits meets the old binding
(R156). -/
def Tile.asOf (T : Tile) (id : Nat) : Tile :=
  { T with banks := T.banks.map fun e =>
      (e.1, if e.2.held && decide (id < e.2.heldAt) then
          { e.2 with pwr := e.2.oldPwr, prot := e.2.oldProt, port := e.2.oldPort, held := false, changing := false }
        else e.2) }

def coreAllow : PortClass → Bool
  | .narrow => true
  | _ => false
def vectorAllow : PortClass → Bool
  | .narrow => false
  | _ => true
def wideAllow : PortClass → Bool
  | .wide => true
  | _ => false
def routerAllow : PortClass → Bool
  | .wide => false
  | _ => true

/-! ### Scoreboard (R138, R139) -/

def SbRange.conflicts (r : SbRange) (first last : Nat) (write : Bool) : Bool :=
  (r.write || write) && decide (r.first ≤ last) && decide (first ≤ r.last)

/-- A range given by its first and last line and whether it is written. -/
abbrev LineRange := Nat × Nat × Bool

/-- The ranges conflict with operations in flight, or do not fit in the 48 ranges. -/
def Tile.sbStall (T : Tile) (rs : List LineRange) : Bool :=
  (rs.any fun r => T.sb.any fun e => e.conflicts r.1 r.2.1 r.2.2) || decide (48 < T.sb.length + rs.length)

/-- The ranges entered under an operation's identity. -/
def Tile.sbEnter (T : Tile) (owner : Nat) (rs : List LineRange) : Tile :=
  { T with sb := T.sb ++ rs.map fun r => ⟨r.1, r.2.1, r.2.2, owner⟩ }
/-- The ranges of an operation retire. -/
def Tile.sbRetire (T : Tile) (owner : Nat) : Tile := { T with sb := T.sb.filter fun e => e.owner ≠ owner }
/-- The read ranges of an operation retire. -/
def Tile.sbRetireReads (T : Tile) (owner : Nat) : Tile :=
  { T with sb := T.sb.filter fun e => e.owner ≠ owner || e.write }

/-- The line range of bytes. -/
def lineRange (addr n : Nat) (write : Bool) : LineRange := (addr / 64, (addr + n - 1) / 64, write)

/-! ### Instruction store (R157, R350) -/

/-- The store word behind a fetch of word `w` of the core's view: entry page in effect, or body. Body words come first. -/
def Tile.storeWord (T : Tile) (w : Nat) : Nat :=
  if w < 1024 then 15360 + 1024 * T.page.val + w else w - 1024
def Tile.readStore (T : Tile) (i : Nat) : W32 :=
  if i < 15360 then Map.get 0 T.body i else Map.get 0 T.pages (i - 15360)
def Tile.writeStore (T : Tile) (i : Nat) (v : W32) : Tile :=
  if i < 15360 then { T with body := Map.set 0 T.body i v } else { T with pages := Map.set 0 T.pages (i - 15360) v }

/-- A pair of instruction words is upset (R121): three flips or more may be miscorrected or pass, and then leave free values. -/
def Tile.upsetStore (T : Tile) (free : W64) (pair : Nat) (bits_ : List Nat) : Tile :=
  let fl := joinFlips (T.storeFlips (2 * pair)) bits_
  if 3 ≤ fl.length then
    ((T.writeStore (2 * pair) (free.setWidth 32)).writeStore (2 * pair + 1) (BitVec.ofNat 32 (free.toNat / 2 ^ 32))).clearStoreErr (2 * pair)
  else { T with istoreErr := Map.set [] T.istoreErr pair fl }

/-- An upset of a tile's stores. -/
def Tile.upset (T : Tile) (free : W64) : Upset → Tile
  | .word w bs => T.upsetWord free w.val (bs.map (·.val)).dedup
  | .store i bs => T.upsetStore free i.val (bs.map (·.val)).dedup
  | .desc q => { T with qdescErr := Map.set false T.qdescErr q.val true }

/-! ### Issue (R122) -/

/-- What follows an uncorrectable error in a fetched word (R136, R415). -/
def wordBadSigs (t i : Nat) : List Sig :=
  [.count Reg.TILE_UE_COUNT 1, .evt Reg.TILE_EVT_UE_SEEN, .test (.word t i)]

/-- An instruction that reads and writes the given x registers reaches issue: nothing happens while the core does not run or
while a register waits for a queued VEXT; a fetch past 0xFFFC raises ILLEGAL (R160); a fetch of a word with an uncorrectable error
raises UE_LOCAL (R123, R136), and one with a corrected error writes the word back (R412; log entry 76). -/
def Tile.issue (T : Tile) (t : Nat) (regs : List Nat) (body : Tile → TRes) : TRes :=
  if T.run ≠ .running then (T, [])
  else if 0x10000 ≤ T.pc then T.raise .illegal 0xFFFC 0x8000000000010000
  else
    let i := T.storeWord (T.pc / 4)
    match ProtClass.state.finds (T.storeFlips i) with
    | .bad =>
      let r := T.raiseAt .ueLocal (BitVec.ofNat 64 T.pc)
      (r.1, .blame [(4, 0, i)] :: r.2 ++ wordBadSigs t i)
    | .corrected =>
      if regs.any fun r => T.awaited.contains r then (T, [])
      else
        let r := body (T.clearStoreErr i)
        (r.1, .count Reg.TILE_CE_COUNT 1 :: r.2)
    | .clean => if regs.any fun r => T.awaited.contains r then (T, []) else body T

end Sys2Proof.Machine
end

