-- ==== Sys2Proof/Machine/Ops.lean ====
section
/-! DEFINITION. Operations of the module: access to tiles, partitions and pallets, registers, module time, the bond map, and what
a tile's signals do. -/
namespace Sys2Proof.Machine

/-- A command's effect on the module, as a step: the queue is untouched. -/
def lift (f : Mach → Mach) (s : State) : Host.Outcome State Fault Refusal := .next { s with m := f s.m }

/-! ### Access -/

/-- Pallet of a logical tile (R155). -/
def palletOf (t : Nat) : Nat := 60 * (t / 26400) + 4 * (t % 26400 / 160 / 11) + t % 160 / 40
/-- Pallet row and span column of a pallet. -/
def palRow (i : Nat) : Nat := i % 60 / 4
def palCol (i : Nat) : Nat := i % 4
/-- What tile `t` holds while it is not listed. -/
def Mach.blankAt (m : Mach) (t : Nat) : Tile :=
  if (Map.get {} m.pallets (palletOf t)).parked then Tile.parked else m.blank
def Mach.tile (m : Mach) (t : Nat) : Tile := Map.get (m.blankAt t) m.tiles t
def Mach.setTile (m : Mach) (t : Nat) (T : Tile) : Mach := { m with tiles := Map.set (m.blankAt t) m.tiles t T }
def Mach.modTile (m : Mach) (t : Nat) (f : Tile → Tile) : Mach := m.setTile t (f (m.tile t))
def Mach.part (m : Mach) (p : Nat) : Part := Map.get {} m.parts p
def Mach.setPart (m : Mach) (p : Nat) (P : Part) : Mach := { m with parts := Map.set {} m.parts p P }
def Mach.modPart (m : Mach) (p : Nat) (f : Part → Part) : Mach := m.setPart p (f (m.part p))
def Mach.pallet (m : Mach) (i : Nat) : Pallet := Map.get {} m.pallets i
def Mach.modPallet (m : Mach) (i : Nat) (f : Pallet → Pallet) : Mach :=
  { m with pallets := Map.set {} m.pallets i (f (m.pallet i)) }
def Mach.hostPort (m : Mach) (i : Nat) : HostPort := Map.get {} m.ports i
def Mach.modHostPort (m : Mach) (i : Nat) (f : HostPort → HostPort) : Mach :=
  { m with ports := Map.set {} m.ports i (f (m.hostPort i)) }
def Mach.link (m : Mach) (i : Nat) : Link := Map.get {} m.links i
def Mach.modLink (m : Mach) (i : Nat) (f : Link → Link) : Mach :=
  { m with links := Map.set {} m.links i (f (m.link i)) }
def Part.slot (P : Part) (i : Nat) : Slot := Map.get {} P.slots i
def Part.modSlot (P : Part) (i : Nat) (f : Slot → Slot) : Part :=
  { P with slots := Map.set {} P.slots i (f (P.slot i)) }

/-! ### Registers -/

def Part.getR (P : Part) (f : Fld) : Nat := P.regs.get f
def Part.setR (P : Part) (f : Fld) (v : Nat) : Part := { P with regs := P.regs.set f v }
def Part.flagR (P : Part) (f : Fld) : Bool := P.regs.flag f
/-- Sets an event bit. -/
def Part.evt (P : Part) (f : Fld) : Part := P.setR f 1
def Part.cnt (P : Part) (f : Fld) (n : Nat) : Part := { P with regs := P.regs.count f n }
def Mach.getR (m : Mach) (f : Fld) : Nat := m.regs.get f
def Mach.setR (m : Mach) (f : Fld) (v : Nat) : Mach := { m with regs := m.regs.set f v }
def Mach.flagR (m : Mach) (f : Fld) : Bool := m.regs.flag f
def Mach.evt (m : Mach) (f : Fld) : Mach := m.setR f 1
def Mach.cnt (m : Mach) (f : Fld) (n : Nat) : Mach := { m with regs := m.regs.count f n }

/-- TURN_SEQ of the current turn (R255). -/
def Part.turnSeq (P : Part) : Nat := P.getR Reg.TURN_SEQ_LO + 2 ^ 32 * P.getR Reg.TURN_SEQ_HI
def Part.setTurnSeq (P : Part) (n : Nat) : Part :=
  (P.setR Reg.TURN_SEQ_LO (n % 2 ^ 32)).setR Reg.TURN_SEQ_HI (n / 2 ^ 32)

/-- PART_STATUS STATE (R410). -/
def stFree : Nat := 0
def stSealed : Nat := 1
def stScrubbing : Nat := 2
def Part.state (P : Part) : Nat := P.getR Reg.PART_STATUS_STATE
def Part.isSealed (P : Part) : Bool := P.state == stSealed
/-- CONFIDENTIAL (R410). -/
def Part.confidential (P : Part) : Bool := P.flagR Reg.PART_CFG_SEC_MODE
def Part.faulted (P : Part) : Bool := P.flagR Reg.TURN_CFG_FAULTED
def Part.compat (P : Part) : Bool := P.flagR Reg.TILE_ISA_CFG_COMPAT_G1

def partIds : List Nat := List.range 16
/-- A change of every partition that holds a property. -/
def Mach.modParts (m : Mach) (q : Part → Bool) (f : Part → Part) : Mach :=
  partIds.foldl (fun m p => if q (m.part p) then m.modPart p f else m) m

/-! ### Geometry (R7, R17, R18, R155) -/

/-- Logical tiles of a pallet. -/
def tilesOfPallet (i : Nat) : List Nat :=
  let w := i / 60
  let r := i % 60 / 4
  let s := i % 4
  (List.range 11).flatMap fun c => (List.range 40).map fun k => 26400 * w + 160 * (11 * r + c) + 40 * s + k

def Mach.owner (m : Mach) (t : Nat) : Option PartId := (m.pallet (palletOf t)).owner
/-- The partition that owns a tile's pallet, as its registers stand; an unowned tile sees reset values. -/
def Mach.ownerPart (m : Mach) (t : Nat) : Part :=
  match m.owner t with
  | some p => m.part p.val
  | none => {}
/-- Tile `u` lies in the pallets of the partition that owns tile `t`. -/
def Mach.samePart (m : Mach) (t u : Nat) : Bool := (m.owner t).isSome && m.owner u == m.owner t
def Mach.palletsOf (m : Mach) (p : Nat) : List Nat :=
  (List.range 120).filter fun i => (m.pallet i).owner.map (·.val) == some p
/-- The member tiles of a partition (R225) that are listed: every member holds code and so is listed. -/
def Mach.members (m : Mach) (p : Nat) : List Nat :=
  (m.tiles.filter fun e => e.2.member && (m.owner e.1).map (·.val) == some p).map (·.1)
/-- Tiles of a partition's pallets that are listed. -/
def Mach.tilesOf (m : Mach) (p : Nat) : List Nat :=
  (m.tiles.filter fun e => (m.owner e.1).map (·.val) == some p).map (·.1)
/-- The same change of each tile of a list. -/
def Mach.modTiles (m : Mach) (ts : List Nat) (f : Nat → Tile → Tile) : Mach :=
  ts.foldl (fun m t => m.modTile t (f t)) m

end Sys2Proof.Machine

namespace Sys2Proof

/-- The span-row, position and pallet of a physical router position. -/
def Phys.pallet (q : Phys) : Nat := 60 * q.w.val + 4 * (q.pc.val / 12) + q.pk.val / 41
def Phys.spanRow (q : Phys) : Nat := q.pc.val % 12
def Phys.pos (q : Phys) : Nat := q.pk.val % 41

end Sys2Proof

namespace Sys2Proof.Machine

/-- Position within the span of logical position k (0–39) of a span-row: the mapped-out position is skipped (R438). -/
def Mach.spanPos (m : Mach) (pal row k : Nat) : Nat :=
  if m.flagR (Reg.BOND_SKIP pal row) && decide (m.getR (Reg.BOND_POS pal row) ≤ k) then k + 1 else k
/-- Physical tile of a logical tile: the bond map and the spare span-row (R18, R437, R438). -/
def Mach.physOf (m : Mach) (t : Nat) : Nat × Nat × Nat :=
  let w := t / 26400
  let c := t % 26400 / 160
  let k := t % 160
  let pal := palletOf t
  let row := if m.getR (Reg.SPARE_ROW pal) = c % 11 then 11 else c % 11
  (w, 12 * (c / 11) + row, 41 * (k / 40) + m.spanPos pal row (k % 40))

/-- Unit codes (R411). -/
def unitCode (kind w pc pk subA subB : Nat) : W64 :=
  BitVec.ofNat 64 (kind * 2 ^ 56 + w * 2 ^ 48 + pc * 2 ^ 40 + pk * 2 ^ 32 + subA * 2 ^ 16 + subB)
def Mach.tileUnit (m : Mach) (t kind subA subB : Nat) : W64 :=
  let q := m.physOf t
  unitCode kind q.1 q.2.1 q.2.2 subA subB
def palletUnit (i : Nat) : W64 := unitCode 0x0C (i / 60) (12 * (i % 60 / 4)) (41 * (i % 4)) 0 0xFFFF

/-! ### Module time (R454, R498) -/

/-- Module time in reference cycles of 10 ns: a module beat lasts 32/3 of them. -/
def Mach.timeCycles (m : Mach) : Int := ((32 * m.beats / 3 : Nat) : Int) + m.timeAdj
def Mach.timeUs (m : Mach) : Nat := (m.timeCycles / 100).toNat

/-! ### Signals of a tile -/

/-- KV pages a lane holds (R264). -/
def laneDepth (pages lanes l : Nat) : Nat := if lanes = 0 then 0 else (pages + lanes - 1 - l) / lanes
/-- The page whose KV block covers a byte of a tile, by the leaf map of a resident image (R264). -/
def Part.kvPage (P : Part) (t addr : Nat) : Option Nat :=
  let pages := P.getR Reg.KV_POOL_KV_PAGES
  let lanes := P.getR Reg.KV_POOL_KV_LANES
  P.places.findSome? fun pl =>
    if pl.2.state = .resident then
      pl.2.leafMap.findSome? fun e =>
        let base := e.2.2
        let d := (addr - base) / 4096
        let lane := e.1 / (pl.2.header.map fun h => 4 * h.layers * h.kvHeads).getD 0
        if e.2.1 = t ∧ base ≤ addr ∧ d < laneDepth pages lanes lane then some (d * lanes + lane) else none
    else none
/-- The slot that owns a page. -/
def Part.pageOwner (P : Part) (page : Nat) : Option Nat :=
  P.slots.findSome? fun e => if e.2.pages.contains page || e.2.twins.contains page then some e.1 else none

/-- An abandonment is called for; which slots it affects (R412). -/
def Part.callAbandon (P : Part) (t : Nat) (line : Option Nat) : Part :=
  let P := { P with abandonReq := true }
  match line.bind fun l => P.kvPage t (64 * l) with
  | some page =>
    match P.pageOwner page with
    | some s => P.modSlot s fun S => { S with affected := true, kvLost := true }
    | none => P
  | none => { P with affectAll := true }

/-- The unit of the error that calls for an abandonment, for TURN_ABANDONED (R434): the first error's. -/
def Part.blame (P : Part) (unit : Nat) : Part := if P.abandonReq || P.abandoning then P else { P with abandonUnit := unit }
/-- Unit code of the unit blamed: of several arrays the first under self-test, and otherwise the first. -/
def Mach.blamed (m : Mach) (t : Nat) (us : List (Nat × Nat × Nat)) : Nat :=
  let u := ((us.find? fun u => m.tests.contains (.array t u.2.1)).getD (us.headD (0, 0, 0)))
  (m.tileUnit t u.1 u.2.1 u.2.2).toNat
def lineUnit (line : Nat) : Nat × Nat × Nat := (1, line / 1024, line % 1024)
/-- An error read from a line, if it is one, is blamed on the line. -/
def Mach.blameLine (m : Mach) (t : Nat) (line : Option Nat) (P : Part) : Part :=
  match line with
  | some l => P.blame (m.blamed t [lineUnit l])
  | none => P

/-- A profiling event of a tile, or of the sequencer for `none` (R533). -/
def Part.profile (P : Part) (t : Option Nat) (code n : Nat) : Part :=
  if P.flagR Reg.PROF_CTRL_FREEZE then P
  else if P.flagR Reg.PROF_CTRL_FILTER && t.isSome && t != some (P.getR Reg.PROF_CTRL_PROF_TILE) then P
  else
    (List.range 8).foldl (fun P i =>
      if P.getR (Reg.PROF_SEL_EVENT i) = code then
        let v := P.getR (Reg.PROF_CNT_LO_COUNT i) + 2 ^ 32 * P.getR (Reg.PROF_CNT_HI_COUNT i) + n
        (P.setR (Reg.PROF_CNT_LO_COUNT i) (v % 2 ^ 32)).setR (Reg.PROF_CNT_HI_COUNT i) (v / 2 ^ 32)
      else P) P

/-- A tile of the partition has raised an exception: count, cause bit, first record (R189, R192), event bits of storage causes
(R153), and the abandonment where the tile is a member (R238). -/
def Part.noteExc (P : Part) (t : Nat) (member : Bool) (c : Cause) (line : Option Nat) : Part :=
  let seen := P.getR Reg.TILE_EXC_EVT_CAUSE_SEEN
  let P := if seen = 0 then
      (P.setR Reg.TILE_EXC_FIRST_CAUSE c.code).setR Reg.TILE_EXC_FIRST_TILE_INDEX t
    else P
  let P := (P.cnt Reg.TILE_EXC_COUNT 1).setR Reg.TILE_EXC_EVT_CAUSE_SEEN (seen ||| 2 ^ (c.code - 1))
  let P := match c with
    | .range => P.evt Reg.TILE_EVT_RANGE_SEEN
    | .portClass => P.evt Reg.TILE_EVT_PORT_CLASS_SEEN
    | .queueOverflow => P.evt Reg.TILE_EVT_QUEUE_OVERFLOW_SEEN
    | .fullNonowner => P.evt Reg.TILE_EVT_FULL_NONOWNER_SEEN
    | .remoteFail => P.evt Reg.MORTAR_EVT_REMOTE_FAIL_SEEN
    | _ => P
  if member then P.callAbandon t line else P

/-- A self-test starts once per unit; a further error joins its run (R415). -/
def Mach.startTest (m : Mach) (u : TestUnit) : Mach :=
  if m.tests.contains u then m else { m with tests := m.tests ++ [u] }

/-- Wear key of array a of the physical tile of a logical tile. -/
def Mach.wearKey (m : Mach) (t a : Nat) : Nat :=
  let q := m.physOf t
  ((q.1 * 180 + q.2.1) * 164 + q.2.2) * 64 + a

/-- One signal of tile `t` (R189, R134, R135, R412, R415). -/
def Mach.sig (m : Mach) (t : Nat) : Sig → Mach
  | .exc c line => match m.owner t with
    | some p => m.modPart p.val fun P => if (m.tile t).member then (m.blameLine t line P).noteExc t true c line else P.noteExc t false c line
    | none => m
  | .evt f => match m.owner t with
    | some p => m.modPart p.val fun P => P.evt f
    | none => m
  | .count f n => match m.owner t with
    | some p => m.modPart p.val fun P => P.cnt f n
    | none => m
  | .ueTurn line => match m.owner t with
    | some p => if (m.tile t).member then m.modPart p.val fun P => (m.blameLine t line P).callAbandon t line else m
    | none => m
  | .blame us => match m.owner t with
    | some p => if (m.tile t).member then m.modPart p.val fun P => P.blame (m.blamed t us) else m
    | none => m
  | .test u => m.startTest u
  | .free => { m with ctr := m.ctr + 1 }
  | .send p => { m with flight := m.flight ++ [{ p with id := m.nextPkt }], nextPkt := m.nextPkt + 1 }
  | .prof code n => match m.owner t with
    | some p => m.modPart p.val fun P => P.profile (some t) code n
    | none => m
  | .forced a => match m.owner t with
    | some p => m.modPart p.val fun P =>
        if P.forced.contains (t, a) then P else { P with forced := P.forced ++ [(t, a)] }
    | none => m
  | .loaderEnd _ _ => m
  | .cycles arrs =>
    { m with wear := { m.wear with
        cycles := arrs.foldl (fun c a => Map.modify 0 c (m.wearKey t a) (· + 1)) m.wear.cycles } }

def Mach.sigs (m : Mach) (t : Nat) (ss : List Sig) : Mach := ss.foldl (fun m s => m.sig t s) m

/-- A tile takes a step, and its signals take effect. -/
def Mach.act (m : Mach) (t : Nat) (f : Tile → TRes) : Mach :=
  (m.setTile t (f (m.tile t)).1).sigs t (f (m.tile t)).2

/-- The lines of a tile that are under test (R415). -/
def Mach.testing (m : Mach) (t line : Nat) : Bool := m.tests.contains (.line t line)

/-- A local engine waits for a line under test as on a tag. -/
def Mach.testingAny (m : Mach) (t : Nat) (lines : List Nat) : Bool := lines.any fun l => m.testing t l

end Sys2Proof.Machine
end

