-- ==== Sys2Proof/Machine/Flags.lean ====
section
/-! DEFINITION. Sync flags, beats, turns and fences of a tile (R184 to R188), and the completion queue (R180). -/
namespace Sys2Proof.Machine

/-- A use of flag f is allowed: allocated in the turn, or COMPAT_G1 (R185, R193). -/
def Tile.flagOk (T : Tile) (compat : Bool) (f : Nat) : Bool := compat || T.allocated f

/-- A flag instruction that needs its flag allocated. -/
def flagOp (t : TileId) (regs : List Nat) (f : FlagNo) (body : Tile → TRes) : State → Host.Outcome State Fault Refusal :=
  lift fun m => m.act t.val fun T => T.issue t.val regs fun T =>
    if T.flagOk (m.ownerPart t.val).compat f.val then body T
    else T.raiseAt .flagUnalloc (BitVec.ofNat 64 f.val)

/-- FALLOC (R184); with COMPAT_G1 it acts as FCLR. -/
def execFalloc (t : TileId) (f : FlagNo) (s : State) : Host.Outcome State Fault Refusal :=
  lift (fun m => m.act t.val fun T => T.issue t.val [] fun T =>
    let T' := if (m.ownerPart t.val).compat then T else T.setAlloc f.val
    ((T'.setFlag f.val false).advance, [])) s
/-- FSET (R184). -/
def execFset (t : TileId) (f : FlagNo) (s : State) : Host.Outcome State Fault Refusal :=
  flagOp t [] f (fun T => ((T.setFlag f.val true).advance, [])) s
/-- FCLR (R184). -/
def execFclr (t : TileId) (f : FlagNo) (s : State) : Host.Outcome State Fault Refusal :=
  flagOp t [] f (fun T => ((T.setFlag f.val false).advance, [])) s
/-- FWAIT (R184). -/
def execFwait (t : TileId) (f : FlagNo) (s : State) : Host.Outcome State Fault Refusal :=
  flagOp t [] f (fun T => if T.flagSet f.val then (T.advance, []) else (T, [])) s
/-- FWAITC (R184). -/
def execFwaitc (t : TileId) (f : FlagNo) (s : State) : Host.Outcome State Fault Refusal :=
  flagOp t [] f (fun T => if T.flagSet f.val then ((T.setFlag f.val false).advance, []) else (T, [])) s
/-- FTEST (R184). -/
def execFtest (t : TileId) (d : RegNo) (f : FlagNo) (s : State) : Host.Outcome State Fault Refusal :=
  flagOp t [d.val] f (fun T => ((T.setX d.val (if T.flagSet f.val then 1 else 0)).advance, [])) s

/-- BEAT (R186): issues, waits until BEAT_NOW is at least k, then arms BEAT_DUE at k + d or disarms it. A deadline above 65,535 is never
due, and BEAT_DUE shows its low 16 bits (log entry 86). -/
def execBeat (t : TileId) (k : W16) (d : Byte) (s : State) : Host.Outcome State Fault Refusal :=
  lift (fun m => m.act t.val fun T => T.issue t.val [] fun T =>
    if T.lastBeat.any fun l => decide (k.toNat < l) then T.raiseAt .beatOrder (BitVec.ofNat 64 k.toNat)
    else if (m.ownerPart t.val).beatNow < k.toNat then
      ({ T with lastBeat := some k.toNat, beatWait := true }, [])
    else
      let due := if d = 0 then none else some (k.toNat + d.toNat)
      (Tile.advance { T with lastBeat := some k.toNat, beatWait := false, beatDue := due }, [])) s

/-- TURN (R187): the core waits for the partition's next turn boundary, which completes it. -/
def execTurn (t : TileId) (d : Byte) (s : State) : Host.Outcome State Fault Refusal :=
  lift (fun m => m.act t.val fun T => T.issue t.val [] fun T =>
    ({ T with run := .inTurn, turnD := d.toNat }, [])) s

/-- The tile's core has an array command that is not completed. -/
def Tile.arrayBusy (T : Tile) : Bool := T.aq.any fun c => match c.by_ with | .core _ => true | _ => false

/-- FENCE (R188). -/
def execFence (t : TileId) (engines : BitVec 4) (s : State) : Host.Outcome State Fault Refusal :=
  lift (fun m => m.act t.val fun T => T.issue t.val [] fun T =>
    if (engines.getLsbD 0 && !T.vq.isEmpty) || (engines.getLsbD 1 && !T.kq.isEmpty)
        || (engines.getLsbD 2 && T.arrayBusy) || (engines.getLsbD 3 && !T.mq.isEmpty) then (T, [])
    else (T.advance, [])) s

/-- A completion word is pushed; the oldest is discarded from a full queue (R180). -/
def Tile.pushCq (T : Tile) (w : W32) : Tile :=
  if T.cq.length < 16 then { T with cq := T.cq ++ [w] } else { T with cq := T.cq.drop 1 ++ [w], cqLost := true }

/-- ACQ (R180): n is any register. -/
def execAcq (t : TileId) (n : RegNo) (s : State) : Host.Outcome State Fault Refusal :=
  lift (fun m => m.act t.val fun T => T.issue t.val [n.val] fun T =>
    match T.cq with
    | [] => ((T.setX n.val (BitVec.allOnes 64)).advance, [])
    | w :: ws => (({ T with cq := ws }.setX n.val (w.setWidth 64)).advance, [])) s

end Sys2Proof.Machine
end

