-- ==== Sys2Proof/Machine/Float.lean ====
section
/-! DEFINITION. Floating-point values and their rounding (R125, R129, R170, R172): every operation is computed exactly on
dyadic numbers and rounded once, to nearest even, with subnormals kept and every NaN returned as the canonical quiet NaN. -/
namespace Sys2Proof.Machine

/-- A floating-point format: stored mantissa bits, exponent bias, total width, and the OCP E4M3 case (no infinity). -/
structure FFmt where
  mant : Nat
  bias : Nat
  width : Nat
  e4m3 : Bool
deriving DecidableEq, Repr, Inhabited

def fmt32 : FFmt := ⟨23, 127, 32, false⟩
def fmtBf16 : FFmt := ⟨7, 127, 16, false⟩
def fmtE4m3 : FFmt := ⟨3, 7, 8, true⟩
def fmtE5m2 : FFmt := ⟨2, 15, 8, false⟩

/-- A decoded value: NaN, an infinity, or (−1)^neg × m × 2^e. -/
inductive FVal where
  | nan
  | inf (neg : Bool)
  | fin (neg : Bool) (m : Nat) (e : Int)
deriving DecidableEq, Repr, Inhabited

/-- Exponent of the last place of a subnormal. -/
def FFmt.emin (f : FFmt) : Int := 1 - (f.bias : Int) - (f.mant : Int)
/-- The exponent field of all ones, in place. -/
def FFmt.top (f : FFmt) : Nat := 2 ^ (f.width - 1) - 2 ^ f.mant
/-- Magnitude bits of the largest finite value. -/
def FFmt.maxBits (f : FFmt) : Nat := if f.e4m3 then 0x7E else f.top - 1
/-- The canonical quiet NaN. PRESUMED, log entry 8: sign clear, top mantissa bit alone; for E4M3 its one NaN. -/
def FFmt.nanBits (f : FFmt) : Nat := if f.e4m3 then 0x7F else f.top + 2 ^ (f.mant - 1)
def FFmt.signBit (f : FFmt) (neg : Bool) : Nat := if neg then 2 ^ (f.width - 1) else 0

def FVal.decode (f : FFmt) (bits : Nat) : FVal :=
  let neg := decide (bits % 2 ^ f.width ≥ 2 ^ (f.width - 1))
  let mag := bits % 2 ^ (f.width - 1)
  let frac := mag % 2 ^ f.mant
  let ex := mag / 2 ^ f.mant
  if f.e4m3 && mag == 0x7F then .nan
  else if !f.e4m3 && decide (mag > f.top) then .nan
  else if !f.e4m3 && mag == f.top then .inf neg
  else if ex = 0 then .fin neg frac f.emin
  else .fin neg (2 ^ f.mant + frac) (f.emin + ((ex : Int) - 1))

/-- m × 2^(−sh), rounded to nearest even. -/
def rneShift (m sh : Nat) : Nat :=
  let q := m / 2 ^ sh
  let r := m % 2 ^ sh
  if 2 * r > 2 ^ sh ∨ (2 * r = 2 ^ sh ∧ q % 2 = 1) then q + 1 else q

/-- Magnitude bits of m × 2^e rounded to nearest even with unbounded exponent range above. -/
def FFmt.roundMag (f : FFmt) (m : Nat) (e : Int) : Nat :=
  if m = 0 then 0
  else
    let q := max (e + (Nat.log2 m : Int) - (f.mant : Int)) f.emin
    let n := if q ≤ e then m * 2 ^ (e - q).toNat else rneShift m (q - e).toNat
    (q - f.emin).toNat * 2 ^ f.mant + n

/-- How a conversion treats a value that rounds past the largest finite one. -/
inductive Overflow where
  | toInf
  | saturate
deriving DecidableEq, Repr, Inhabited

/-- Bits of a value in a format, rounded once to nearest even. -/
def FVal.encode (f : FFmt) (ov : Overflow) : FVal → Nat
  | .nan => f.nanBits
  | .inf neg => f.signBit neg + (if f.e4m3 || ov == .saturate then f.maxBits else f.top)
  | .fin neg m e =>
    let mag := f.roundMag m e
    f.signBit neg +
      (if mag ≤ f.maxBits then mag else if f.e4m3 || ov == .saturate then f.maxBits else f.top)

def FVal.neg : FVal → FVal
  | .nan => .nan
  | .inf n => .inf (!n)
  | .fin n m e => .fin (!n) m e

def FVal.abs : FVal → FVal
  | .nan => .nan
  | .inf _ => .inf false
  | .fin _ m e => .fin false m e

/-- Exact sum; an exact zero is +0 unless both operands are −0. -/
def FVal.add : FVal → FVal → FVal
  | .nan, _ => .nan
  | _, .nan => .nan
  | .inf a, .inf b => if a = b then .inf a else .nan
  | .inf a, _ => .inf a
  | _, .inf b => .inf b
  | .fin n1 m1 e1, .fin n2 m2 e2 =>
    let e := min e1 e2
    let a : Int := (m1 : Int) * 2 ^ (e1 - e).toNat
    let b : Int := (m2 : Int) * 2 ^ (e2 - e).toNat
    let s := (if n1 then -a else a) + (if n2 then -b else b)
    if s = 0 then .fin (n1 && n2) 0 e else .fin (decide (s < 0)) s.natAbs e

/-- Exact product. -/
def FVal.mul : FVal → FVal → FVal
  | .nan, _ => .nan
  | _, .nan => .nan
  | .inf a, .inf b => .inf (a != b)
  | .inf a, .fin n m _ => if m = 0 then .nan else .inf (a != n)
  | .fin n m _, .inf b => if m = 0 then .nan else .inf (n != b)
  | .fin n1 m1 e1, .fin n2 m2 e2 => .fin (n1 != n2) (m1 * m2) (e1 + e2)

/-- The number as a multiple of 2^e, for comparisons. -/
def FVal.scaled (n : Bool) (m : Nat) (k : Nat) : Int :=
  let a : Int := (m : Int) * 2 ^ k
  if n then -a else a

/-- a < b as numbers; false if either is NaN. -/
def FVal.lt : FVal → FVal → Bool
  | .nan, _ => false
  | _, .nan => false
  | .inf a, .inf b => a && !b
  | .inf a, _ => a
  | _, .inf b => !b
  | .fin n1 m1 e1, .fin n2 m2 e2 =>
    let e := min e1 e2
    decide (FVal.scaled n1 m1 (e1 - e).toNat < FVal.scaled n2 m2 (e2 - e).toNat)

/-- a = b as numbers: zeros are equal, NaN is equal to nothing. -/
def FVal.eq (a b : FVal) : Bool :=
  match a, b with
  | .nan, _ => false
  | _, .nan => false
  | _, _ => !FVal.lt a b && !FVal.lt b a

def FVal.sign : FVal → Bool
  | .nan => false
  | .inf n => n
  | .fin n _ _ => n

/-- minimum of IEEE 754-2019: NaN if either is, −0 below +0 (R171). -/
def FVal.min (a b : FVal) : FVal :=
  match a, b with
  | .nan, _ => .nan
  | _, .nan => .nan
  | _, _ => if FVal.lt a b then a else if FVal.lt b a then b else if a.sign then a else b

/-- maximum of IEEE 754-2019. -/
def FVal.max (a b : FVal) : FVal :=
  match a, b with
  | .nan, _ => .nan
  | _, .nan => .nan
  | _, _ => if FVal.lt b a then a else if FVal.lt a b then b else if a.sign then b else a

/-- An integer as a value. -/
def FVal.ofInt (i : Int) : FVal := .fin (decide (i < 0)) i.natAbs 0

/-- Saturation to a signed width. -/
def satInt (w : Nat) (i : Int) : Int :=
  Min.min (Max.max i (-(2 ^ (w - 1) : Nat))) ((2 ^ (w - 1) : Nat) - 1)

/-- Conversion to a signed integer of width w: to nearest even, saturating, NaN to 0 (R172). -/
def FVal.toInt (w : Nat) : FVal → Int
  | .nan => 0
  | .inf n => if n then -(2 ^ (w - 1) : Nat) else (2 ^ (w - 1) : Nat) - 1
  | .fin n m e =>
    let a : Int := if 0 ≤ e then (m : Int) * 2 ^ e.toNat else (rneShift m (-e).toNat : Nat)
    satInt w (if n then -a else a)

/-- Rounded FP32 and BF16 arithmetic on bits. -/
def FFmt.add (f : FFmt) (a b : Nat) : Nat := ((FVal.decode f a).add (FVal.decode f b)).encode f .toInf
def FFmt.sub (f : FFmt) (a b : Nat) : Nat := ((FVal.decode f a).add (FVal.decode f b).neg).encode f .toInf
def FFmt.mul (f : FFmt) (a b : Nat) : Nat := ((FVal.decode f a).mul (FVal.decode f b)).encode f .toInf
/-- c + a × b with one rounding. -/
def FFmt.fma (f : FFmt) (c a b : Nat) : Nat :=
  (((FVal.decode f a).mul (FVal.decode f b)).add (FVal.decode f c)).encode f .toInf

/-- FP32 sum on words (R129, R173, R213). -/
def addF32 (a b : W32) : W32 := BitVec.ofNat 32 (fmt32.add a.toNat b.toNat)

/-! ### Special functions (R125)

Each is a fixed function of its input bits within 2 ulp of the correctly rounded value: an opaque function of the input, held within
two steps of the value rounded to nearest even. NaN, infinite and zero results are the IEEE 754 default ones (R170). Log entry 9. -/

/-- Square root of n, rounded down, from its bits below 2^k. -/
def isqrtFrom (n : Nat) : Nat → Nat → Nat
  | 0, r => r
  | k + 1, r => isqrtFrom n k (if (r + 2 ^ k) * (r + 2 ^ k) ≤ n then r + 2 ^ k else r)

/-- a / b with 100 more bits and a last bit that says whether a remainder was dropped: a / b = (this) × 2^(−101), rounded. -/
def stickyDiv (a b : Nat) : Nat := 2 * (a * 2 ^ 100 / b) + (if a * 2 ^ 100 % b = 0 then 0 else 1)

/-- 2^(f / 2^200) in units of 2^(−200): the product of the roots of two that the bits of f select. -/
def exp2Frac : Nat → Nat → Nat → Nat → Nat
  | 0, _, _, acc => acc
  | k + 1, root, f, acc =>
    let r := isqrtFrom (root * 2 ^ 200) 202 0
    let on := decide (2 ^ 199 ≤ f)
    exp2Frac k r ((if on then f - 2 ^ 199 else f) * 2) (if on then acc * r / 2 ^ 200 else acc)

/-- The first k bits of the logarithm of y / 2^300, for 1 ≤ y / 2^300 < 2, by repeated squaring. -/
def log2Frac : Nat → Nat → Nat → Nat
  | 0, _, acc => acc
  | k + 1, y, acc =>
    let z := y * y / 2 ^ 300
    if 2 ^ 301 ≤ z then log2Frac k (z / 2) (2 * acc + 1) else log2Frac k z (2 * acc)

/-- 1 / x, exact but for a last bit that stands for the rest. -/
def FVal.recip : FVal → FVal
  | .nan => .nan
  | .inf n => .fin n 0 0
  | .fin n m e => if m = 0 then .inf n else .fin n (stickyDiv 1 m) (-101 - e)

/-- x / y, exact but for a last bit that stands for the rest; NaN unless both are finite and y is not zero. -/
def FVal.div : FVal → FVal → FVal
  | .fin n a e, .fin k b f => if b = 0 then .nan else .fin (n != k) (stickyDiv a b) (e - f - 101)
  | _, _ => .nan
def FFmt.div (f : FFmt) (a b : Nat) : Nat := ((FVal.decode f a).div (FVal.decode f b)).encode f .toInf

/-- 1 / √x. -/
def FVal.rsqrt : FVal → FVal
  | .nan => .nan
  | .inf n => if n then .nan else .fin false 0 0
  | .fin n m e =>
    if m = 0 then .inf n
    else if n then .nan
    else
      let odd := e % 2 = 1
      let m := if odd then 2 * m else m
      let e := if odd then e - 1 else e
      let r := isqrtFrom (2 ^ 200 / m) 101 0
      .fin false (2 * r + (if r * r * m = 2 ^ 200 then 0 else 1)) (-101 - e / 2)

/-- 2^x; beyond the exponents of any format, a number that rounds as 2^x does. -/
def FVal.exp2 : FVal → FVal
  | .nan => .nan
  | .inf n => if n then .fin false 0 0 else .inf false
  | .fin n m e =>
    let z : Int := (if n then -(m : Int) else m) * 2 ^ (e + 200).toNat
    let i := z / 2 ^ 200
    let f := (z % 2 ^ 200).toNat
    if 1024 ≤ i then .fin false 1 1024
    else if i < -1024 then .fin false 1 (-1024)
    else .fin false (2 * exp2Frac 200 (2 ^ 201) f (2 ^ 200) + (if f = 0 then 0 else 1)) (i - 201)

/-- The logarithm of x to base 2. -/
def FVal.log2 : FVal → FVal
  | .nan => .nan
  | .inf n => if n then .nan else .inf false
  | .fin n m e =>
    if m = 0 then .inf true
    else if n then .nan
    else
      let l := Nat.log2 m
      let y := m * 2 ^ 300 / 2 ^ l
      let z : Int := 2 * ((e + l) * 2 ^ 128 + (log2Frac 128 y 0 : Nat)) + (if y = 2 ^ 300 then 0 else 1)
      .fin (decide (z < 0)) z.natAbs (-129)

/-- Place of a number of a format in rising order, both zeros at 0, and the bits at a place. -/
def FFmt.rank (f : FFmt) (bits : Nat) : Int :=
  let mag : Nat := bits % 2 ^ (f.width - 1)
  if 2 ^ (f.width - 1) ≤ bits then -(mag : Int) else mag
def FFmt.atRank (f : FFmt) (i : Int) : Nat := f.signBit (decide (i < 0)) + Min.min i.natAbs f.top

/-- R125: the fixed function's bits, held within 2 ulp of the correctly rounded value where that is of a finite number other than
zero; otherwise the exact result. -/
def FFmt.special (f : FFmt) (exact : FVal → FVal) (free : W32 → W32) (a : Nat) : Nat :=
  let x := exact (FVal.decode f a)
  let c := f.rank (x.encode f .toInf)
  match x with
  | .fin _ (_ + 1) _ => f.atRank (Max.max (c - 2) (Min.min (c + 2) (f.rank (free (BitVec.ofNat 32 a)).toNat)))
  | _ => x.encode f .toInf

/-- The special functions on FP32 bits. -/
def fexp2 (a : Nat) : Nat := fmt32.special FVal.exp2 Config.exp2 a
def flog2 (a : Nat) : Nat := fmt32.special FVal.log2 Config.log2 a
def frecip (a : Nat) : Nat := fmt32.special FVal.recip Config.recip a
def frsqrt (a : Nat) : Nat := fmt32.special FVal.rsqrt Config.rsqrt a

end Sys2Proof.Machine
end

