-- ==== Sys2Proof/Machine/Vector.lean ====
section
/-! DEFINITION. The vector unit (R122, R125, R126, R170 to R174): instructions enter its queue at issue, and VECTOR_EXECUTE performs
the one at the front. -/
namespace Sys2Proof

/-! ### Types and functions -/

def VType.code : VType → Nat
  | .int8 => 0 | .int16 => 1 | .int32 => 2 | .int64 => 3 | .e4m3 => 4 | .e5m2 => 5 | .bf16 => 6 | .fp32 => 7
def VType.ofCode : Nat → VType
  | 0 => .int8 | 1 => .int16 | 2 => .int32 | 3 => .int64 | 4 => .e4m3 | 5 => .e5m2 | 6 => .bf16 | _ => .fp32
def VType.width : VType → Nat
  | .int8 => 8 | .int16 => 16 | .int32 => 32 | .int64 => 64 | .e4m3 => 8 | .e5m2 => 8 | .bf16 => 16 | .fp32 => 32
def VType.isInt : VType → Bool
  | .int8 => true | .int16 => true | .int32 => true | .int64 => true | _ => false
/-- The format of a floating-point type. -/
def VType.fmt : VType → Machine.FFmt
  | .e4m3 => Machine.fmtE4m3 | .e5m2 => Machine.fmtE5m2 | .bf16 => Machine.fmtBf16 | _ => Machine.fmt32

end Sys2Proof

namespace Sys2Proof.Machine

/-- Function numbers (R171). -/
def VFn.code : VFn → Nat
  | .add => 0x00 | .sub => 0x01 | .mul => 0x02 | .fma => 0x03 | .min => 0x04 | .max => 0x05 | .adds => 0x06
  | .abs => 0x07 | .and => 0x08 | .or => 0x09 | .xor => 0x0A | .shl => 0x0B | .shr => 0x0C | .sar => 0x0D
  | .cvt => 0x0E | .sel => 0x0F | .cmpeq => 0x10 | .cmplt => 0x11 | .cmple => 0x12 | .exp2 => 0x13
  | .log2 => 0x14 | .rcp => 0x15 | .rsq => 0x16 | .redsum => 0x17 | .redmax => 0x18 | .bcast => 0x19
  | .ext => 0x1A | .pand => 0x1B | .pnot => 0x1C
def allVFn : List VFn :=
  [.add, .sub, .mul, .fma, .min, .max, .adds, .abs, .and, .or, .xor, .shl, .shr, .sar, .cvt, .sel, .cmpeq, .cmplt,
   .cmple, .exp2, .log2, .rcp, .rsq, .redsum, .redmax, .bcast, .ext, .pand, .pnot]

/-- The types listed for a function (R171). -/
def VFn.typeOk (fn : VFn) (ty : VType) : Bool :=
  let wide := ty == .bf16 || ty == .fp32
  match fn with
  | .fma => wide
  | .adds | .and | .or | .xor | .shl | .shr | .sar | .bcast => ty.isInt
  | .cvt | .sel | .ext => true
  | .exp2 | .log2 | .rcp | .rsq => ty == .fp32
  | .redsum => ty == .int32 || ty == .fp32
  | .redmax => wide || (ty.isInt && ty != .int64)
  | .pand | .pnot => ty == .int8
  | _ => wide || ty.isInt

/-- Fields that must be zero (R171, R172). -/
def VFn.fieldsOk (fn : VFn) (vd va vb : Nat) : Bool :=
  match fn with
  | .cvt => decide (vb < 8)
  | .cmpeq | .cmplt | .cmple => decide (vd < 8)
  | .pand => decide (vd < 8) && decide (va < 8) && decide (vb < 8)
  | .pnot => decide (vd < 8) && decide (va < 8) && vb == 0
  | _ => true

def vopLegal (fn : VFn) (vd va vb : Nat) (ty : VType) : Bool := fn.typeOk ty && fn.fieldsOk vd va vb

/-! ### Elements -/

/-- Elements of w bits of a register, lowest first. -/
def elems (w v : Nat) : List Nat := (List.range (1024 / w)).map fun i => bits v (i * w) w
/-- A register from its elements. -/
def ofElems (w : Nat) : List Nat → Nat
  | [] => 0
  | e :: es => e + 2 ^ w * ofElems w es
/-- A signed element as an integer, and back with wrap. -/
def toS (w n : Nat) : Int := if 2 ^ (w - 1) ≤ n then (n : Int) - 2 ^ w else n
def ofS (w : Nat) (i : Int) : Nat := (i % (2 ^ w : Nat)).toNat

/-- Integer result of a function of two elements. -/
def intOp (fn : VFn) (w a b : Nat) : Nat :=
  match fn with
  | .add => (a + b) % 2 ^ w
  | .sub => ofS w ((a : Int) - b)
  | .mul => a * b % 2 ^ w
  | .min => if toS w a ≤ toS w b then a else b
  | .max => if toS w a ≤ toS w b then b else a
  | .adds => ofS w (satInt w (toS w a + toS w b))
  | .abs => ofS w ((toS w a).natAbs : Nat)
  | .and => a &&& b
  | .or => a ||| b
  | .xor => a ^^^ b
  | .shl => a * 2 ^ (b % w) % 2 ^ w
  | .shr => a / 2 ^ (b % w)
  | .sar => ofS w (toS w a / (2 ^ (b % w) : Nat))
  | _ => a

/-- Floating-point result of a function of the elements of vd, va and vb. -/
def fpOp (fn : VFn) (f : FFmt) (d a b : Nat) : Nat :=
  let x := FVal.decode f a
  let y := FVal.decode f b
  match fn with
  | .add => f.add a b
  | .sub => f.sub a b
  | .mul => f.mul a b
  | .fma => f.fma d a b
  | .min => (x.min y).encode f .toInf
  | .max => (x.max y).encode f .toInf
  | .abs => x.abs.encode f .toInf
  | .exp2 => fexp2 a
  | .log2 => flog2 a
  | .rcp => frecip a
  | .rsq => frsqrt a
  | _ => a

def elemOp (fn : VFn) (ty : VType) (d a b : Nat) : Nat :=
  if ty.isInt then intOp fn ty.width a b else fpOp fn ty.fmt d a b

/-- The comparison of VCMP. -/
def cmpOp (fn : VFn) (ty : VType) (a b : Nat) : Bool :=
  if ty.isInt then
    let x := toS ty.width a
    let y := toS ty.width b
    match fn with
    | .cmpeq => decide (x = y)
    | .cmplt => decide (x < y)
    | _ => decide (x ≤ y)
  else
    let x := FVal.decode ty.fmt a
    let y := FVal.decode ty.fmt b
    match fn with
    | .cmpeq => x.eq y
    | .cmplt => x.lt y
    | _ => x.lt y || x.eq y

/-- Element i of width w is active: the bit of its lowest byte. -/
def active (p : W128) (w i : Nat) : Bool := p.getLsbD (i * w / 8)

/-- Active elements from `f`, the others as they were. -/
def mergeElems (p : W128) (w : Nat) (old : List Nat) (f : Nat → Nat) : List Nat :=
  old.zipIdx.map fun e => if active p w e.2 then f e.2 else e.1

/-- Overflow of a conversion to a type (R172, R193). -/
def cvtOverflow (compat : Bool) : VType → Overflow
  | .e4m3 => .saturate
  | .e5m2 => if compat then .saturate else .toInf
  | _ => .toInf

/-- One element converted (R172). -/
def cvtElem (compat : Bool) (src dst : VType) (e : Nat) : Nat :=
  if src.isInt then
    let i := toS src.width e
    if dst.isInt then ofS dst.width (satInt dst.width i) else (FVal.ofInt i).encode dst.fmt (cvtOverflow compat dst)
  else
    let x := FVal.decode src.fmt e
    if dst.isInt then ofS dst.width (x.toInt dst.width) else x.encode dst.fmt (cvtOverflow compat dst)

/-- Adjacent sums of one level of the tree (R173). -/
def pairSums : List Nat → List Nat
  | a :: b :: l => fmt32.add a b :: pairSums l
  | l => l
/-- An FP32 sum: five levels of adjacent sums, or ascending order with COMPAT_G1 (R173, R193). -/
def sumF32 (compat : Bool) (l : List Nat) : Nat :=
  if compat then
    match l with
    | [] => 0
    | e :: es => es.foldl (fun s x => fmt32.add s x) e
  else (pairSums (pairSums (pairSums (pairSums (pairSums l))))).headD 0

/-- The lowest value of a type. -/
def lowest (ty : VType) : Nat := if ty.isInt then 2 ^ (ty.width - 1) else (FVal.inf true).encode ty.fmt .toInf

/-! ### Execution -/

/-- Functions that read vb as a vector register. -/
def VFn.readsB : VFn → Bool
  | .abs | .cvt | .exp2 | .log2 | .rcp | .rsq | .redsum | .redmax | .bcast | .ext | .pand | .pnot => false
  | _ => true
/-- A vector register of the instruction's sources carries a poison mark (R135). -/
def Tile.srcPoison (T : Tile) (fn : VFn) (vd va vb : Nat) : Bool :=
  match fn with
  | .bcast | .pand | .pnot => false
  | _ => T.vPoisoned va || (fn.readsB && T.vPoisoned vb) || (fn == .fma && T.vPoisoned vd)

/-- The new value of vd of a function whose result is a vector. -/
def vecResult (compat : Bool) (fn : VFn) (ty : VType) (p : W128) (d a b xs : Nat) (vb : Nat) : Nat :=
  let w := ty.width
  match fn with
  | .sel => ofElems w ((elems w a).zipIdx.map fun e => if active p w e.2 then e.1 else bits b (e.2 * w) w)
  | .cvt =>
    let src := VType.ofCode vb
    let n := 1024 / Nat.max w src.width
    ofElems w ((elems w d).zipIdx.map fun e =>
      if e.2 < n ∧ active p w e.2 then cvtElem compat src ty (bits a (e.2 * src.width) src.width) else e.1)
  | .redsum =>
    let l := (elems w a).zipIdx.map fun e => if active p w e.2 then e.1 else 0
    if ty.isInt then l.foldl (· + ·) 0 % 2 ^ w else sumF32 compat l
  | .redmax =>
    ((elems w a).zipIdx.filter fun e => active p w e.2).foldl (fun s e => elemOp .max ty 0 s e.1) (lowest ty)
  | .bcast => ofElems w (mergeElems p w (elems w d) fun _ => xs % 2 ^ w)
  | _ => ofElems w (mergeElems p w (elems w d) fun i =>
      elemOp fn ty (bits d (i * w) w) (bits a (i * w) w) (bits b (i * w) w))

/-- The predicate VCMP writes: every byte lane of an active element. -/
def cmpResult (fn : VFn) (ty : VType) (p : W128) (a b : Nat) : W128 :=
  let w := ty.width
  BitVec.ofNat 128 ((List.range 128).foldl (fun v i =>
    let e := i / (w / 8)
    if active p w e && cmpOp fn ty (bits a (e * w) w) (bits b (e * w) w) then v + 2 ^ i else v) 0)

/-- The first poisoned source of VEXT or VCMP. -/
def poisonedSource (T : Tile) (va vb : Nat) : Nat := if T.vPoisoned va then va else vb

/-- UE_LOCAL of a VEXT or VCMP: the vector unit performs nothing after it (R171). -/
def Tile.vectorUe (T : Tile) (pc src : Nat) : TRes :=
  let ids := T.vq.filterMap fun e => match e with
    | .mem _ id _ _ _ _ _ _ => some id
    | _ => none
  let T := { T with vq := [], sb := T.sb.filter fun r => !ids.contains r.owner }
  T.raise .ueLocal pc (BitVec.ofNat 64 (2 ^ 63 + src))

/-- An arithmetic entry performed; it has left the queue. -/
def Tile.execOp (T : Tile) (compat : Bool) (pc : Nat) (fn : VFn) (vd va vb pg : Nat) (ty : VType) (xs : W64) : TRes :=
  let p := T.getP pg
  let a := (T.getV va).toNat
  let b := (T.getV vb).toNat
  match fn with
  | .cmpeq | .cmplt | .cmple =>
    if T.vPoisoned va || T.vPoisoned vb then T.vectorUe pc (poisonedSource T va vb)
    else (T.setP vd (cmpResult fn ty p a b), [])
  | .pand => (T.setP vd (T.getP va &&& T.getP vb &&& p), [])
  | .pnot => (T.setP vd (~~~(T.getP va) &&& p), [])
  | .ext =>
    if T.vPoisoned va then T.vectorUe pc va
    else
      let w := ty.width
      let e := bits a (xs.toNat % (1024 / w) * w) w
      (T.setX vd (if ty.isInt then BitVec.ofInt 64 (toS w e) else BitVec.ofNat 64 e), [])
  | _ =>
    let v := vecResult compat fn ty p (T.getV vd).toNat a b xs.toNat vb
    let whole := match fn with
      | .sel | .redsum | .redmax => true
      | .cvt => decide (ty.width ≥ (VType.ofCode vb).width) && p == BitVec.allOnes 128
      | _ => p == BitVec.allOnes 128
    (T.setV vd (BitVec.ofNat 1024 v) (T.srcPoison fn vd va vb || (!whole && T.vPoisoned vd)), [])

/-- The 128 bytes of a register, and back. -/
def vBytes (v : W1024) : List Byte := leBytes 128 v.toNat
def ofVBytes (bs : List Byte) : W1024 := BitVec.ofNat 1024 (leNat bs)

/-- One line read by the vector unit. -/
def Tile.vReadLine (T : Tile) (t line : Nat) : Tile × List Sig × List Byte × Bool :=
  let q := T.senseLine t line
  (q.1, if q.2.2 then q.2.1 ++ [.ueTurn (some line)] else q.2.1, q.1.readBytes (64 * line) 64, q.2.2)

/-- A memory entry performed as far as tags allow, one line at a time (R142). The second part says whether it has ended; an
entry that waits keeps its place with its progress. -/
def Tile.execMem (T : Tile) (t pc id : Nat) (kind : VmKind) (v : RegNo) (addr lines : Nat) (low : List Byte) (bad : Bool)
    (rest : List VEntry) : TRes :=
  let l0 := addr / 64
  let data := vBytes (T.getV v.val)
  let waits := fun (n : Nat) (low : List Byte) (bad : Bool) (T : Tile) =>
    { T with vq := VEntry.mem pc id kind v addr n low bad :: rest }
  let ends := fun (T : Tile) => Tile.sbRetire { T with vq := rest } id
  match kind with
  | .ld =>
    let a := T.vReadLine t l0
    let b := a.1.vReadLine t (l0 + 1)
    (ends (b.1.setV v.val (ofVBytes (a.2.2.1 ++ b.2.2.1)) (a.2.2.2 || b.2.2.2)), a.2.1 ++ b.2.1)
  | .st => (ends ((T.storeLine l0 (data.take 64) (T.vPoisoned v.val)).storeLine (l0 + 1) (data.drop 64)
      (T.vPoisoned v.val)), [])
  | .tagset => (ends ((T.setTag l0 true).setTag (l0 + 1) true), [])
  | .tagclr => (ends ((T.setTag l0 false).setTag (l0 + 1) false), [])
  | .stf =>
    let T1 := if lines = 0 ∧ !T.tagFull l0 then (T.storeLine l0 (data.take 64) (T.vPoisoned v.val)).setTag l0 true else T
    let n := if lines = 0 ∧ !T.tagFull l0 then 1 else lines
    if n = 0 then (T, [])
    else if T1.tagFull (l0 + 1) then (waits 1 low bad T1, [])
    else (ends ((T1.storeLine (l0 + 1) (data.drop 64) (T.vPoisoned v.val)).setTag (l0 + 1) true), [])
  | _ =>
    let keep := kind == .ldtk
    if lines = 0 ∧ !T.tagFull l0 then (T, [])
    else
      let a := if lines = 0 then T.vReadLine t l0 else (T, [], low, bad)
      let T1 := if lines = 0 ∧ !keep then a.1.setTag l0 false else a.1
      if !T1.tagFull (l0 + 1) then (waits 1 a.2.2.1 a.2.2.2 T1, a.2.1)
      else
        let b := T1.vReadLine t (l0 + 1)
        let T2 := if keep then b.1 else b.1.setTag (l0 + 1) false
        (ends (T2.setV v.val (ofVBytes (a.2.2.1 ++ b.2.2.1)) (a.2.2.2 || b.2.2.2)), a.2.1 ++ b.2.1)

/-- A bank of the entry waits for a wake-up or for its zeroing (R147, R149), or a line of it is under test. -/
def Mach.vWaits (m : Mach) (t : Nat) (T : Tile) (addr : Nat) : Bool :=
  let k := T.bankAt addr
  (k.changing && !k.held) || k.scrub || m.testingAny t [addr / 64, addr / 64 + 1]

/-- VECTOR_EXECUTE (R171, R174). -/
def execVectorExecute (t : TileId) (s : State) : Host.Outcome State Fault Refusal :=
  lift (fun m => m.act t.val fun T =>
    match T.vq with
    | [] => (T, [])
    | .op pc fn vd va vb pg ty xs :: rest =>
      Tile.execOp { T with vq := rest } (m.ownerPart t.val).compat pc fn vd.val va.val vb.val pg.val ty xs
    | .mem pc id kind v addr lines low bad :: rest =>
      if m.vWaits t.val T addr then (T, [])
      else
        let r := T.execMem t.val pc id kind v addr lines low bad rest
        -- a tagged access that waits in an abandoned turn ends without writing anything further (R239)
        if T.run = .abandoned && r.1.vq.length == T.vq.length then (Tile.sbRetire { r.1 with vq := rest } id, r.2) else r) s

/-! ### Issue -/

/-- The queue of the vector unit has 16 entries (R122). -/
def vqFull (T : Tile) : Bool := decide (16 ≤ T.vq.length)

/-- A V-format instruction: a reserved type or field is ILLEGAL; a full queue stalls. Scalar operands are read at issue. -/
def vop (fn : VFn) (t : TileId) (vd va vb : RegNo) (pg : Fin 8) (ty : VType) : State → Host.Outcome State Fault Refusal :=
  lift fun m => m.act t.val fun T =>
    T.issue t.val (match fn with | .bcast => [va.val] | .ext => [vd.val, vb.val] | _ => []) fun T =>
      if !vopLegal fn vd.val va.val vb.val ty then
        T.raiseAt .illegal (encV vd.val va.val vb.val pg.val ty.code fn.code)
      else if vqFull T then (T, [])
      else
        let xs := match fn with
          | .bcast => T.getX va.val
          | .ext => T.getX vb.val
          | _ => 0
        (Tile.advance { T with vq := T.vq ++ [VEntry.op T.pc fn vd va vb pg ty xs] }, [])

def VmKind.code : VmKind → Nat
  | .ld => 0 | .ldt => 1 | .ldtk => 2 | .st => 3 | .stf => 4 | .tagset => 5 | .tagclr => 6

/-- Ranges of a VM-format instruction in the scoreboard: tagged accesses have none (R141). -/
def vmRanges (kind : VmKind) (addr : Nat) : List LineRange :=
  match kind with
  | .ld => [lineRange addr 128 false]
  | .st => [lineRange addr 128 true]
  | _ => []

/-- A VM-format instruction (R174). -/
def vmem (kind : VmKind) (t : TileId) (v a : RegNo) (off : BitVec 13) : State → Host.Outcome State Fault Refusal :=
  lift fun m => m.act t.val fun T => T.issue t.val [a.val] fun T =>
    let addr := T.getX a.val + BitVec.ofInt 64 (128 * off.toInt)
    let n := addr.toNat
    if (kind == .tagset || kind == .tagclr) && v.val != 0 then
      T.raiseAt .illegal (encI 0x21 v.val a.val (2 ^ 13 * kind.code + off.toNat))
    else if n % 128 ≠ 0 then T.raiseAt .misalign addr
    else match T.check vectorAllow n 128 with
      | .range _ => T.raiseAt .range addr
      | .port _ => T.raiseAt .portClass addr
      | .wait => (T, [])
      | .ok =>
        if vqFull T || T.sbStall (vmRanges kind n) || m.testingAny t.val [n / 64, n / 64 + 1] then (T, [])
        else
          let T' := T.sbEnter T.nextId (vmRanges kind n)
          (Tile.advance { T' with vq := T.vq ++ [VEntry.mem T.pc T.nextId kind v n 0 [] false], nextId := T.nextId + 1 }, [])

/-- VADD (R171). -/
def execVadd (t : TileId) (vd va vb : RegNo) (pg : Fin 8) (ty : VType) (s : State) : Host.Outcome State Fault Refusal :=
  vop .add t vd va vb pg ty s
/-- VSUB (R171). -/
def execVsub (t : TileId) (vd va vb : RegNo) (pg : Fin 8) (ty : VType) (s : State) : Host.Outcome State Fault Refusal :=
  vop .sub t vd va vb pg ty s
/-- VMUL (R171). -/
def execVmul (t : TileId) (vd va vb : RegNo) (pg : Fin 8) (ty : VType) (s : State) : Host.Outcome State Fault Refusal :=
  vop .mul t vd va vb pg ty s
/-- VFMA (R171). -/
def execVfma (t : TileId) (vd va vb : RegNo) (pg : Fin 8) (ty : VType) (s : State) : Host.Outcome State Fault Refusal :=
  vop .fma t vd va vb pg ty s
/-- VMIN (R171). -/
def execVmin (t : TileId) (vd va vb : RegNo) (pg : Fin 8) (ty : VType) (s : State) : Host.Outcome State Fault Refusal :=
  vop .min t vd va vb pg ty s
/-- VMAX (R171). -/
def execVmax (t : TileId) (vd va vb : RegNo) (pg : Fin 8) (ty : VType) (s : State) : Host.Outcome State Fault Refusal :=
  vop .max t vd va vb pg ty s
/-- VADDS (R171). -/
def execVadds (t : TileId) (vd va vb : RegNo) (pg : Fin 8) (ty : VType) (s : State) : Host.Outcome State Fault Refusal :=
  vop .adds t vd va vb pg ty s
/-- VABS (R171). -/
def execVabs (t : TileId) (vd va vb : RegNo) (pg : Fin 8) (ty : VType) (s : State) : Host.Outcome State Fault Refusal :=
  vop .abs t vd va vb pg ty s
/-- VAND (R171). -/
def execVand (t : TileId) (vd va vb : RegNo) (pg : Fin 8) (ty : VType) (s : State) : Host.Outcome State Fault Refusal :=
  vop .and t vd va vb pg ty s
/-- VOR (R171). -/
def execVor (t : TileId) (vd va vb : RegNo) (pg : Fin 8) (ty : VType) (s : State) : Host.Outcome State Fault Refusal :=
  vop .or t vd va vb pg ty s
/-- VXOR (R171). -/
def execVxor (t : TileId) (vd va vb : RegNo) (pg : Fin 8) (ty : VType) (s : State) : Host.Outcome State Fault Refusal :=
  vop .xor t vd va vb pg ty s
/-- VSHL (R171). -/
def execVshl (t : TileId) (vd va vb : RegNo) (pg : Fin 8) (ty : VType) (s : State) : Host.Outcome State Fault Refusal :=
  vop .shl t vd va vb pg ty s
/-- VSHR (R171). -/
def execVshr (t : TileId) (vd va vb : RegNo) (pg : Fin 8) (ty : VType) (s : State) : Host.Outcome State Fault Refusal :=
  vop .shr t vd va vb pg ty s
/-- VSAR (R171). -/
def execVsar (t : TileId) (vd va vb : RegNo) (pg : Fin 8) (ty : VType) (s : State) : Host.Outcome State Fault Refusal :=
  vop .sar t vd va vb pg ty s
/-- VCVT (R171). -/
def execVcvt (t : TileId) (vd va vb : RegNo) (pg : Fin 8) (ty : VType) (s : State) : Host.Outcome State Fault Refusal :=
  vop .cvt t vd va vb pg ty s
/-- VSEL (R171). -/
def execVsel (t : TileId) (vd va vb : RegNo) (pg : Fin 8) (ty : VType) (s : State) : Host.Outcome State Fault Refusal :=
  vop .sel t vd va vb pg ty s
/-- VCMPEQ (R171). -/
def execVcmpeq (t : TileId) (vd va vb : RegNo) (pg : Fin 8) (ty : VType) (s : State) : Host.Outcome State Fault Refusal :=
  vop .cmpeq t vd va vb pg ty s
/-- VCMPLT (R171). -/
def execVcmplt (t : TileId) (vd va vb : RegNo) (pg : Fin 8) (ty : VType) (s : State) : Host.Outcome State Fault Refusal :=
  vop .cmplt t vd va vb pg ty s
/-- VCMPLE (R171). -/
def execVcmple (t : TileId) (vd va vb : RegNo) (pg : Fin 8) (ty : VType) (s : State) : Host.Outcome State Fault Refusal :=
  vop .cmple t vd va vb pg ty s
/-- VEXP2 (R171). -/
def execVexp2 (t : TileId) (vd va vb : RegNo) (pg : Fin 8) (ty : VType) (s : State) : Host.Outcome State Fault Refusal :=
  vop .exp2 t vd va vb pg ty s
/-- VLOG2 (R171). -/
def execVlog2 (t : TileId) (vd va vb : RegNo) (pg : Fin 8) (ty : VType) (s : State) : Host.Outcome State Fault Refusal :=
  vop .log2 t vd va vb pg ty s
/-- VRCP (R171). -/
def execVrcp (t : TileId) (vd va vb : RegNo) (pg : Fin 8) (ty : VType) (s : State) : Host.Outcome State Fault Refusal :=
  vop .rcp t vd va vb pg ty s
/-- VRSQ (R171). -/
def execVrsq (t : TileId) (vd va vb : RegNo) (pg : Fin 8) (ty : VType) (s : State) : Host.Outcome State Fault Refusal :=
  vop .rsq t vd va vb pg ty s
/-- VREDSUM (R171). -/
def execVredsum (t : TileId) (vd va vb : RegNo) (pg : Fin 8) (ty : VType) (s : State) : Host.Outcome State Fault Refusal :=
  vop .redsum t vd va vb pg ty s
/-- VREDMAX (R171). -/
def execVredmax (t : TileId) (vd va vb : RegNo) (pg : Fin 8) (ty : VType) (s : State) : Host.Outcome State Fault Refusal :=
  vop .redmax t vd va vb pg ty s
/-- VBCAST (R171). -/
def execVbcast (t : TileId) (vd va vb : RegNo) (pg : Fin 8) (ty : VType) (s : State) : Host.Outcome State Fault Refusal :=
  vop .bcast t vd va vb pg ty s
/-- VEXT (R171). -/
def execVext (t : TileId) (vd va vb : RegNo) (pg : Fin 8) (ty : VType) (s : State) : Host.Outcome State Fault Refusal :=
  vop .ext t vd va vb pg ty s
/-- VPAND (R171). -/
def execVpand (t : TileId) (vd va vb : RegNo) (pg : Fin 8) (ty : VType) (s : State) : Host.Outcome State Fault Refusal :=
  vop .pand t vd va vb pg ty s
/-- VPNOT (R171). -/
def execVpnot (t : TileId) (vd va vb : RegNo) (pg : Fin 8) (ty : VType) (s : State) : Host.Outcome State Fault Refusal :=
  vop .pnot t vd va vb pg ty s
/-- VLD (R174). -/
def execVld (t : TileId) (v a : RegNo) (off : BitVec 13) (s : State) : Host.Outcome State Fault Refusal :=
  vmem .ld t v a off s
/-- VLDT (R174). -/
def execVldt (t : TileId) (v a : RegNo) (off : BitVec 13) (s : State) : Host.Outcome State Fault Refusal :=
  vmem .ldt t v a off s
/-- VLDTK (R174). -/
def execVldtk (t : TileId) (v a : RegNo) (off : BitVec 13) (s : State) : Host.Outcome State Fault Refusal :=
  vmem .ldtk t v a off s
/-- VST (R174). -/
def execVst (t : TileId) (v a : RegNo) (off : BitVec 13) (s : State) : Host.Outcome State Fault Refusal :=
  vmem .st t v a off s
/-- VSTF (R174). -/
def execVstf (t : TileId) (v a : RegNo) (off : BitVec 13) (s : State) : Host.Outcome State Fault Refusal :=
  vmem .stf t v a off s
/-- VTAGSET (R174). -/
def execVtagset (t : TileId) (v a : RegNo) (off : BitVec 13) (s : State) : Host.Outcome State Fault Refusal :=
  vmem .tagset t v a off s
/-- VTAGCLR (R174). -/
def execVtagclr (t : TileId) (v a : RegNo) (off : BitVec 13) (s : State) : Host.Outcome State Fault Refusal :=
  vmem .tagclr t v a off s

end Sys2Proof.Machine
end

