-- ==== Sys2Proof/Machine/Kiln.lean ====
section
/-! DEFINITION. Kiln: command blocks at issue (R175 to R178, R183) and their execution in order (R127 to R129). -/
namespace Sys2Proof.Machine

/-! ### Formats -/

def kfmtA : Nat → Option KFmt
  | 0 => some .e4m3 | 1 => some .e5m2 | 2 => some .bf16 | 3 => some .int8 | _ => none
def kfmtB : Nat → Option KFmt
  | 0 => some .int8 | 1 => some .l8 | 2 => some .l4 | 3 => some .e4m3 | 4 => some .e5m2 | 5 => some .bf16 | _ => none

/-- Accumulation type of a listed pair of formats (R127). -/
def kilnPair : KFmt → KFmt → Option AccTy
  | .e4m3, b | .e5m2, b => if b == .bf16 then none else some .fp32
  | .bf16, b => if b == .e4m3 || b == .e5m2 then none else some .fp32
  | .int8, b => if b == .int8 || b == .l8 || b == .l4 then some .int32 else none
  | _, _ => none

/-- Bytes of the 16 operands of one step (R177). -/
def KFmt.size : KFmt → Nat
  | .l4 => 8 | .bf16 => 32 | _ => 16

/-- Operand i of a step's bytes as a number: integers, or a floating-point value. -/
def KFmt.operand (f : KFmt) (bs : Nat) (i : Nat) : FVal :=
  match f with
  | .int8 => FVal.ofInt (toS 8 (bits bs (8 * i) 8))
  | .l8 => FVal.ofInt (16 * ((bits bs (8 * i) 4 : Int) - 8) + bits bs (8 * i + 4) 4)
  | .l4 => FVal.ofInt ((bits bs (4 * i) 4 : Int) - 8)
  | .e4m3 => FVal.decode fmtE4m3 (bits bs (8 * i) 8)
  | .e5m2 => FVal.decode fmtE5m2 (bits bs (8 * i) 8)
  | .bf16 => FVal.decode fmtBf16 (bits bs (16 * i) 16)

/-! ### Issue -/

/-- The core tracks the type of each set from the last MUL issued to it (R177); before the first it is FP32 (log entry 87). -/
def Tile.kilnType (T : Tile) (acc : Nat) : AccTy := Map.get .fp32 T.kIssued acc

/-- A DONE_FLAG value: 0 to 255 or 0xFFFF. -/
def doneOk (v : Nat) : Bool := decide (v < 256) || v == 0xFFFF

/-- Offset of the first faulty field of a MUL block, in the order of the table of R176; a ZERO-clear MUL into a set of the other
type is a fault of ACC (DEDUCED, log entry 17). -/
def kilnMulFault (T : Tile) (b : Nat) : Option Nat :=
  let pair := (kfmtA (bits b 152 4)).bind fun a => (kfmtB (bits b 156 4)).bind fun w => kilnPair a w
  if 2 ≤ blk b 1 1 then some 1
  else if !doneOk (blk b 2 2) then some 2
  else if blk b 4 4 % 16 ≠ 0 then some 4
  else if blk b 8 4 % 8 ≠ 0 then some 8
  else if blk b 12 2 % 16 ≠ 0 ∨ blk b 12 2 < 16 ∨ 32768 < blk b 12 2 then some 12
  else if blk b 14 2 % 8 ≠ 0 ∨ blk b 14 2 < 8 ∨ 32768 < blk b 14 2 then some 14
  else if blk b 16 2 = 0 ∨ 4096 < blk b 16 2 then some 16
  else if 4 ≤ blk b 18 1 ∨ (blk b 1 1 = 0 ∧ pair.any fun ty => ty != T.kilnType (blk b 18 1)) then some 18
  else if pair.isNone then some 19
  else if blk b 20 12 ≠ 0 then some 20
  else none

/-- As `kilnMulFault`, for a STORE block (R178). -/
def kilnStoreFault (T : Tile) (b : Nat) : Option Nat :=
  if blk b 1 1 ≠ 0 then some 1
  else if !doneOk (blk b 2 2) then some 2
  else if blk b 4 4 % 128 ≠ 0 then some 4
  else if 4 ≤ blk b 8 1 then some 8
  else if 4 ≤ blk b 9 1 ∨ (blk b 9 1 ≠ 0 ∧ T.kilnType (blk b 8 1) = .int32) then some 9
  else if blk b 10 22 ≠ 0 then some 10
  else none

/-- Worse of two outcomes in the order of R191; the earlier where they are alike. -/
def Chk.worse (a b : Chk) : Chk :=
  match a, b with
  | .range x, _ => .range x
  | _, .range x => .range x
  | .port x, _ => .port x
  | _, .port x => .port x
  | .wait, _ => .wait
  | _, .wait => .wait
  | .ok, .ok => .ok

/-- The checks of the k blocks of n bytes at a stride. -/
def Tile.checkSteps (T : Tile) (addr stride n k : Nat) : Chk :=
  (List.range k).foldl (fun c s => c.worse (T.check wideAllow (addr + s * stride) n)) .ok

/-- What a command block does before its own effect: the first cause of R191 that it meets, or a stall, or nothing. -/
def Tile.blockGate (T : Tile) (compat : Bool) (done : Nat) (fault : Option Nat) (remote : Option W64) (chk : Chk)
    (stall : Bool) : Option TRes :=
  if done < 256 ∧ !T.flagOk compat done then some (T.raiseAt .flagUnalloc (BitVec.ofNat 64 done))
  else match fault with
    | some off => some (T.raiseAt .badBlock (BitVec.ofNat 64 off))
    | none => match remote with
      | some r => some (T.raiseAt .remotePart r)
      | none => match chk with
        | .range a => some (T.raiseAt .range (BitVec.ofNat 64 a))
        | .port a => some (T.raiseAt .portClass (BitVec.ofNat 64 a))
        | .wait => some (T, [])
        | .ok => if stall then some (T, []) else none

/-- The command of a MUL block. -/
def kilnMulCmd (b : Nat) : KCmd :=
  .mul (blk b 1 1 == 1) (doneOf (blk b 2 2)) (blk b 4 4) (blk b 8 4) (blk b 12 2) (blk b 14 2) (blk b 16 2)
    (Fin.ofNat 4 (blk b 18 1)) ((kfmtA (bits b 152 4)).getD .int8) ((kfmtB (bits b 156 4)).getD .int8)

/-- Line ranges of a MUL: its A and B blocks (R140). -/
def kilnMulRanges (b : Nat) : List LineRange :=
  let fa := (kfmtA (bits b 152 4)).getD .int8
  let fb := (kfmtB (bits b 156 4)).getD .int8
  [lineRange (blk b 4 4) ((blk b 16 2 - 1) * blk b 12 2 + fa.size) false,
   lineRange (blk b 8 4) ((blk b 16 2 - 1) * blk b 14 2 + fb.size) false]

/-- Lines that a command of ranges reaches are under test. -/
def Mach.testingRanges (m : Mach) (t : Nat) (rs : List LineRange) : Bool :=
  m.tests.any fun u => match u with
    | .line t' l => t' == t && rs.any fun r => decide (r.1 ≤ l) && decide (l ≤ r.2.1)
    | _ => false

/-- A command block instruction: n must name a block (R175), and the block's OP must be the row's (log entry 5). -/
def blockIssue (major : Nat) (t : TileId) (n : RegNo) (op : Nat → Bool) (body : Tile → Nat → TRes) (T : Tile) : TRes :=
  T.issue t.val [n.val, n.val + 1, n.val + 2, n.val + 3] fun T =>
    if !blockReg n.val then T.raiseAt .illegal (encC major n.val)
    else if op (blk (T.block n.val) 0 1) then body T (T.block n.val)
    else (T, [])

/-- KILN_MUL (R176, R177). -/
def execKilnMul (t : TileId) (n : RegNo) (s : State) : Host.Outcome State Fault Refusal :=
  lift (fun m => m.act t.val (blockIssue 0x28 t n (· == 1) fun T b =>
    let fa := (kfmtA (bits b 152 4)).getD .int8
    let fb := (kfmtB (bits b 156 4)).getD .int8
    let chk := (T.checkSteps (blk b 4 4) (blk b 12 2) fa.size (blk b 16 2)).worse
      (T.checkSteps (blk b 8 4) (blk b 14 2) fb.size (blk b 16 2))
    let rs := kilnMulRanges b
    match T.blockGate (m.ownerPart t.val).compat (blk b 2 2) (kilnMulFault T b) none chk
        (decide (4 ≤ T.kq.length) || T.sbStall rs || m.testingRanges t.val rs) with
    | some r => r
    | none =>
      let ty := (kilnPair fa fb).getD .fp32
      let T' := T.sbEnter T.nextId rs
      let kt := Map.set .fp32 T.kIssued (blk b 18 1) ty
      (Tile.advance { T' with kq := T.kq ++ [(T.nextId, kilnMulCmd b)], kIssued := kt, nextId := T.nextId + 1 }, []))) s

/-- Bytes of a STORE (R178). -/
def storeBytes (outFmt : Nat) : Nat := if outFmt = 0 then 1024 else if outFmt = 1 then 512 else 256

/-- KILN_STORE (R178). -/
def execKilnStore (t : TileId) (n : RegNo) (s : State) : Host.Outcome State Fault Refusal :=
  lift (fun m => m.act t.val (blockIssue 0x28 t n (· == 2) fun T b =>
    let rs := [lineRange (blk b 4 4) (storeBytes (blk b 9 1)) true]
    match T.blockGate (m.ownerPart t.val).compat (blk b 2 2) (kilnStoreFault T b) none
        (T.check wideAllow (blk b 4 4) (storeBytes (blk b 9 1)))
        (decide (4 ≤ T.kq.length) || T.sbStall rs || m.testingRanges t.val rs) with
    | some r => r
    | none =>
      let c := KCmd.store (doneOf (blk b 2 2)) (blk b 4 4) (Fin.ofNat 4 (blk b 8 1)) (Fin.ofNat 4 (blk b 9 1))
      let T' := T.sbEnter T.nextId rs
      (Tile.advance { T' with kq := T.kq ++ [(T.nextId, c)], nextId := T.nextId + 1 }, []))) s

/-! ### Execution -/

/-- One multiply-accumulate (R129). -/
def kilnMac (ty : AccTy) (c : W32) (a b : FVal) : W32 :=
  match ty with
  | .fp32 => BitVec.ofNat 32 (((a.mul b).add (FVal.decode fmt32 c.toNat)).encode fmt32 .toInf)
  | .int32 => c + BitVec.ofInt 32 (a.toInt 16 * b.toInt 16)

/-- One step: 256 multiply-accumulates, C[i][j] at 16 i + j. -/
def kilnStep (ty : AccTy) (c : Map W32) (fa fb : KFmt) (a b : Nat) : Map W32 :=
  (List.range 256).foldl (fun c n =>
    Map.set 0 c n (kilnMac ty (Map.get 0 c n) (fa.operand a (n / 16)) (fb.operand b (n % 16)))) c

/-- Lines that the steps of an operand read. -/
def stepLines (addr stride n k : Nat) : List Nat :=
  ((List.range k).flatMap fun s => linesOf (addr + s * stride) n).dedup

/-- Bytes of a converted accumulator set (R129, R178). -/
def kilnOut (compat : Bool) (outFmt : Nat) (c : Map W32) : List Byte :=
  (List.range 256).flatMap fun n =>
    let v := (Map.get 0 c n).toNat
    if outFmt = 0 then leBytes 4 v
    else if outFmt = 1 then leBytes 2 (cvtElem compat .fp32 .bf16 v)
    else if outFmt = 2 then leBytes 1 (cvtElem compat .fp32 .e4m3 v)
    else leBytes 1 (cvtElem compat .fp32 .e5m2 v)

/-- The effect of a Kiln command on the tile. -/
def Tile.kilnRun (T : Tile) (t : Nat) (compat : Bool) : KCmd → TRes
  | .mul zero done a b as bs k acc fa fb =>
    let q := T.senseLines t (stepLines a as fa.size k ++ stepLines b bs fb.size k).dedup
    let bad := (stepLines a as fa.size k ++ stepLines b bs fb.size k).filter fun l => T.found l == .bad
    let T := q.1
    let old := Map.get {} T.acc acc.val
    let ty := (kilnPair fa fb).getD .fp32
    let c0 := if zero then [] else old.c
    let c := (List.range k).foldl (fun c s =>
      kilnStep ty c fa fb (leNat (T.readBytes (a + s * as) fa.size)) (leNat (T.readBytes (b + s * bs) fb.size))) c0
    let set : AccSet := { ty := ty, poison := q.2.2 || (!zero && old.poison), c := c }
    (({ T with acc := Map.set {} T.acc acc.val set }).doneFlag done,
     q.2.1 ++ (bad.dedup.map fun l => .ueTurn (some l)) ++ [.prof 0x09 k])
  | .store done dst acc outFmt =>
    let old := Map.get {} T.acc acc.val
    let n := storeBytes outFmt.val / 64
    ((T.storeLines (dst / 64) old.poison (cutLines n (kilnOut compat outFmt.val old.c))).doneFlag done, [])

/-- KILN_COMPLETE (R176): the oldest command ends, its ranges retire and its flag is set. -/
def execKilnComplete (t : TileId) (s : State) : Host.Outcome State Fault Refusal :=
  lift (fun m => m.act t.val fun T =>
    match T.kq with
    | [] => (T, [])
    | (id, c) :: rest => (Tile.sbRetire { T with kq := rest } id).kilnRun t.val (m.ownerPart t.val).compat c) s

end Sys2Proof.Machine
end

