-- ==== Sys2Proof/Machine/Arrays.lean ====
section
/-! DEFINITION. The charge arrays and their controller: records, checks and statuses (R50 to R63), the pass (R36 to R46, R91 to
R104), and programming, erase, refresh and power (R64 to R75). -/
namespace Sys2Proof.Machine

/-! ### Records -/

def Tile.arr (T : Tile) (a : Nat) : Arr := Map.get {} T.arrs a
def Tile.modArr (T : Tile) (a : Nat) (f : Arr → Arr) : Tile := { T with arrs := Map.modify {} T.arrs a f }
/-- An array whose levels are gone: EMPTY, every cell at level 0, stuck-cell table empty (R68, R69, R538). -/
def Arr.erased (A : Arr) : Arr :=
  { A with content := .empty, rows := [], stuck := [], refreshLate := false, rowTime := [], retryRows := [], w8 := false,
           suspect := false, calStep := none }
/-- POWER to OFF is for content EMPTY or UNKNOWN (R75): any other array is left in STANDBY (log entry 77). -/
def Arr.switchedOff (A : Arr) : Arr :=
  if A.content == .empty || A.content == .unknown then { A with power := .off }
  else if A.power == .active then { A with power := .standby } else A
/-- An ERASE of an array (R68, R69): verified, or FAILED when charge is left after both attempts; the array is due for calibration
(R88). -/
def Arr.eraseDone (A : Arr) (now : Nat) (fails : Bool) : Arr :=
  let E := { A.erased with calDue := some now, calEscalated := false }
  if fails then { E with content := .failed, rows := A.rows } else E

/-- The record of a command as one number. -/
def ACmd.rec_ (c : ACmd) : Nat := leNat c.record
def ACmd.op (c : ACmd) : Nat := blk c.rec_ 0 1
def ACmd.flag (c : ACmd) (i : Nat) : Bool := bits c.rec_ (8 + i) 1 == 1
def ACmd.done (c : ACmd) : Option FlagNo := doneOf (blk c.rec_ 2 2)
/-- Arrays of a mask, ascending. -/
def maskArrs (mask : Nat) : List Nat := (List.range 64).filter fun a => bits mask a 1 == 1
def ACmd.mask (c : ACmd) : Nat := blk c.rec_ 4 8
/-- The arrays a command names (R50). -/
def ACmd.names (c : ACmd) : List Nat :=
  if c.op = 1 ∨ (3 ≤ c.op ∧ c.op ≤ 6) then maskArrs c.mask
  else if c.op = 2 then [blk c.rec_ 4 1]
  else []
def ACmd.fromCore (c : ACmd) : Bool := match c.by_ with | .core _ => true | _ => false
def ACmd.ended (c : ACmd) : Bool := match c.stage with | .ended _ => true | _ => false
/-- Ends with a status: reported by ARRAY_CMD_COMPLETE. -/
def ACmd.endWith (c : ACmd) (st : Nat) : ACmd := { c with stage := .ended st, status := st }

/-- Statuses of R54. -/
def stOk : Nat := 0
def stOkSat : Nat := 1
def stState : Nat := 2
def stFmt : Nat := 3
def stRange : Nat := 4
def stPort : Nat := 5
def stCheck : Nat := 6
def stUe : Nat := 7
def stProgFail : Nat := 8
def stBadCmd : Nat := 9

/-- A field of the record is reserved or out of range (R54, R56, R57, R61, R63, R72). -/
def badFields (b : Nat) : Bool :=
  let op := blk b 0 1
  let fl := blk b 1 1
  let rowsOk := fun (first count : Nat) => decide (1 ≤ count) && decide (first + count ≤ 512)
  !doneOk (blk b 2 2) ||
  match op with
  | 1 => decide (64 ≤ fl) || blk b 4 8 == 0 || !(decide (1 ≤ blk b 24 1) && decide (blk b 24 1 ≤ 8))
      || decide (31 < blk b 25 1) || (bits b 12 1 == 0 && blk b 25 1 != 0) || blk b 26 6 != 0
  | 2 => decide (4 ≤ fl) || decide (64 ≤ blk b 4 1) || blk b 5 1 != 0 || !rowsOk (blk b 6 2) (blk b 8 2) || blk b 10 2 != 0
      || blk b 20 12 != 0
  | 3 => decide (4 ≤ fl) || blk b 4 8 == 0 || !(decide (1 ≤ blk b 16 2) && decide (blk b 16 2 ≤ 512))
      || (bits b 8 1 == 0 && blk b 16 2 != 512) || decide (63 < blk b 18 1) || blk b 19 1 != 0 || decide (1024 < blk b 20 2)
      || blk b 22 2 != 0 || blk b 28 4 != 0
  | 4 => fl != 0 || blk b 4 8 == 0 || !rowsOk (blk b 12 2) (blk b 14 2) || blk b 16 16 != 0
  | 5 => fl != 0 || blk b 4 8 == 0 || blk b 12 20 != 0
  | 6 => decide (3 ≤ fl) || blk b 4 8 == 0 || blk b 12 20 != 0
  | 7 => fl != 0 || blk b 4 12 != 0 || blk b 20 12 != 0
  | _ => true

def arrayAllow : PortClass → Bool
  | .array => true
  | _ => false
def readAllow : PortClass → Bool
  | .array => true
  | .wide => true
  | _ => false
def progAllow : PortClass → Bool
  | .array => true
  | .mortar => true
  | _ => false

/-- A range with its alignment (R54, R55): some status, or none where the access is allowed; `wait` for a bank that wakes. -/
inductive Gate where
  | ok
  | wait
  | fail (st : Nat)
deriving DecidableEq, Repr, Inhabited

def Tile.gate (T : Tile) (allow : PortClass → Bool) (align addr n : Nat) : Gate :=
  if addr % align ≠ 0 then .fail stRange
  else match T.check allow addr (Nat.max n 1) with
    | .ok => .ok
    | .wait => .wait
    | .range _ => .fail stRange
    | .port _ => .fail stPort
def Gate.and (a b : Gate) : Gate :=
  match a with
  | .fail s => .fail s
  | .ok => b
  | .wait => match b with
    | .fail s => .fail s
    | _ => .wait

/-! ### Scoreboard ranges (R140, R141) -/

/-- A range clipped at the top of the scratchpad. -/
def clipRange (addr n : Nat) (write : Bool) : List LineRange :=
  if n = 0 ∨ padSize ≤ addr then [] else [(addr / 64, (Nat.min (addr + n) padSize - 1) / 64, write)]

/-- Blocks of a pass (R57), ascending. -/
def passBlocks (b : Nat) : List Nat :=
  let arrs := maskArrs (blk b 4 8)
  if bits b 11 1 = 1 then (List.range 8).filter fun j => arrs.any fun a => a % 8 == j else arrs
/-- Bytes of an output block (R49). -/
def blockBytes (w8 out16 : Bool) : Nat := (if w8 then 1024 else 2048) / (if out16 then 2 else 1)

def cmdRanges (b : Nat) : List LineRange :=
  let m := (maskArrs (blk b 4 8)).length
  match blk b 0 1 with
  | 1 =>
    let n := (passBlocks b).foldl Nat.max 0 + 1
    (if bits b 8 1 = 1 then [] else clipRange (blk b 12 4) (512 * blk b 24 1) false)
      ++ (if bits b 9 1 = 1 then [] else clipRange (blk b 16 4) (n * blockBytes false (bits b 12 1 == 1)) true
        ++ (if blk b 20 4 = 0xFFFFFFFF then [] else clipRange (blk b 20 4) (64 * n) true))
  | 2 =>
    (if bits b 9 1 = 1 then [] else clipRange (blk b 12 4) (256 * blk b 8 2) true)
      ++ (if bits b 8 1 = 1 then clipRange (blk b 16 4) (4 * blk b 8 2) true else [])
  | 3 => if bits b 8 1 = 1 then [] else clipRange (blk b 12 4) (256 * m * blk b 16 2) false
  | 7 => clipRange (blk b 16 4) 256 true
  | _ => []

/-! ### What the controller needs of the module -/

/-- The module and the tile's index. -/
structure ACtx where
  m : Mach
  t : Nat

def ACtx.part (x : ACtx) : Part := x.m.ownerPart x.t
/-- Age class of an array (R84): 0 fresh, 1 mid-life, 2 end of life, 3 Beyond. -/
def Mach.ageClass (m : Mach) (t a : Nat) : Nat :=
  let n := Map.get 0 m.wear.cycles (m.wearKey t a)
  let y := Config.years m.timeUs
  Nat.max (if n ≤ 1000 then 0 else if n ≤ 10000 then 1 else if n ≤ 30000 then 2 else 3)
    (if y ≤ 1 then 0 else if y ≤ 4 then 1 else if y ≤ 7 then 2 else 3)
/-- Junction temperature of a tile (R106). -/
def Mach.tileTj (m : Mach) (t : Nat) : Int := (m.pallet (palletOf t)).tj
/-- The conditions of R83 for a programmed array. -/
def Mach.arrInBound (m : Mach) (t a : Nat) (A : Arr) : Bool :=
  let tj := m.tileTj t
  (match A.calDone with
    | some d => decide (m.timeUs ≤ d + 300000) && decide ((tj - A.doneTemp).natAbs ≤ 8)
    | none => false)
  && (A.rowTime.all fun r => decide (m.timeUs ≤ r.2 + (m.tile t).period))
  && !(m.pallet (palletOf t)).dark
  && decide (0 ≤ tj) && decide (tj ≤ 105) && decide (m.ageClass t a < 3)

/-- E of R82 in 1/1,000 code step: junction, and fresh, mid-life and end of life. -/
def boundTable : List (Int × List Int) :=
  [(0, [840, 960, 1140]), (25, [720, 840, 1020]), (45, [720, 840, 1020]), (65, [780, 900, 1080]), (85, [900, 1080, 1320]),
   (105, [1200, 1440, 1740])]
/-- Between two temperature rows the larger value applies. -/
def tableBound (tj : Int) (age : Nat) : Int :=
  let at_ := fun (r : Option (Int × List Int)) => ((r.map fun x => x.2.getD age 0)).getD 0
  max (at_ (boundTable.filter fun x => decide (x.1 ≤ tj)).getLast?) (at_ (boundTable.find? fun x => decide (tj ≤ x.1)))
/-- R85: 1.5 times at G = 64, 2.2 times at G = 32. -/
def scaledBound (G : Nat) (e : Int) : Int := if G = 64 then e * 3 / 2 else if G = 32 then e * 11 / 5 else e
/-- The bound on a calibrated code of an array, where R83 holds; otherwise there is none (R539). -/
def Mach.codeBound (m : Mach) (t a G : Nat) (A : Arr) : Option Int :=
  if m.arrInBound t a A then some (scaledBound G (tableBound (m.tileTj t) (m.ageClass t a))) else none
/-! ### Rows and their checks -/

/-- Level of a cell of a row; a row not listed is at level 0. -/
def cellAt (row : Row) (c : Nat) : Int := (row.getD c 0).val
def Arr.row (A : Arr) (r : Nat) : Row := Map.get [] A.rows r
def Arr.level (A : Arr) (r c : Nat) : Int := cellAt (A.row r) c
/-- Σ (q − 8) over the data columns of a row (R96). -/
def rowSumOf (row : Row) : Int :=
  ((row ++ List.replicate (512 - row.length) 0).take 512).foldl (fun (s : Int) (l : Fin 16) => s + ((l.val : Int) - 8)) 0
/-- target − sensed over the row's entries of the stuck-cell table (R538). -/
def Arr.stuckSum (A : Arr) (r : Nat) : Int :=
  ((A.stuck.filter fun s => s.row == r).map fun s => (s.target : Int) - s.sensed).foldl (· + ·) 0
/-- The digital check of a sensed row (R96); a row of an EMPTY array is not checked. -/
def Arr.checkRow (A : Arr) (r : Nat) (row : Row) : Bool :=
  A.content == .empty ||
    decide (rowSumOf row + A.stuckSum r
      = cellAt row 516 + 16 * cellAt row 517 + 256 * cellAt row 518 + 4096 * (cellAt row 519 - 8))
def Arr.rowOk (A : Arr) (r : Nat) : Bool := A.checkRow r (A.row r)

/-- The nearest level to a charge in 1/64 level step (R108). -/
def levelOf (charge : Nat) : Fin 16 := if 960 ≤ charge then 15 else Fin.ofNat 16 ((charge + 32) / 64)
/-- The levels sensed in a row: those held, but for the cells named. -/
def Arr.sensed (A : Arr) (r : Nat) (cells : List CellSense) : Row :=
  if cells.isEmpty then A.row r
  else ((List.range 520).zip (A.row r ++ List.replicate (520 - (A.row r).length) 0)).map fun q =>
    match cells.find? fun k => k.col == q.1 with
    | some k => levelOf k.charge
    | none => q.2
/-- The cells of one sensing of a row. -/
def cellsOf (senses : List RowSense) (a r : Nat) (second : Bool) : List CellSense :=
  ((senses.find? fun s => s.arr == a && s.row == r && s.second == second).map (·.cells)).getD []
/-- A row sensed for a READ or a recomputation: once more after a mismatch; its levels, and whether they pass (R96). -/
def Arr.senseRow (A : Arr) (senses : List RowSense) (a r : Nat) : Row × Bool :=
  let one := A.sensed r (cellsOf senses a r false)
  if A.checkRow r one then (one, true)
  else
    let two := A.sensed r (cellsOf senses a r true)
    (two, A.checkRow r two)

/-- Levels of the check columns for target data levels (R35). -/
def checkLevels (r : Nat) (data : List (Fin 16)) : List (Fin 16) :=
  let s : Int := ((data.map fun l => (l.val : Int) - 8).foldl (· + ·) 0)
  let w := (s % 65536).toNat
  [8, 15, 0, if r % 2 = 0 then 4 else 12, Fin.ofNat 16 w, Fin.ofNat 16 (w / 16), Fin.ofNat 16 (w / 256),
   Fin.ofNat 16 ((s / 4096 + 8).toNat)]
/-- Levels packed two per byte (R61). -/
def unpackLevels : List Byte → List (Fin 16)
  | [] => []
  | b :: bs => Fin.ofNat 16 b.toNat :: Fin.ofNat 16 (b.toNat / 16) :: unpackLevels bs
def packLevels : List (Fin 16) → List Byte
  | a :: b :: ls => BitVec.ofNat 8 (a.val + 16 * b.val) :: packLevels ls
  | _ => []

/-! ### The pass: groups and conversions (R36 to R46, R91) -/

/-- Activations of a segment. -/
def segment (input : List Byte) (s : Nat) : List Int := ((input.drop (512 * s)).take 512).map BitVec.toInt
/-- Active rows of a segment with their nibbles, ascending: low nibbles, or high ones. -/
def activeRows (high : Bool) (xs : List Int) : List (Nat × Int) :=
  ((List.range xs.length).zip xs).filterMap fun p =>
    let n := if high then p.2 / 16 else p.2 % 16
    if n = 0 then none else some (p.1, n)
/-- Consecutive pieces of at most g. -/
def piecesOf (g : Nat) : Nat → List (Nat × Int) → List (List (Nat × Int))
  | 0, _ => []
  | f + 1, l => if l.isEmpty then [] else l.take g :: piecesOf g f (l.drop g)
/-- Row groups of a nibble: at least one, which may be empty (R37, R41). -/
def rowGroups (g : Nat) (split : Bool) (rows : List (Nat × Int)) : List (List (Nat × Int)) :=
  if split || rows.isEmpty then [rows] else piecesOf g 512 rows

/-- What a conversion depends on beside its column: the free-value counter, the array, u, the change of junction temperature since
its calibration began, and the bound of R82 where R83 holds. -/
structure ConvCtx where
  ctr : Nat
  arr : Nat
  u : Int
  dT : Int
  bound : Option Int

def clampTo (lo hi v : Int) : Int := max lo (min hi v)

/-- Patched cells of a column in a row group (R86). -/
def Arr.patchedIn (A : Arr) (rows : List (Nat × Int)) (c : Nat) : Nat :=
  (A.stuck.filter fun s => s.col == c && rows.any fun p => p.1 == s.row).length
/-- E of a column in a group (R86). -/
def Arr.groupBound (A : Arr) (x : ConvCtx) (rows : List (Nat × Int)) (c : Nat) : Option Int :=
  x.bound.map fun e => e + 250 * ((A.patchedIn rows c - 1 : Nat) : Int)

/-- ε of R80 in 1/1,000 code step: residual gain, offset, noise and cell terms, each a free value within its stated limit, the whole
within E. Log entry 10. -/
def Arr.residual (A : Arr) (x : ConvCtx) (s : Int) (rows : List (Nat × Int)) (c phase : Nat) : Int :=
  let free := fun (k : Nat) => Config.residual x.ctr x.arr c (4 * phase + k)
  let lim := 250 + 50 * x.dT
  let gain := clampTo (-lim) lim (free 0) * s / (100 * x.u)
  let cell := (rows.map fun p => p.2 * clampTo (-375) 125 (Config.cellCharge x.ctr x.arr p.1 c)).foldl (· + ·) 0 / x.u
  let e := gain + clampTo (-150) 150 (free 1) + free 2 + cell
  match A.groupBound x rows c with
  | some b => clampTo (-b) b e
  | none => e

/-- cal(c, d) of R91. -/
def Arr.calibrated (A : Arr) (c : Nat) (d : Int) : Int :=
  ((16 * d - Map.get 0 A.off c) * ((Map.get 16384 A.gain c : Nat) : Int) + 2 ^ 17) / 2 ^ 18

/-- One conversion (R42, R43, R80, R91): the calibrated code, and SAT. The converter's own code carries the column's gain and offset;
the calibrated code of one that does not saturate lies within 1/2 + E of S / u (R81). -/
def Arr.convert (A : Arr) (x : ConvCtx) (rows : List (Nat × Int)) (c phase : Nat) : Int × Bool :=
  let s := (rows.map fun p => p.2 * (A.level p.1 c - 8)).foldl (· + ·) 0
  let g : Int := (Map.get 16384 A.gain c : Nat)
  let k := ((1000 * s + x.u * A.residual x s rows c phase) * 262144 + (Map.get 0 A.off c + 8) * 1000 * x.u * g)
    / (16000 * x.u * g)
  let sat := decide (k < -512) || decide (511 < k)
  let d := A.calibrated c (clampTo (-512) 511 k)
  match A.groupBound x rows c with
  | some b =>
    if sat then (d, sat)
    else (clampTo (-((1000 * x.u + 2 * b * x.u - 2000 * s) / (2000 * x.u))) ((2000 * s + 1000 * x.u + 2 * b * x.u) / (2000 * x.u)) d, sat)
  | none => (d, sat)

/-- Sum of the calibrated codes of a column over a nibble's groups, and whether one saturated. -/
def Arr.codes (A : Arr) (x : ConvCtx) (c phase0 : Nat) (groups : List (List (Nat × Int))) : Int × Bool :=
  ((List.range groups.length).zip groups).foldl (fun (acc : Int × Bool) p =>
    if p.2.isEmpty then acc
    else
      let d := A.convert x p.2 c (phase0 + p.1)
      (acc.1 + d.1, acc.2 || d.2)) (0, false)

/-- Raw results and saturation flags of the 520 columns (R43). -/
def Arr.rawResults (A : Arr) (x : ConvCtx) (lo hi : List (List (Nat × Int))) : List (Int × Bool) :=
  (List.range 520).map fun c =>
    let l := A.codes x c 0 lo
    let h := A.codes x c 512 hi
    (x.u * l.1 + 16 * x.u * h.1, l.2 || h.2)

def sumInt (l : List Int) : Int := l.foldl (· + ·) 0
def rawAt (l : List (Int × Bool)) (c : Nat) : Int := (l.getD c (0, false)).1
def satAt (l : List (Int × Bool)) (c : Nat) : Bool := (l.getD c (0, false)).2

/-- Phase weight of an array: P_lo + 16 P_hi over phases not discarded (R93). -/
def phaseWeight (lo hi : List (List (Nat × Int))) : Int :=
  (lo.filter fun g => !g.isEmpty).length + 16 * (hi.filter fun g => !g.isEmpty).length

/-- The checks of R93 and R94. -/
def Arr.passOk (A : Arr) (P : Part) (u : Int) (xs : List Int) (w : Int) (raw : List (Int × Bool)) : Bool :=
  let sx_ := sumInt xs
  let odd := sumInt (((List.range xs.length).zip xs).filterMap fun p => if p.1 % 2 = 1 then some p.2 else none)
  let tol := (P.getR Reg.ARR_CHECK_CFG_REF_TOL : Int) * u * w
  let near := fun (a b t : Int) => decide ((a - b).natAbs ≤ t.toNat)
  near (rawAt raw 512) 0 tol && near (rawAt raw 513) (7 * sx_) tol && near (rawAt raw 514) (-8 * sx_) tol
    && near (rawAt raw 515) (4 * (odd - (sx_ - odd))) tol
    && near (sumInt ((raw.take 512).map (·.1)) + sumInt (A.stuck.map fun s => xs.getD s.row 0 * ((s.target : Int) - s.sensed)))
      (rawAt raw 516 + 16 * rawAt raw 517 + 256 * rawAt raw 518 + 4096 * rawAt raw 519 + 2184 * sx_)
      ((P.getR Reg.ARR_CHECK_CFG_SUM_TOL : Int) * u * w)

/-- Exact weight of an output of a row (R32, R33). -/
def weightOf (w8 : Bool) (row : Row) (o : Nat) : Int :=
  if w8 then 16 * (cellAt row (2 * o) - 8) + cellAt row (2 * o + 1) else cellAt row o - 8
def Arr.weight (A : Arr) (r o : Nat) : Int := weightOf A.w8 (A.row r) o
/-- The dot product of an output from the levels of 512 rows. -/
def exactOf (w8 : Bool) (rows : List Row) (xs : List Int) (o : Nat) : Int :=
  sumInt ((List.range 512).map fun r => xs.getD r 0 * weightOf w8 (rows.getD r []) o)
def Arr.outputs (A : Arr) : Nat := if A.w8 then 256 else 512
/-- A saturated output: its column, or a column of its pair. -/
def Arr.outSat (A : Arr) (raw : List (Int × Bool)) (o : Nat) : Bool :=
  if A.w8 then satAt raw (2 * o) || satAt raw (2 * o + 1) else satAt raw o

/-- An outlier entry (R98): row, output, correction. -/
def outlierEntry (bs : List Byte) : Nat × Nat × Int :=
  let n := leNat bs
  (bits n 7 9, bits n 30 2 * 128 + bits n 0 7, ((BitVec.ofNat 14 (bits n 16 14)).toInt))
def outlierEntries (bs : List Byte) (n : Nat) : List (Nat × Nat × Int) :=
  (List.range n).map fun i => outlierEntry ((bs.drop (4 * i)).take 4)
def groutTerm (es : List (Nat × Nat × Int)) (xs : List Int) (o : Nat) : Int :=
  sumInt ((es.filter fun e => e.2.1 == o).map fun e => e.2.2 * xs.getD e.1 0)

/-- The checks of an array's outlier list (R98, R100): the grout path waits at a bank that wakes or is pending-scrub (R147, R149). -/
def Tile.listGate (T : Tile) (dir : W32) : Gate :=
  if bits dir.toNat 0 9 = 0 then .ok else T.gate arrayAllow 64 (64 * bits dir.toNat 16 15) (4 * bits dir.toNat 0 9)
/-- Lines of an array's outlier list. -/
def listLines (dir : W32) : List Nat := linesOf (64 * bits dir.toNat 16 15) (4 * bits dir.toNat 0 9)

/-- What the grout path finds in an array's list: its entries, or the status it gives the pass (R98, R100). -/
def Tile.readList (T : Tile) (t id : Nat) (w8 : Bool) (dir : W32) : Tile × List Sig × Except Nat (List (Nat × Nat × Int)) :=
  let n := bits dir.toNat 0 9
  if n = 0 then (T, [], .ok [])
  else match (T.asOf id).listGate dir with
    | .fail st => (T, [], .error st)
    | _ =>
      let q := T.senseLines t (listLines dir)
      let es := outlierEntries (q.1.readBytes (64 * bits dir.toNat 16 15) (4 * n)) n
      if q.2.2 then
        (q.1, q.2.1 ++ ((listLines dir).filter fun l => T.found l == .bad).map fun l => .ueTurn (some l), .error stUe)
      else if w8 && es.any fun e => decide (256 ≤ e.2.1) then (q.1, q.2.1, .error stFmt)
      else (q.1, q.2.1, .ok es)

/-- Results of one array before ACC, its saturated outputs, and whether any of its columns saturated. -/
structure ArrOut where
  arr : Nat
  vals : List Int
  sat : List Bool
  anySat : Bool
deriving DecidableEq, Repr, Inhabited

/-- What the conversions of an array depend on (R80 to R83). -/
def Mach.convCtx (m : Mach) (t a G : Nat) (A : Arr) : ConvCtx :=
  ⟨m.ctr, a, (G / 4 : Nat), (m.tileTj t - A.doneTemp).natAbs, m.codeBound t a G A⟩

/-- One array of a pass: its outputs, or the status it gives the pass. The number counts outputs recomputed (R103); their rows are
read out with the check of R96. -/
def Arr.passOutputs (A : Arr) (P : Part) (x : ConvCtx) (G : Nat) (split grout : Bool) (xs : List Int)
    (es : List (Nat × Nat × Int)) (senses : List RowSense) : Except Nat (ArrOut × Nat) :=
  let lo := rowGroups G split (activeRows false xs)
  let hi := rowGroups G split (activeRows true xs)
  let raw := A.rawResults x lo hi
  let sats := (List.range A.outputs).map fun o => A.outSat raw o
  let again := grout && sats.any id
  let read := if again then (List.range 512).map fun r => A.senseRow senses x.arr r else []
  if !split && !A.passOk P x.u xs (phaseWeight lo hi) raw then .error stCheck
  else if !(read.all (·.2)) then .error stCheck
  else
    let sx_ := sumInt xs
    let vals := (List.range A.outputs).map fun o =>
      let analogue := if A.w8 then 16 * rawAt raw (2 * o) + rawAt raw (2 * o + 1) + 8 * sx_ else rawAt raw o
      (if again && A.outSat raw o then exactOf A.w8 (read.map (·.1)) xs o else analogue) + (if grout then groutTerm es xs o else 0)
    .ok (⟨x.arr, vals, sats, raw.any (·.2)⟩, if again then (sats.filter id).length else 0)

/-- An INT32 result wraps; OUT16 shifts and clamps it (R58, R100). -/
def outBytes (out16 : Bool) (shift : Nat) (v : Int) : List Byte :=
  let w := (BitVec.ofInt 32 v).toInt
  if out16 then leBytes 2 ((satInt 16 (w / 2 ^ shift)) % 65536).toNat else leBytes 4 (w % 2 ^ 32).toNat

def maskBytes (sat : List Bool) : List Byte :=
  (List.range 64).map fun i => BitVec.ofNat 8 ((List.range 8).foldl (fun v j => v + 2 ^ j * b2n' (sat.getD (8 * i + j) false)) 0)
where b2n' (b : Bool) : Nat := if b then 1 else 0

/-- A block of outputs and its mask. -/
def joinOutputs (l : List ArrOut) : List Int × List Bool :=
  let n := ((l.head?.map fun o => o.vals.length).getD 0)
  ((List.range n).map fun i => sumInt (l.map fun o => o.vals.getD i 0),
   (List.range n).map fun i => l.any fun o => o.sat.getD i false)

/-- The lines of a byte string at an address. -/
def writeLines (addr : Nat) (bs : List Byte) : List (Nat × List Byte) :=
  let ls := cutLines ((bs.length + 63) / 64) bs
  ((List.range ls.length).zip ls).map fun p => (addr + 64 * p.1, p.2)

/-- What a pass writes, its status, its saturated outputs, and what the reading of lists leaves. -/
def Tile.passResult (x : ACtx) (T : Tile) (c : ACmd) (phys : ArrPhys) : Tile × List Sig × Nat × List (Nat × List Byte) × Nat :=
  let b := c.rec_
  let P := x.part
  let G := P.getR Reg.ARR_CFG_ROW_GROUP_LIMIT
  let grout := c.flag 2
  let arrs := c.names
  -- outlier lists of every masked array
  let lists := arrs.foldl (fun (acc : Tile × List Sig × Except Nat (List (Nat × List (Nat × Nat × Int)))) a =>
    match acc.2.2 with
    | .error _ => acc
    | .ok ls =>
      if !grout then (acc.1, acc.2.1, .ok (ls ++ [(a, [])]))
      else
        let q := acc.1.readList x.t c.id (acc.1.arr a).w8 (((c.dirs.find? fun d => d.1 == a).map (·.2)).getD 0)
        (q.1, acc.2.1 ++ q.2.1, match q.2.2 with | .ok es => .ok (ls ++ [(a, es)]) | .error e => .error e)) (T, [], .ok [])
  match lists.2.2 with
  | .error st => (lists.1, lists.2.1, st, [], 0)
  | .ok ls =>
    let outs := ls.foldl (fun (acc : Except (Nat × Nat) (List (ArrOut × Nat))) l =>
      match acc with
      | .error e => .error e
      | .ok os =>
        match (T.arr l.1).passOutputs P (x.m.convCtx x.t l.1 G (T.arr l.1)) G (c.flag 5) grout (segment c.input (l.1 / 8)) l.2
          phys.senses with
        | .ok o => .ok (os ++ [o])
        | .error e => .error (e, l.1)) (.ok [])
    match outs with
    | .error e => (lists.1, lists.2.1 ++ [.test (.array x.t e.2)], e.1, [], 0)
    | .ok os =>
      let w8 := os.any fun o => (T.arr o.1.arr).w8
      let size := blockBytes w8 (c.flag 4)
      let blocks := (passBlocks b).map fun j =>
        (j, joinOutputs ((os.map (·.1)).filter fun o => if c.flag 3 then o.arr % 8 == j else o.arr == j))
      let data := blocks.flatMap fun k =>
        writeLines (blk b 16 4 + k.1 * size) (k.2.1.flatMap (outBytes (c.flag 4) (blk b 25 1)))
      let masks := if blk b 20 4 = 0xFFFFFFFF then []
        else blocks.flatMap fun k => writeLines (blk b 20 4 + 64 * k.1) (maskBytes k.2.2)
      let counted := if grout then (os.map (·.2)).foldl (· + ·) 0
        else (blocks.map fun k => (k.2.2.filter id).length).foldl (· + ·) 0
      (lists.1, lists.2.1, if os.any fun o => o.1.anySat then stOkSat else stOk, data ++ masks, counted)

/-! ### The queue (R50, R51) -/

/-- Commands ahead of one in the queue. -/
def Tile.ahead (T : Tile) (id : Nat) : List ACmd := T.aq.takeWhile fun c => c.id ≠ id
def Tile.findCmd (T : Tile) (id : Nat) : Option ACmd := T.aq.find? fun c => c.id == id
def Tile.modCmd (T : Tile) (id : Nat) (f : ACmd → ACmd) : Tile :=
  { T with aq := T.aq.map fun c => if c.id = id then f c else c }
/-- An earlier command no longer keeps an array from a PASS or READ: it has ended, or is a PASS whose phases have. -/
def ACmd.clear (c : ACmd) : Bool :=
  c.ended || (c.op == 1 && (c.stage == .held || c.stage == .drain))
/-- No earlier command still keeps an array that `c` names (R50): a PASS or READ waits until each has completed on the array, any
other command until each has completed. R79's READ that stops for the phases of a PASS meets no command so: log entry 78. -/
def Tile.arrsFree (T : Tile) (c : ACmd) : Bool :=
  (T.ahead c.id).all fun e => (decide (c.op ≤ 2) && e.clear) || !(e.names.any fun a => c.names.contains a)
def Tile.inStage (T : Tile) (s : CmdStage) : Bool := T.aq.any fun c => c.stage == s

/-- The lowest free queue position (R53). An entry frees when its command is reported (R52; log entry 79). -/
def Tile.freeTag (T : Tile) : Nat := ((List.range 8).find? fun i => !(T.aq.any fun c => c.qtag == i)).getD 0

/-- A command enters the queue. -/
def Tile.enqueueCmd (T : Tile) (by_ : CmdBy) (rec_ : Nat) : Tile :=
  { T with aq := T.aq ++ [{ id := T.nextId, qtag := T.freeTag, by_ := by_, record := leBytes 32 rec_ }]
           nextId := T.nextId + 1 }

/-- Arrays that accept a command that needs ACTIVE (R60, R62, R64). -/
def Tile.accepts (T : Tile) (auto : Bool) (arrs : List Nat) (ok : Content → Bool) : Bool :=
  arrs.all fun a =>
    let A := T.arr a
    ok A.content && (A.power == .active || (A.power == .standby && auto))
/-- AUTO_WAKE (R75). -/
def Tile.wakeArrs (T : Tile) (arrs : List Nat) : Tile :=
  arrs.foldl (fun T a => T.modArr a fun A => { A with power := .active }) T

/-- Checks of a PASS at the take (R59); the block size is that of the first masked array's format. Where several addresses fail, the
status is that of the first in the order input, then the output and the mask of each block (log entry 80). -/
def Tile.passGate (T : Tile) (c : ACmd) : Gate :=
  let b := c.rec_
  let size := blockBytes ((c.names.head?.map fun a => (T.arr a).w8).getD false) (c.flag 4)
  if badFields b then .fail stBadCmd
  else if blk b 24 1 ≤ (c.names.foldl Nat.max 0) / 8 then .fail stFmt
  else (T.gate arrayAllow 64 (blk b 12 4) (512 * blk b 24 1)).and
    ((passBlocks b).foldl (fun g j => g.and ((T.gate arrayAllow 64 (blk b 16 4 + j * size) size).and
      (if blk b 20 4 = 0xFFFFFFFF then .ok else T.gate arrayAllow 64 (blk b 20 4 + 64 * j) 64))) .ok)

/-- Addresses of a PROG or READ that has passed its state check; those of a STATUS. -/
def Tile.cmdGate (T : Tile) (c : ACmd) : Gate :=
  let b := c.rec_
  match c.op with
  | 2 => (T.gate readAllow 64 (blk b 12 4) (256 * blk b 8 2)).and
      (if c.flag 0 then T.gate arrayAllow 4 (blk b 16 4) (4 * blk b 8 2) else .ok)
  | 3 => (T.gate progAllow 64 (blk b 12 4) (256 * c.names.length * blk b 16 2)).and
      (if blk b 24 4 = 0xFFFFFFFF then .ok else T.gate arrayAllow 8 (blk b 24 4) (8 * blk b 20 2))
  | 7 => T.gate arrayAllow 4 (blk b 16 4) 256
  | _ => .ok

/-- The state check of a command that names arrays (R62, R64, R69, R71, R74, R75). -/
def Tile.stateOk (T : Tile) (auto : Bool) (c : ACmd) : Bool :=
  let arrs := c.names
  match c.op with
  | 2 => T.accepts auto arrs fun k => k == .valid || k == .patched || k == .empty
  | 3 => T.accepts auto arrs (· == .empty)
  | 4 => arrs.all fun a => (T.arr a).power != .off && ((T.arr a).content == .valid || (T.arr a).content == .patched)
  | 5 => arrs.all fun a => (T.arr a).power != .off && (T.arr a).content != .loading
  | 6 => blk c.rec_ 1 1 != 0 || arrs.all fun a =>
      (T.arr a).power == .off || (T.arr a).content == .empty || (T.arr a).content == .unknown
  | _ => true

/-- A PROG puts an array in LOADING (R68): none of its rows is programmed, and no stuck cell is known. -/
def Arr.startProg (A : Arr) (w8 : Bool) : Arr :=
  { A with content := .loading, w8 := w8, rows := [], rowTime := [], stuck := [], stuckCount := 0, loopsSeen := 0 }

/-- What starting a command does before it runs: AUTO_WAKE for READ and PROG; a PROG puts its arrays in LOADING and counts a
program cycle on each (R68, R84). -/
def Tile.begin_ (T : Tile) (c : ACmd) : TRes :=
  let T := if c.op = 2 ∨ c.op = 3 then T.wakeArrs c.names else T
  if c.op = 3 then (c.names.foldl (fun T a => T.modArr a fun A => A.startProg (c.flag 1)) T, [.cycles c.names])
  else (T, [])

/-- The controller starts what R50 lets it start: the load of the next PASS, and other commands in their order. -/
def Tile.kickOne (x : ACtx) (T : Tile) (id : Nat) : TRes :=
  match T.findCmd id with
  | none => (T, [])
  | some c =>
    if c.stage ≠ .queued then (T, [])
    else if c.op = 1 then
      let first := !((T.ahead id).any fun e => e.op == 1 && e.stage == .queued)
      if !first || T.inStage .load || T.inStage .loaded then (T, [])
      else match (T.asOf id).passGate c with
        | .fail st => (T.modCmd id fun c => c.endWith st, [])
        | .wait => (T, [])
        | .ok => (T.modCmd id fun c => { c with stage := .load }, [])
    else if badFields c.rec_ then (T.modCmd id fun c => c.endWith stBadCmd, [])
    else if c.op = 2 && ((T.ahead id).any fun e => e.op == 2 && !e.ended) then (T, [])
    else if !T.arrsFree c then (T, [])
    else if !T.stateOk (x.part.flagR Reg.ARR_CFG_AUTO_WAKE) c then (T.modCmd id fun c => c.endWith stState, [])
    else if c.op = 2 && (T.arr (blk c.rec_ 4 1)).suspect then (T.modCmd id fun c => c.endWith stCheck, [])
    else match (T.asOf id).cmdGate c with
      | .fail st => (T.modCmd id fun c => c.endWith st, [])
      | .wait => (T, [])
      | .ok => (T.modCmd id fun c => { c with stage := .running }).begin_ c

/-- A PASS whose phases have ended takes the drain stage once it is free (R49). -/
def Tile.promote (T : Tile) : Tile :=
  if T.aq.any fun e => e.op == 1 && e.stage == .drain then T
  else match T.aq.find? fun c => c.stage == .held with
    | none => T
    | some c => T.modCmd c.id fun c => { c with stage := .drain }

def Tile.arrayKick (x : ACtx) (T : Tile) : TRes :=
  (T.promote.aq.map (·.id)).foldl (fun r id => ((r.1.kickOne x id).1, r.2 ++ (r.1.kickOne x id).2)) (T.promote, [])

/-- An array instruction (R175, R179): the block is queued, and its ranges enter the scoreboard. -/
def acmdIssue (t : TileId) (n : RegNo) (op : Nat → Bool) (s : State) : Host.Outcome State Fault Refusal :=
  lift (fun m => m.act t.val (blockIssue 0x29 t n op fun T b =>
    let rs := cmdRanges b
    match T.blockGate (m.ownerPart t.val).compat (blk b 2 2) none none .ok (decide (8 ≤ T.aq.length) || T.sbStall rs) with
    | some r => r
    | none => ((T.sbEnter T.nextId rs).enqueueCmd (.core T.pc) b).advance.arrayKick ⟨m, t.val⟩)) s

/-- PASS (R57, R59). -/
def execPass (t : TileId) (n : RegNo) (s : State) : Host.Outcome State Fault Refusal := acmdIssue t n (· == 1) s
/-- READ (R61). -/
def execRead (t : TileId) (n : RegNo) (s : State) : Host.Outcome State Fault Refusal := acmdIssue t n (· == 2) s
/-- PROG (R63). -/
def execProg (t : TileId) (n : RegNo) (s : State) : Host.Outcome State Fault Refusal := acmdIssue t n (· == 3) s
/-- REFRESH (R71). -/
def execRefresh (t : TileId) (n : RegNo) (s : State) : Host.Outcome State Fault Refusal := acmdIssue t n (· == 4) s
/-- ERASE (R69). -/
def execErase (t : TileId) (n : RegNo) (s : State) : Host.Outcome State Fault Refusal := acmdIssue t n (· == 5) s
/-- POWER (R74, R75). -/
def execPower (t : TileId) (n : RegNo) (s : State) : Host.Outcome State Fault Refusal := acmdIssue t n (· == 6) s
/-- STATUS (R73). -/
def execStatus (t : TileId) (n : RegNo) (s : State) : Host.Outcome State Fault Refusal := acmdIssue t n (· == 7) s
/-- BAD_CMD (R56): queued like every ACMD. -/
def execBadCmd (t : TileId) (n : RegNo) (s : State) : Host.Outcome State Fault Refusal :=
  acmdIssue t n (fun op => op == 0 || decide (8 ≤ op)) s

/-! ### The stages of a pass -/

/-- A PASS or READ that waits on a tag in an abandoned turn ends: no completion word, no flag (R239; log entry 22). -/
def Tile.endWait (T : Tile) (id : Nat) : Tile :=
  Tile.sbRetire { T with aq := T.aq.filter fun c => c.id != id } id

/-- The load stage: with IN_TAG it waits until every line is full and sets them empty (R57, R142); its end retires the input
range (R140). -/
def Tile.loadPass (x : ACtx) (T : Tile) : TRes :=
  match T.aq.find? fun c => c.stage == .load with
  | none => (T, [])
  | some c =>
    let addr := blk c.rec_ 12 4
    let n := 512 * blk c.rec_ 24 1
    let ls := linesOf addr n
    let waits := c.flag 0 && !(ls.all fun l => T.tagFull l)
    if waits && T.run == .abandoned then (T.endWait c.id, [])
    else if x.m.testingAny x.t ls || waits then (T, [])
    else
      let q := T.senseLines x.t ls
      let T1 := if c.flag 0 then ls.foldl (fun T l => T.setTag l false) q.1 else q.1
      let T2 := T1.sbRetireReads c.id
      if q.2.2 then
        (T2.modCmd c.id fun c => c.endWith stUe,
         q.2.1 ++ (ls.filter fun l => T.found l == .bad).map fun l => .ueTurn (some l))
      else (T2.modCmd c.id fun c => { c with stage := .loaded, input := T2.readBytes addr n }, q.2.1)

/-- The checks at the phase stage (R59, R60, R97, R114). -/
def Tile.phaseStatus (x : ACtx) (T : Tile) (c : ACmd) : Nat :=
  let P := x.part
  if (c.fromCore && P.flagR Reg.ARR_MODE_DIGITAL)
      || !T.accepts (P.flagR Reg.ARR_CFG_AUTO_WAKE) c.names fun k => k == .valid || k == .patched then stState
  else if c.names.any fun a => (T.arr a).suspect then stCheck
  else if (c.names.any fun a => (T.arr a).w8) && c.names.any fun a => !(T.arr a).w8 then stFmt
  else stOk

/-- PASS_PHASES_START (R60): the load proceeds; a loaded PASS whose arrays are free enters its phase stage. -/
def Tile.passPhasesStart (x : ACtx) (T : Tile) : TRes :=
  let r := T.loadPass x
  let T := r.1
  match T.aq.find? fun c => c.stage == .loaded with
  | none => let k := T.arrayKick x; (k.1, r.2 ++ k.2)
  | some c =>
    if T.inStage .phases || T.inStage .held || !T.arrsFree c then let k := T.arrayKick x; (k.1, r.2 ++ k.2)
    else
      let st := T.phaseStatus x c
      let T := if st ≠ stOk then T.modCmd c.id fun c => c.endWith st
        else (T.wakeArrs c.names).modCmd c.id fun c =>
          { c with stage := .phases, dirs := c.names.map fun a => (a, Map.get 0 T.grout a) }
      let late := st == stOk && c.names.any fun a => !x.m.arrInBound x.t a (T.arr a)
      let k := T.arrayKick x
      (k.1, r.2 ++ k.2 ++ (if late then [.evt Reg.ARR_ACC_EVT_BEYOND_BOUND] else []))

/-- PASS_PHASES_START (R60). -/
def execPassPhasesStart (t : TileId) (s : State) : Host.Outcome State Fault Refusal :=
  lift (fun m => m.act t.val fun T => T.passPhasesStart ⟨m, t.val⟩) s

/-- Phases a pass runs: P_lo + P_hi over its segments (R38, R39). -/
def ACmd.phases (c : ACmd) (G : Nat) : Nat :=
  let n := fun (high : Bool) => ((List.range (blk c.rec_ 24 1)).map fun s =>
    (rowGroups G (c.flag 5) (activeRows high (segment c.input s))).length).foldl Nat.max 0
  n false + n true

/-- The grout path of a pass waits: a list lies in a bank that wakes or is pending-scrub, or in a line under test. -/
def Tile.listsWait (x : ACtx) (T : Tile) (c : ACmd) : Bool :=
  c.flag 2 && c.dirs.any fun d => (T.asOf c.id).listGate d.2 == .wait || (bits d.2.toNat 0 9 != 0 && x.m.testingAny x.t (listLines d.2))

/-- PASS_PHASES_END (R93 to R104): the results go to the drain stage, or wait for it to be free (R49). -/
def Tile.passPhasesEnd (x : ACtx) (T : Tile) (phys : ArrPhys) : TRes :=
  match T.aq.find? fun c => c.stage == .phases with
  | none => (T, [])
  | some c =>
    if T.listsWait x c then (T, [])
    else
      let q := T.passResult x c phys
      let st := q.2.2.1
      let T1 := if 1 < st then q.1.modCmd c.id fun c => c.endWith st
        else q.1.modCmd c.id fun c => { c with stage := .held, status := st, out := q.2.2.2.1, sat := q.2.2.2.2 }
      let k := T1.arrayKick x
      (k.1, q.2.1 ++ k.2 ++ [.free, .prof 0x06 (c.phases (x.part.getR Reg.ARR_CFG_ROW_GROUP_LIMIT))])

/-- PASS_PHASES_END (R93): `phys` says what the recomputation readouts sensed. -/
def execPassPhasesEnd (x : PhasesEnd) (s : State) : Host.Outcome State Fault Refusal :=
  lift (fun m => m.act x.t.val fun T => T.passPhasesEnd ⟨m, x.t.val⟩ x.phys) s

/-! ### Running the other commands -/

/-- Lines written by the controller while their tags allow (R142): what is left. Whole lines are clean (R135). The check nibbles of a
READ are no whole lines: they are written by ordinary stores, whatever OUT_TAG (log entry 81). -/
def Tile.drainLines (T : Tile) (fill : Bool) : List (Nat × List Byte) → Tile × List (Nat × List Byte)
  | [] => (T, [])
  | w :: ws =>
    if w.2.length < 64 then (T.writeBytes w.1 w.2).drainLines fill ws
    else if fill && T.tagFull (w.1 / 64) then (T, w :: ws)
    else
      let T1 := T.storeLine (w.1 / 64) w.2 false
      (if fill then T1.setTag (w.1 / 64) true else T1).drainLines fill ws

/-- The rows of a READ before the first that fails its check, and its status (R61, R96). -/
def Tile.readRows (T : Tile) (c : ACmd) (senses : List RowSense) : List (Nat × List Byte) × Nat :=
  let b := c.rec_
  let a := blk b 4 1
  let rows := (List.range (blk b 8 2)).map fun i => (i, (T.arr a).senseRow senses a (blk b 6 2 + i))
  let good := rows.takeWhile fun r => r.2.2
  let levels := fun (row : Row) (lo n : Nat) => (List.range n).map fun i => row.getD (lo + i) 0
  let out := good.flatMap fun r =>
    (if c.flag 0 then [(blk b 16 4 + 4 * r.1, packLevels (levels r.2.1 512 8))] else [])
      ++ writeLines (blk b 12 4 + 256 * r.1) (packLevels (levels r.2.1 0 512))
  (out, if good.length = rows.length then stOk else stCheck)

/-- The stuck cells of a row of targets (R66): each cell once, its target the source row's, and KIND by its sensed level. -/
def stuckAt (phys : ArrPhys) (a r : Nat) (row : Row) : List Stuck :=
  (phys.stuck.filter fun s => s.arr == a && s.row == r && decide (s.col < 520)).foldl (fun acc s =>
    if acc.any fun k => k.col == s.col then acc
    else
      let target := (row.getD s.col 0).val
      acc ++ [{ s with target := target, sensed := s.sensed % 16,
                       isOver := if s.sensed % 16 = target then s.isOver else decide (target < s.sensed % 16) }]) []

/-- One row programmed with the check columns of its targets (R35, R65, R66): stuck cells hold what they were sensed at and enter the
table (R538); a row with one runs to the loop limit. -/
def Arr.programRow (A : Arr) (now a r : Nat) (data : List (Fin 16)) (phys : ArrPhys) (limit : Nat) : Arr :=
  let row := data ++ checkLevels r data
  let mine := stuckAt phys a r row
  { A with
    rows := Map.insert A.rows r (mine.foldl (fun l s => l.set s.col (Fin.ofNat 16 s.sensed)) row)
    stuck := (A.stuck ++ mine).take 64
    stuckCount := Nat.min (A.stuckCount + mine.length) 255
    loopsSeen := Nat.max A.loopsSeen (if mine.isEmpty then Nat.min (Nat.max phys.loops 1) limit else limit)
    rowTime := Map.insert A.rowTime r now }

/-- The end of a PROG on an array (R67); it is due for calibration (R88), and its verification period starts (R111). -/
def Arr.progEnd (A : Arr) (P : Part) (now : Nat) : Arr :=
  { A with
    content := if A.stuckCount = 0 then .valid
      else if A.stuckCount ≤ P.getR Reg.ARR_CFG_PATCH_MAX ∧ A.stuck.all (fun s => decide (s.col < 512)) then .patched else .failed
    verifyAt := now, calDue := some now, calEscalated := false, calStep := none }

/-- An array programmed with 512 rows of targets at once, by a service of the module. -/
def Arr.programmed (A : Arr) (P : Part) (now a : Nat) (rows : List (List (Fin 16))) (phys : ArrPhys) (limit : Nat) : Arr :=
  (((List.range rows.length).zip rows).foldl (fun A p => A.programRow now a p.1 p.2 phys limit) (A.startProg A.w8)).progEnd P now

def reportRecord (s : Stuck) : List Byte :=
  leBytes 1 s.arr ++ leBytes 1 (if s.isOver then 2 else 1) ++ leBytes 2 s.row ++ leBytes 2 s.col ++ leBytes 1 s.target
    ++ leBytes 1 s.sensed

/-- The loop limit of a PROG (R63). -/
def ACmd.loopLimit (c : ACmd) (P : Part) : Nat :=
  if blk c.rec_ 18 1 = 0 then P.getR Reg.ARR_CFG_DEFAULT_MAX_LOOPS else blk c.rec_ 18 1

/-- A PROG that has read a whole slot programs the row in every masked array, and reports its stuck cells (R63, R66). -/
def Tile.programRow (x : ACtx) (T : Tile) (c : ACmd) (slot : List Byte) (phys : ArrPhys) : Tile :=
  let b := c.rec_
  let parts := ((List.range c.names.length).zip c.names).map fun p => (p.2, unpackLevels ((slot.drop (256 * p.1)).take 256))
  let T1 := parts.foldl (fun T p => T.modArr p.1 fun A =>
    A.programRow x.m.timeUs p.1 c.rowsDone p.2 phys (c.loopLimit x.part)) T
  let found := parts.flatMap fun p => stuckAt phys p.1 c.rowsDone (p.2 ++ checkLevels c.rowsDone p.2)
  let reps := found.take (blk b 20 2 - c.found)
  let T2 := if blk b 24 4 = 0xFFFFFFFF ∨ reps.isEmpty then T1
    else T1.storeRun (blk b 24 4 + 8 * c.found) (reps.flatMap reportRecord)
  T2.modCmd c.id fun c => { c with input := [], rowsDone := c.rowsDone + 1, found := c.found + found.length }

/-- A PROG whose source row holds an uncorrectable error (R68): its arrays become UNKNOWN, with no row to refresh, and are due for
calibration (R88). -/
def Arr.progAborted (A : Arr) (now : Nat) : Arr :=
  { A with content := .unknown, rowTime := [], calDue := some now, calEscalated := false }

/-- The lines of a PROG's slots are read in order while they can be: with IN_TAG each waits on its own tag and is set empty (R63,
R142). Each slot read programs its row; a bad source row ends the command. -/
def Tile.feedProg (x : ACtx) (T : Tile) (id : Nat) (phys : ArrPhys) : Nat → TRes
  | 0 => (T, [])
  | fuel + 1 =>
    match T.findCmd id with
    | none => (T, [])
    | some c =>
      if 512 ≤ c.rowsDone ∨ c.ended then (T, [])
      else
        let size := 256 * c.names.length
        let line := (blk c.rec_ 12 4 + c.rowsDone % blk c.rec_ 16 2 * size + c.input.length) / 64
        if (c.flag 0 && !T.tagFull line) || x.m.testing x.t line then (T, [])
        else
          let q := T.senseLine x.t line
          let T1 := if c.flag 0 then q.1.setTag line false else q.1
          if q.2.2 then
            ((c.names.foldl (fun T a => T.modArr a fun A => A.progAborted x.m.timeUs) T1).modCmd id fun c => c.endWith stUe,
             q.2.1 ++ [.ueTurn (some line)])
          else
            let slot := c.input ++ T1.readBytes (64 * line) 64
            let T2 := if slot.length < size then T1.modCmd id fun c => { c with input := slot } else T1.programRow x c slot phys
            let k := T2.feedProg x id phys fuel
            (k.1, q.2.1 ++ k.2)

/-- A PROG that has programmed all its rows ends. -/
def Tile.endProg (x : ACtx) (T : Tile) (c : ACmd) : Tile :=
  let T1 := c.names.foldl (fun T a => T.modArr a fun A => A.progEnd x.part x.m.timeUs) T
  T1.modCmd c.id fun d => d.endWith (if c.names.any fun a => (T1.arr a).content == .failed then stProgFail else stOk)

/-! ### Row refresh (R70, R71, R105 to R110) -/

/-- The engine refreshes the rows of arrays VALID, PATCHED or LOADING (R71). -/
def Arr.refreshes (A : Arr) : Bool := A.content == .valid || A.content == .patched || A.content == .loading

/-- How late a row's refresh is at a time: 0 in time, 1 past its deadline, 2 past two periods (R110). -/
def Tile.lateness (T : Tile) (a row now : Nat) : Nat :=
  match Map.find (T.arr a).rowTime row with
  | none => 0
  | some at_ => if now ≤ at_ + T.period then 0 else if now ≤ at_ + 2 * T.period then 1 else 2

/-- What a late row sets (R73, R110). -/
def Tile.noteLate (T : Tile) (a row now : Nat) : TRes :=
  match T.lateness a row now with
  | 0 => (T, [])
  | 1 => (T.modArr a fun A => { A with refreshLate := true }, [])
  | _ => (T.modArr a fun A => { A with refreshLate := true, suspect := true }, [.evt Reg.ARR_ACC_EVT_REFRESH_OVERDUE])

/-- Every cell of a row restores (R108): one sensed below its nearest level by more than 1/8 step is pulsed and must verify within
1/8 step, and one sensed above by more fails. -/
def restores (cells : List CellSense) : Bool :=
  cells.all fun k =>
    let l := 64 * (levelOf k.charge).val
    if l + 8 < k.charge then false
    else if k.charge + 8 < l then decide (l ≤ k.verified + 8) && decide (k.verified ≤ l + 8)
    else true

/-- A refresh slot of a row (R108, R109): a row that fails its check or its restore gets a second slot, its deadline taken as reached; a
second failure restores it to its sensed levels, marks the array suspect and tests it. -/
def Tile.rowSlot (T : Tile) (t a row now : Nat) (cells : List CellSense) : TRes :=
  let r := T.noteLate a row now
  let A := r.1.arr a
  let lv := A.sensed row cells
  let A1 := { A with
    rows := Map.set [] A.rows row lv, rowTime := Map.insert A.rowTime row now, retryRows := A.retryRows.erase row }
  if A.checkRow row lv && restores cells then (r.1.modArr a fun _ => A1, r.2)
  else if A.retryRows.contains row then
    (r.1.modArr a fun _ => { A1 with suspect := true }, r.2 ++ [.evt Reg.ARR_ACC_EVT_RESTORE_FAIL, .test (.array t a)])
  else (r.1.modArr a fun A => { A with retryRows := A.retryRows ++ [row] }, r.2)

/-- REFRESH of the rows of an array, in order. -/
def Tile.refreshRows (T : Tile) (t a now : Nat) (senses : List RowSense) : List Nat → TRes
  | [] => (T, [])
  | r :: rs =>
    let q := T.rowSlot t a r now (cellsOf senses a r false)
    let k := q.1.refreshRows t a now senses rs
    (k.1, q.2 ++ k.2)

def contentCode : Content → Nat
  | .unknown => 0 | .empty => 1 | .loading => 2 | .valid => 3 | .patched => 4 | .failed => 5
def powerCode : ArrPower → Nat
  | .off => 0 | .standby => 1 | .active => 2
/-- State word of an array (R73). -/
def Arr.word (A : Arr) : Nat :=
  powerCode A.power + 8 * contentCode A.content + 64 * (if A.w8 then 1 else 0) + 128 * (if A.refreshLate then 1 else 0)
    + 256 * A.stuckCount + 65536 * A.loopsSeen

/-- A running command does its work: it ends, or goes on (a READ with its writes, a PROG that waits for rows). -/
def Tile.runCmd (x : ACtx) (T : Tile) (c : ACmd) (phys : ArrPhys) : TRes :=
  let b := c.rec_
  let arrs := c.names
  let now := x.m.timeUs
  match c.op with
  | 2 =>
    let r := T.readRows c phys.senses
    (T.modCmd c.id fun c => { c with stage := .drain, status := r.2, out := r.1 },
     .prof 0x08 (if r.2 = stOk then blk b 8 2 else r.1.length / (if c.flag 0 then 5 else 4))
       :: (if r.2 = stOk then [] else [.test (.array x.t (blk b 4 1))]))
  | 3 =>
    let q := T.feedProg x c.id phys 131073
    match q.1.findCmd c.id with
    | some c' => if c'.rowsDone = 512 && !c'.ended then (q.1.endProg x c', q.2) else q
    | none => q
  | 4 =>
    let rows := (List.range (blk b 14 2)).map (blk b 12 2 + ·)
    let q := arrs.foldl (fun (r : TRes) a =>
      ((r.1.refreshRows x.t a now phys.senses rows).1, r.2 ++ (r.1.refreshRows x.t a now phys.senses rows).2)) (T, [])
    (q.1.modCmd c.id fun c => c.endWith stOk, q.2)
  | 5 =>
    let bad := arrs.any fun a => phys.eraseFail.contains a
    let T1 := arrs.foldl (fun T a => T.modArr a fun A => A.eraseDone now (phys.eraseFail.contains a)) T
    (T1.modCmd c.id fun c => c.endWith (if bad then stProgFail else stOk), [])
  | 6 =>
    let T1 := arrs.foldl (fun T a => T.modArr a fun A =>
      { A with power := if blk b 1 1 = 0 then .off else if blk b 1 1 = 1 then .standby else .active }) T
    (T1.modCmd c.id fun c => c.endWith stOk, [])
  | 7 =>
    let T1 := T.storeRun (blk b 16 4) ((List.range 64).flatMap fun a => leBytes 4 (T.arr a).word)
    (T1.modCmd c.id fun c => c.endWith stOk, [])
  | _ => (T, [])

/-- The event bit of a status (R78). -/
def statusEvt (st : Nat) : List Sig :=
  match st with
  | 1 => [.evt Reg.ARR_EVT_SAT_SEEN]
  | 2 => [.evt Reg.ARR_EVT_STATE_SEEN]
  | 3 => [.evt Reg.ARR_EVT_FMT_SEEN]
  | 4 => [.evt Reg.ARR_EVT_PORT_SEEN]
  | 5 => [.evt Reg.ARR_EVT_PORT_SEEN]
  | 6 => [.evt Reg.ARR_EVT_CHECK_SEEN]
  | 7 => [.evt Reg.ARR_EVT_UE_SEEN]
  | 8 => [.evt Reg.ARR_EVT_PROG_FAIL_SEEN]
  | 9 => [.evt Reg.ARR_EVT_BAD_CMD_SEEN]
  | _ => []

/-- The completion word (R53). -/
def completionWord (c : ACmd) (st : Nat) : Nat := 2 ^ 16 * st + 2 ^ 8 * c.qtag + c.op

/-- The arrays a CHECK may be due to: the suspect ones, or all that the command names (R93 to R97). -/
def Tile.failing (T : Tile) (c : ACmd) : List (Nat × Nat × Nat) :=
  let s := c.names.filter fun a => (T.arr a).suspect
  (if s.isEmpty then c.names else s).map fun a => (3, a, 0xFFFF)

/-- A command that has ended is reported (R52): a completion word, and its flag or an array exception. -/
def Tile.reportCmd (T : Tile) (c : ACmd) (st : Nat) : TRes :=
  let T := Tile.sbRetire { T with aq := T.aq.filter fun e => e.id != c.id } c.id
  match c.by_ with
  | .core pc =>
    let w := completionWord c st
    let T := T.pushCq (BitVec.ofNat 32 w)
    let ss := statusEvt st ++ (if c.op = 1 then [.prof 0x07 1] else []) ++ (if c.sat = 0 then [] else [.count Reg.ARR_SAT_COUNT_SAT_COLUMNS c.sat])
    if st ≤ 1 then (T.doneFlag c.done, ss)
    else
      let r := T.raise .array pc (BitVec.ofNat 64 w)
      (r.1, ss ++ (if st = stCheck then [.blame (T.failing c)] else []) ++ r.2)
  | _ => (T, [.loaderEnd c.id st])

/-- ARRAY_CMD_COMPLETE on a tile (R52): the command does what is left of it, and is reported once it has ended. -/
def Tile.completeCmd (x : ACtx) (T : Tile) (id : Nat) (phys : ArrPhys) : TRes :=
  match T.findCmd id with
  | none => (T, [])
  | some c =>
    let r := match c.stage with
      | .running => T.runCmd x c phys
      | _ => (T, [])
    let c1 := (r.1.findCmd id).getD c
    let T2 := match c1.stage with
      | .drain =>
        let d := r.1.drainLines (c1.flag 1) c1.out
        if !d.2.isEmpty && c1.fromCore && T.run == CoreRun.abandoned then d.1.endWait id
        else d.1.modCmd id fun c => if d.2.isEmpty then c.endWith c1.status else { c with out := d.2 }
      | _ => r.1
    let q := match T2.findCmd id with
      | some c2 => match c2.stage with
        | .ended st => T2.reportCmd c2 st
        | _ => (T2, [])
      | none => (T2, [])
    let k := q.1.arrayKick x
    (k.1, r.2 ++ q.2 ++ k.2)

end Sys2Proof.Machine
end

