-- ==== Sys2Proof/Machine/Mortar.lean ====
section
/-! DEFINITION. Remote operations of tiles and port stations (R181 to R183, R206 to R224), and route tables (R199 to R201). -/
namespace Sys2Proof.Machine

/-! ### Remote addresses (R182) -/

def remoteQueue (r : Nat) : Nat := bits r 48 6
def remoteAddr (r : Nat) : Nat := bits r 0 21
/-- Coordinates within their ranges, and no reserved bit set. -/
def remoteOk (r : Nat) : Bool :=
  bits r 54 10 == 0 && bits r 41 7 == 0 && bits r 21 3 == 0 && decide (bits r 32 8 < 165) && decide (bits r 24 8 < 160)
/-- The logical tile of a remote address (R155). -/
def remoteTile (r : Nat) : Nat := 26400 * bits r 40 1 + 160 * bits r 32 8 + bits r 24 8
/-- With COMPAT_G1 bit [40] of a remote address is ignored: the target lies in the issuing tile's wall (R193). -/
def inWallOf (compat : Bool) (t r : Nat) : Nat := if compat then r - 2 ^ 40 * bits r 40 1 + 2 ^ 40 * (t / 26400) else r
/-- The remote address `n` bytes on. -/
def remoteAt (r : W64) (n : Nat) : W64 := r + BitVec.ofNat 64 n

/-! ### Refusals and events (R219, R220, R222, R224) -/

/-- FIRST_REASON holds the code of the first refusal since MORTAR_EVT was all clear (R224): a bit that no refusal has set keeps
nothing out of it. -/
def Part.noteReason (P : Part) (code : Nat) : Part :=
  if P.getR Reg.MORTAR_EVT_FIRST_REASON = 0 && !P.flagR Reg.MORTAR_EVT_STATION_REFUSED && !P.flagR Reg.MORTAR_EVT_REMOTE_FAIL_SEEN then
    P.setR Reg.MORTAR_EVT_FIRST_REASON code
  else P

/-- A refusal of a station operation, reported to its context (R222, R223, R239). -/
def Part.stationRefused (P : Part) (code : Nat) : Part :=
  if code = 6 ∨ code = 7 ∨ code = 8 then P
  else
    let P := (P.noteReason code).evt Reg.MORTAR_EVT_STATION_REFUSED
    if code = 5 then P.evt Reg.TILE_EVT_SCRUB_REFUSED else P

/-- A response of tile `target` to whoever waits for a request: positive, or negative with a reason. -/
def answer (kind : PktKind) (remote : W64) (target : Nat) (reason : Option Nat) : Packet :=
  match kind with
  | .request _ src op _ => { kind := .ack src op reason remote, from_ := .tile target, target := src, remote := remote }
  | .station _ ctx st _ _ => { kind := .stationAck ctx st reason, from_ := .tile target, target := target, remote := remote }
  | k => { kind := k, from_ := .tile target, target := target, remote := remote }

/-- A packet enters the mortar. -/
def Mach.sendPkt (m : Mach) (p : Packet) : Mach :=
  { m with flight := m.flight ++ [{ p with id := m.nextPkt }], nextPkt := m.nextPkt + 1 }
def Mach.dropPkt (m : Mach) (id : Nat) : Mach := { m with flight := m.flight.filter fun p => p.id != id }

/-- What waits at a tile is turned away (R239): parked fills, and with `watch` the tagged reads of stations. -/
def Mach.dropWaiting (m : Mach) (t : Nat) (watch : Bool) : Mach :=
  let T := m.tile t
  let parked := T.park.filterMap fun e => e.2.map fun k => answer k.kind k.remote t (some 7)
  let watched := if watch then T.watch.map fun w => answer w.kind 0 t (some 8) else []
  (parked ++ watched).foldl Mach.sendPkt (m.setTile t { T with park := [], watch := if watch then [] else T.watch })

/-! ### The source (R181, R183, R206) -/

def mcmdKind : Nat → RKind
  | 1 => .put
  | 2 => .putFill
  | 3 => .get
  | 4 => .addI32
  | _ => .addF32

/-- Offset of the first faulty field of an MCMD block. -/
def mcmdFault (b : Nat) : Option Nat :=
  let fill := blk b 0 1 == 2
  let r := blk b 8 8
  let len := blk b 16 4
  if blk b 1 1 ≠ 0 then some 1
  else if !doneOk (blk b 2 2) then some 2
  else if blk b 4 4 % 64 ≠ 0 then some 4
  else if !remoteOk r || (!fill && remoteQueue r != 0) || remoteAddr r % 64 != 0 then some 8
  else if len % 64 ≠ 0 ∨ len < 64 ∨ (if fill then 512 else 65536) < len then some 16
  else if blk b 20 12 ≠ 0 then some 20
  else none

/-- A read of a line by the router (R134, R135): the line as it is left, signals, and whether the data are bad. A line already
poisoned only passes its poison on. -/
def Tile.routerLine (T : Tile) (t line : Nat) : Tile × List Sig × Bool :=
  if T.poisoned line then (T, [], true) else T.senseLine t line
def Tile.routerLines (T : Tile) (t : Nat) : List Nat → Tile × List Sig × List (List Byte × Bool)
  | [] => (T, [], [])
  | l :: ls =>
    let r := T.routerLine t l
    let q := r.1.routerLines t ls
    (q.1, r.2.1 ++ q.2.1, (T.readBytes (64 * l) 64, r.2.2) :: q.2.2)

/-- The packets of an operation: at most 8 lines each, ascending (R206). -/
def packetsOf (mk : Nat → List (List Byte × Bool) → Nat → Packet) : Nat → Nat → Nat → List (List Byte × Bool) → List Packet
  | 0, _, _, _ => []
  | fuel + 1, off, n, data =>
    if n = 0 then []
    else
      let k := Nat.min n 8
      mk off (data.take k) k :: packetsOf mk fuel (off + 64 * k) (n - k) (data.drop k)

/-- An MCMD (R181, R183). Its packets leave the router as it issues, so a source range is free again at once (R140); it keeps its place
in the router's queue of 8 until it is complete (log entry 92). -/
def mcmdIssue (t : TileId) (n : RegNo) (op : Nat) (s : State) : Host.Outcome State Fault Refusal :=
  lift (fun m => m.act t.val (blockIssue 0x2B t n (· == op) fun T b =>
    let r := inWallOf (m.ownerPart t.val).compat t.val (blk b 8 8)
    let rw : W64 := BitVec.ofNat 64 r
    let local_ := blk b 4 4
    let len := blk b 16 4
    let kind := mcmdKind op
    let dst := remoteTile r
    let ls := linesOf local_ len
    let rs := [lineRange local_ len (op == 3)]
    match T.blockGate (m.ownerPart t.val).compat (blk b 2 2) (mcmdFault b) (if m.samePart t.val dst then none else some rw)
        (T.check routerAllow local_ len) (decide (8 ≤ T.mq.length) || T.sbStall rs || m.testingAny t.val ls) with
    | some res => res
    | none =>
      let o : ROp := { id := T.nextId, pc := T.pc, kind := kind, flag := doneOf (blk b 2 2), remote := rw, localAddr := local_
                       left := (len / 64 + 7) / 8 }
      let q := if op = 3 then (T, [], []) else T.routerLines t.val ls
      let mk := fun (off : Nat) (data : List (List Byte × Bool)) (k : Nat) =>
        ({ kind := .request kind t.val T.nextId (remoteQueue r), from_ := .tile t.val, target := dst, addr := remoteAddr r + off, lines := data
           count := k, remote := remoteAt rw off } : Packet)
      let ps := packetsOf mk 128 0 (len / 64) q.2.2
      let T1 := if op = 3 then q.1.sbEnter T.nextId rs else q.1
      (Tile.advance { T1 with mq := T1.mq ++ [o], nextId := T.nextId + 1 },
       q.2.1 ++ ps.map Sig.send ++ [.prof 0x0A (if op = 3 then ps.length else len / 64), .prof 0x0B 1]))) s

/-- PUT (R212). -/
def execPut (t : TileId) (n : RegNo) (s : State) : Host.Outcome State Fault Refusal := mcmdIssue t n 1 s
/-- PUT_FILL (R212). -/
def execPutFill (t : TileId) (n : RegNo) (s : State) : Host.Outcome State Fault Refusal := mcmdIssue t n 2 s
/-- GET (R212). -/
def execGet (t : TileId) (n : RegNo) (s : State) : Host.Outcome State Fault Refusal := mcmdIssue t n 3 s
/-- ADD_I32 (R213). -/
def execAddI32 (t : TileId) (n : RegNo) (s : State) : Host.Outcome State Fault Refusal := mcmdIssue t n 4 s
/-- ADD_F32 (R213). -/
def execAddF32 (t : TileId) (n : RegNo) (s : State) : Host.Outcome State Fault Refusal := mcmdIssue t n 5 s

/-- BAD_BLOCK (R177, R183): a KCMD or MCMD whose OP is reserved; an unallocated flag comes first (R191). -/
def execBadBlock (t : TileId) (n : RegNo) (kiln : Bool) (s : State) : Host.Outcome State Fault Refusal :=
  lift (fun m => m.act t.val (blockIssue (if kiln then 0x28 else 0x2B) t n
    (fun op => if kiln then op != 1 && op != 2 else op == 0 || decide (6 ≤ op)) fun T b =>
      ((T.blockGate (m.ownerPart t.val).compat (blk b 2 2) (some 0) none .ok false).getD (T, [])))) s

/-! ### The target (R131, R142 to R144, R210 to R213, R219) -/

/-- The queue that owns a line (R143). A descriptor that does not read back (R136) is not valid. -/
def Tile.queueOwner (T : Tile) (line : Nat) : Option Nat :=
  (List.range 64).find? fun q =>
    let d := (Map.get 0 T.qdesc q).toNat
    !Map.get false T.qdescErr q && bits d 31 1 == 1 && decide (bits d 16 15 ≤ line) && decide (line ≤ bits d 16 15 + bits d 0 13)

/-- Why a target refuses an access: its reason code, the exception it raises if any, and the address. -/
abbrev Refuse := Nat × Option Cause × Nat

/-- The checks of an incoming access (R130, R131, R147, R148). A change of class that waits for earlier operations (R156) leaves the bank
ON. -/
def Tile.refuseAccess (T : Tile) (addr n : Nat) : Option Refuse :=
  let bs := banksOf addr (Nat.min n (padSize - addr))
  if padSize ≤ addr then some (2, some .range, addr)
  else match T.firstBad addr (fun k => decide (k.pwr ≠ .on) || k.changing) bs with
    | some a => some (2, some .range, a)
    | none =>
      if padSize < addr + n then some (2, some .range, padSize)
      else match T.firstBad addr (fun k => !routerAllow k.port) bs with
        | some a => some (1, some .portClass, a)
        | none => (T.firstBad addr (·.scrub) bs).map fun a => (5, none, a)

/-- The checks of a fill through a queue (R143, R144). -/
def Tile.refuseFill (T : Tile) (q addr n : Nat) : Option Refuse :=
  match T.refuseAccess addr (64 * n) with
  | some r => some r
  | none =>
    if (Map.get none T.park q).isSome then some (4, some .queueOverflow, q)
    else match (linesOf addr (64 * n)).find? fun l => T.tagFull l && T.queueOwner l != some q with
      | some l => some (3, some .fullNonowner, 64 * l)
      | none => none

/-- Lines of data written one after another, each with its poison mark; a fill also sets tags. -/
def Tile.putPkt (T : Tile) (fill : Bool) (line : Nat) : List (List Byte × Bool) → Tile
  | [] => T
  | l :: ls =>
    let T1 := T.storeLine line l.1 l.2
    (if fill then T1.setTag line true else T1).putPkt fill (line + 1) ls

/-- Element-wise sum of two lines. -/
def addLine (f32 : Bool) (a b : List Byte) : List Byte :=
  (List.range 16).flatMap fun i =>
    let x : W32 := BitVec.ofNat 32 (leNat ((a.drop (4 * i)).take 4))
    let y : W32 := BitVec.ofNat 32 (leNat ((b.drop (4 * i)).take 4))
    leBytes 4 (if f32 then addF32 x y else x + y).toNat

/-- A remote add, one line after another (R213). -/
def Tile.addPkt (T : Tile) (t : Nat) (f32 : Bool) (line : Nat) : List (List Byte × Bool) → TRes
  | [] => (T, [])
  | l :: ls =>
    let r := T.routerLine t line
    let T1 := r.1.storeLine line (addLine f32 (T.readBytes (64 * line) 64) l.1) (l.2 || r.2.2)
    let q := T1.addPkt t f32 (line + 1) ls
    (q.1, r.2.1 ++ q.2)

/-- A request performed at its target, with what is sent back. -/
def Tile.perform (T : Tile) (t : Nat) (kind : RKind) (q : Nat) (p : Packet) : Tile × List Sig × List Packet :=
  let line := p.addr / 64
  let ack := answer p.kind p.remote p.target none
  match kind with
  | .put => (T.putPkt false line p.lines, [], [ack])
  | .putFill =>
    if (List.range p.lines.length).any fun i => T.tagFull (line + i) then
      let rest := ((List.range p.lines.length).zip p.lines).map fun x => (line + x.1, x.2.1, x.2.2)
      ({ T with park := Map.set none T.park q (some ⟨p.kind, p.remote, rest⟩) }, [], [])
    else (T.putPkt true line p.lines, [], [ack])
  | .get =>
    let r := T.routerLines t ((List.range p.count).map (line + ·))
    match p.kind with
    | .request _ src op _ =>
      (r.1, r.2.1, [{ kind := .getData src op p.addr, from_ := .tile t, target := src, lines := r.2.2, remote := p.remote }])
    | _ => (r.1, r.2.1, [{ ack with lines := r.2.2 }])
  | .addI32 => let r := T.addPkt t false line p.lines; (r.1, r.2, [ack])
  | .addF32 => let r := T.addPkt t true line p.lines; (r.1, r.2, [ack])

/-- Tagged read of one line for a station (R222). -/
def Tile.taggedGet (T : Tile) (t : Nat) (p : Packet) : Tile × List Sig × List Packet :=
  let line := p.addr / 64
  if T.tagFull line then
    let r := T.routerLines t [line]
    (r.1.setTag line false, r.2.1, [{ answer p.kind p.remote p.target none with lines := r.2.2 }])
  else if T.watch.length < 4 then ({ T with watch := T.watch ++ [⟨p.kind, line⟩] }, [], [])
  else (T, [], [answer p.kind p.remote p.target (some 6)])

/-! ### Arrival -/

/-- Virtual channels (R207): 0 tile requests, 1 responses, 2 station traffic of every kind. -/
def Packet.channel (p : Packet) : Nat :=
  match p.kind with
  | .request _ _ _ _ => 0
  | .ack _ _ _ _ => 1
  | .getData _ _ _ => 1
  | .station _ _ _ _ _ => 2
  | .stationAck _ _ _ => 2
/-- Where a packet leaves the mortar. -/
def Packet.to_ (p : Packet) : Port :=
  match p.kind with
  | .stationAck _ st _ => .station st
  | _ => .tile p.target
/-- An earlier packet of the same channel between the same ends is still in flight. One route and one buffer per input and channel keep
packets in their order (R199, R207, R215, R223; log entry 93). -/
def Mach.earlier (m : Mach) (p : Packet) : Bool :=
  m.flight.any fun q => decide (q.id < p.id) && q.channel == p.channel && q.from_ == p.from_ && q.to_ == p.to_

/-- The partition that a request's link errors and refusals are counted for (R222, R224). -/
def Mach.pktPart (m : Mach) (p : Packet) : Option PartId :=
  match p.kind with
  | .request _ src _ _ => m.owner src
  | .ack src _ _ _ => m.owner src
  | .getData src _ _ => m.owner src
  | .station _ ctx _ _ _ => some ctx
  | .stationAck ctx _ _ => some ctx
def Mach.onPktPart (m : Mach) (p : Packet) (f : Part → Part) : Mach :=
  match m.pktPart p with
  | some q => m.modPart q.val f
  | none => m

/-- What the links did to a packet (R211). -/
def Mach.linkErr (m : Mach) (p : Packet) (err : LinkErr) : Mach × Packet :=
  match err with
  | .clean => (m, p)
  | .corrected => (m.onPktPart p fun P => (P.cnt Reg.MORTAR_CE_COUNT 1).evt Reg.MORTAR_EVT_LINK_CE, p)
  | .dataUe =>
    (m.onPktPart p fun P => (P.cnt Reg.MORTAR_UE_COUNT 1).evt Reg.MORTAR_EVT_LINK_UE,
     { p with lines := p.lines.map fun l => (l.1, true) })

/-- A packet refused by its target (R219): what the target records, and the negative answer. -/
def Mach.refusePkt (m : Mach) (p : Packet) (r : Refuse) : Mach :=
  let t := p.target
  let m1 := match p.kind with
    | .request _ src _ _ =>
      match r.2.1 with
      | some c => m.act t fun T => T.raise c 0xFFFF (BitVec.ofNat 64 (r.2.2 + 2 ^ 32 * src))
      | none => m.sig t (.evt Reg.TILE_EVT_SCRUB_REFUSED)
    | _ => m.onPktPart p fun P => P.stationRefused r.1
  m1.sendPkt (answer p.kind p.remote t (some r.1))

/-- The target's partition is abandoning its turn: a fill that would park, or a tagged read that would wait, ends instead (R239). -/
def Mach.turnsAway (m : Mach) (t : Nat) (tagged : Bool) (kind : RKind) (p : Packet) : Option Nat :=
  let T := m.tile t
  let stops := (m.owner t).any fun q => (m.part q.val).abandoning
  if stops && kind == .putFill && (List.range p.lines.length).any (fun i => T.tagFull (p.addr / 64 + i)) then some 7
  else if stops && tagged && T.member && !T.tagFull (p.addr / 64) then some 8
  else none

/-- The effect of a packet at its target. A tile of a pallet without regulation performs nothing (R202): log entry 94. -/
def Mach.arrive (m : Mach) (p : Packet) : Mach :=
  let t := p.target
  let T := m.tile t
  let go := fun (f : Tile → Tile × List Sig × List Packet) =>
    let r := f T
    (r.2.2.foldl Mach.sendPkt ((m.setTile t r.1).sigs t r.2.1))
  let act := fun (kind : RKind) (tagged : Bool) (q : Nat) =>
    let bad := if kind = .putFill then T.refuseFill q p.addr p.lines.length
      else T.refuseAccess p.addr (64 * (if kind = .get then p.count else p.lines.length))
    match bad with
    | some r => m.refusePkt p r
    | none => match m.turnsAway t tagged kind p with
      | some c => m.sendPkt (answer p.kind p.remote t (some c))
      | none => if tagged then go fun T => T.taggedGet t p else go fun T => T.perform t kind q p
  if (m.pallet (palletOf t)).dark then m.sendPkt (answer p.kind p.remote t (some 2))
  else match p.kind with
  | .request kind _ _ q => act kind false q
  | .station kind ctx _ tagged q => if m.owner t = some ctx then act kind tagged q else m.refusePkt p (0, none, 0)
  | _ => m

/-- A fill through a queue whose descriptor has an uncorrectable error: its tile raises UE_LOCAL (R136; log entry 85). -/
def Mach.senseDesc (m : Mach) (p : Packet) : Mach :=
  let raise := fun (q : Nat) =>
    if Map.get false (m.tile p.target).qdescErr q then
      m.act p.target fun T => T.raise .ueLocal 0xFFFF (BitVec.ofNat 64 (0x40 + q))
    else m
  match p.kind with
  | .request .putFill _ _ q => raise q
  | .station .putFill _ _ _ q => raise q
  | _ => m

def Packet.isRequest (p : Packet) : Bool :=
  match p.kind with
  | .request _ _ _ _ => true
  | .station _ _ _ _ _ => true
  | _ => false

/-! ### Routes (R196 to R202, R221) -/

/-- Pallet of port AL_nn (R496). -/
def linkPallet (l : Nat) : Nat := 60 * (l / 16) + 16 * (l % 16 / 4) + 4 + l % 4
/-- Pallet of a station (R20, R221): PE_0 in PALLET_031, PE_1 in PALLET_088. -/
def stationPallet (n : Nat) : Nat := if n = 0 then 31 else if n = 1 then 88 else linkPallet (n - 2)
/-- The four attachment routers of a station (R221). -/
def attachments (n : Nat) : List Phys :=
  let i := stationPallet n
  (List.range 4).map fun k =>
    if n = 0 then ⟨0, 90, Fin.ofNat 164 (159 + k)⟩
    else if n = 1 then ⟨1, 90, Fin.ofNat 164 (1 + k)⟩
    else ⟨Fin.ofNat 2 (i / 60), Fin.ofNat 180 (12 * (i % 60 / 4) + 5), Fin.ofNat 164 (41 * (i % 4) + 18 + k)⟩

/-- The links a hop takes (R196). -/
inductive HopKind where
  | neighbour | skip | express | bridge
deriving DecidableEq, Repr, Inhabited

/-- A hop of a route, and the router it reaches. A seam station lies at position 164 of WALL_0 and at −1 of WALL_1 (R197). -/
structure Hop where
  kind : HopKind
  w : Nat
  pc : Int
  pk : Int
deriving DecidableEq, Repr, Inhabited

/-- A router in transit service, or a seam station: its skip port passes over an edge router that is out (R197). -/
def Transit.up (x : Transit) (w : Nat) (pc pk : Int) : Bool :=
  (w == 0 && pk == 164) || (w == 1 && pk == -1)
    || (decide (0 ≤ pc) && decide (pc < 180) && decide (0 ≤ pk) && decide (pk < 164)
      && !x.dark.contains (60 * w + 4 * (pc.toNat / 12) + pk.toNat / 41)
      && !x.routers.any fun q => q.w.val == w && (q.pc.val : Int) == pc && (q.pk.val : Int) == pk)

/-- A leg: its wall, whether it runs north and south, its direction, where it ends, and its place on the other axis. -/
structure Leg where
  w : Nat
  ns : Bool
  s : Int
  dst : Int
  c : Int

def Leg.hop (l : Leg) (k : HopKind) (pos : Int) : Hop := if l.ns then ⟨k, l.w, pos, l.c⟩ else ⟨k, l.w, l.c, pos⟩
def Transit.upOn (x : Transit) (l : Leg) (pos : Int) : Bool := if l.ns then x.up l.w pos l.c else x.up l.w l.c pos

/-- The next hop of a leg, or none where the packet must detour (R199). No express link starts or ends past a wall edge. -/
def Transit.next (x : Transit) (l : Leg) (pos : Int) : Option (HopKind × Int) :=
  let d := (l.dst - pos).natAbs
  let inWall := fun (p : Int) => l.ns || (decide (0 ≤ p) && decide (p < 164))
  if decide (8 ≤ d) && inWall pos && inWall (pos + 8 * l.s) && x.upOn l (pos + 8 * l.s) then some (.express, pos + 8 * l.s)
  else if x.upOn l (pos + l.s) then some (.neighbour, pos + l.s)
  else if decide (2 ≤ d) && x.upOn l (pos + 2 * l.s) then some (.skip, pos + 2 * l.s)
  else none

/-- A leg without detours. -/
def Transit.straight (x : Transit) (l : Leg) : Nat → Int → Option (List Hop)
  | 0, _ => none
  | f + 1, pos =>
    if pos = l.dst then some []
    else match x.next l pos with
      | some h => (x.straight l f h.2).map (l.hop h.1 h.2 :: ·)
      | none => none

/-- A leg (R199, R200). Where two or more routers in a row are out, the packet steps aside to the east or south if that side lies in the
source's partition or neither does, runs past them, and steps back. -/
def Transit.leg (x : Transit) (own : Hop → Bool) (l : Leg) : Nat → Int → Option (List Hop)
  | 0, _ => none
  | f + 1, pos =>
    if pos = l.dst then some []
    else match x.next l pos with
      | some h => (x.leg own l f h.2).map (l.hop h.1 h.2 :: ·)
      | none =>
        match (List.range ((l.dst - pos).natAbs - 2)).find? fun (i : Nat) => x.upOn l (pos + (3 + (i : Int)) * l.s) with
        | none => none
        | some i =>
          let past := pos + (3 + (i : Int)) * l.s
          let side := fun (c : Int) => ({ l with dst := past, c := c } : Leg)
          let inside := fun (c : Int) => (List.range (i + 4)).all fun (k : Nat) => own ((side c).hop .neighbour (pos + (k : Int) * l.s))
          let a := side (if !inside (l.c + 1) && inside (l.c - 1) then l.c - 1 else l.c + 1)
          if !x.upOn a pos then none
          else match x.straight a 200 pos, x.leg own l f past with
            | some u, some v => some (a.hop .neighbour pos :: u ++ l.hop .neighbour past :: v)
            | _, _ => none

/-- The course whose bridge link carries the crossings of a course: its own, or, with that out, the next working one to the north, or to
the south (R16, R417). -/
def Transit.bridge (x : Transit) (pc : Nat) : Option Nat :=
  let ok := fun (c : Nat) => !x.bridges.contains c
  match (List.range (pc + 1)).find? fun i => ok (pc - i) with
  | some i => some (pc - i)
  | none => ((List.range (180 - pc)).find? fun i => ok (pc + i)).map (pc + ·)

/-- One leg between two positions. -/
def Transit.between (x : Transit) (own : Hop → Bool) (w : Nat) (ns : Bool) (c pos dst : Int) : Option (List Hop) :=
  x.leg own ⟨w, ns, if pos ≤ dst then 1 else -1, dst, c⟩ 200 pos

/-- The route between two routers (R199, R200): north and south, then east and west, over the bridge link of the target's course. A
crossing that must use another course's link changes course at the wall edges (log entry 95). -/
def Transit.route (x : Transit) (own : Hop → Bool) (a b : Phys) : Option (List Hop) :=
  match x.between own a.w.val true a.pk.val a.pc.val b.pc.val with
  | none => none
  | some n =>
    if a.w = b.w then (x.between own b.w.val false b.pc.val a.pk.val b.pk.val).map (n ++ ·)
    else match x.bridge b.pc.val with
      | none => none
      | some k =>
        let edge := fun (w : Nat) (c : Int) => if w = 0 then (if x.up w c 163 then 163 else 162) else if x.up w c 0 then (0 : Int) else 1
        let seam := fun (w : Nat) => if w = 0 then (164 : Int) else -1
        let e1 := edge a.w.val b.pc.val
        let e2 := edge b.w.val k
        if k = b.pc.val then
          match x.between own a.w.val false k a.pk.val (seam a.w.val), x.between own b.w.val false k (seam b.w.val) b.pk.val with
          | some u, some v => some (n ++ u ++ ⟨.bridge, b.w.val, k, seam b.w.val⟩ :: v)
          | _, _ => none
        else
          match x.between own a.w.val false b.pc.val a.pk.val e1, x.between own a.w.val true e1 b.pc.val k,
            x.between own a.w.val false k e1 (seam a.w.val), x.between own b.w.val false k (seam b.w.val) e2,
            x.between own b.w.val true e2 k b.pc.val, x.between own b.w.val false b.pc.val e2 b.pk.val with
          | some u, some v, some y, some z, some p, some q =>
            some (n ++ u ++ v ++ y ++ ⟨.bridge, b.w.val, k, seam b.w.val⟩ :: (z ++ p ++ q))
          | _, _, _, _, _, _ => none

/-- The physical position of a logical tile. -/
def Mach.physAt (m : Mach) (t : Nat) : Phys :=
  let q := m.physOf t
  ⟨Fin.ofNat 2 q.1, Fin.ofNat 180 q.2.1, Fin.ofNat 164 q.2.2⟩
/-- The router at an end of a packet: of a station, the first attachment router in transit service. -/
def Mach.routerAt (m : Mach) : Port → Phys
  | .tile t => m.physAt t
  | .station n => ((attachments n).find? fun q => m.tables.up q.w.val q.pc.val q.pk.val).getD ((attachments n).headD default)
/-- The pallets of a packet's partition, for the side of a detour. -/
def Mach.ownHop (m : Mach) (p : Packet) (h : Hop) : Bool :=
  let i := 60 * h.w + 4 * (h.pc.toNat / 12) + h.pk.toNat / 41
  decide (0 ≤ h.pc) && decide (h.pc < 180) && decide (0 ≤ h.pk) && decide (h.pk < 164) && (m.pallet i).owner.isSome
    && (m.pallet i).owner == match p.from_ with
      | .tile t => m.owner t
      | .station _ => m.owner p.target
/-- The route of a packet under the route tables. -/
def Mach.routeOf (m : Mach) (p : Packet) : Option (List Hop) :=
  m.tables.route (m.ownHop p) (m.routerAt p.from_) (m.routerAt p.to_)
/-- A packet can reach its end: no earlier one of its channel is on the same way, and it has a route; one to a pallet without regulation
is turned away on the way (log entry 94). -/
def Mach.delivers (m : Mach) (p : Packet) : Bool :=
  !m.earlier p && ((m.routeOf p).isSome || (m.pallet (palletOf p.target)).dark)

/-- PACKET_ARRIVAL (R219). -/
def execPacketArrival (pkt : Nat) (err : LinkErr) (s : State) : Host.Outcome State Fault Refusal :=
  lift (fun m =>
    match m.flight.find? fun p => p.id == pkt with
    | none => m
    | some p =>
      if !p.isRequest || !m.delivers p then m
      else
        let r := (m.dropPkt pkt).linkErr p err
        (r.1.senseDesc r.2).arrive r.2) s

/-- The lines of a parked fill written in order while their tags are empty: what is left. -/
def Tile.unpark (T : Tile) : List (Nat × List Byte × Bool) → Tile × List (Nat × List Byte × Bool)
  | [] => (T, [])
  | l :: ls => if T.tagFull l.1 then (T, l :: ls) else ((T.storeLine l.1 l.2.1 l.2.2).setTag l.1 true).unpark ls

/-- PARK_ENTRY_WRITE (R143): the acknowledgement follows the last line (R212). -/
def execParkEntryWrite (t : TileId) (q : QueueNo) (s : State) : Host.Outcome State Fault Refusal :=
  lift (fun m =>
    let T := m.tile t.val
    match Map.get none T.park q.val with
    | none => m
    | some k =>
      let r := T.unpark k.lines
      if r.2.isEmpty then
        (m.setTile t.val { r.1 with park := Map.set none r.1.park q.val none }).sendPkt (answer k.kind k.remote t.val none)
      else m.setTile t.val { r.1 with park := Map.set none r.1.park q.val (some { k with lines := r.2 }) }) s

/-- S_TGET_WATCH_READ (R222). -/
def execSTgetWatchRead (t : TileId) (i : Fin 4) (s : State) : Host.Outcome State Fault Refusal :=
  lift (fun m =>
    let T := m.tile t.val
    match T.watch[i.val]? with
    | none => m
    | some w =>
      if !T.tagFull w.line then m
      else
        let r := T.routerLines t.val [w.line]
        let T1 : Tile := { r.1 with watch := r.1.watch.eraseIdx i.val }
        ((m.setTile t.val (T1.setTag w.line false)).sigs t.val r.2.1).sendPkt
          { answer w.kind 0 t.val none with lines := r.2.2 }) s

/-! ### Responses (R217, R220, R240) -/

def Tile.modOp (T : Tile) (id : Nat) (f : ROp → ROp) : Tile :=
  { T with mq := T.mq.map fun o => if o.id = id then f o else o }

/-- One packet of an operation has been answered; after the last the operation ends, and sets its flag if none was refused. -/
def Tile.answered (T : Tile) (id : Nat) : Tile :=
  match T.mq.find? fun o => o.id == id with
  | none => T
  | some o =>
    if 1 < o.left then T.modOp id fun o => { o with left := o.left - 1 }
    else
      let T1 := Tile.sbRetire { T with mq := T.mq.filter fun o => o.id != id } id
      if o.refused.isNone && !o.stale then T1.doneFlag o.flag else T1

/-- A refused packet: REMOTE_FAIL once for the operation, unless an abandonment has stopped its tile (R220, R240). -/
def Tile.refusedBy (T : Tile) (id code : Nat) (remote : W64) : TRes :=
  match T.mq.find? fun o => o.id == id with
  | none => (T, [])
  | some o =>
    let T1 := T.modOp id fun o => if o.refused.isSome then o else { o with refused := some code, refusedAt := remote }
    if o.refused.isSome || o.stale || T.run == .abandoned then (T1, []) else T1.raise .remoteFail o.pc remote

/-- A response returns to its source tile. -/
def Mach.response (m : Mach) (src op : Nat) (reason : Option Nat) (remote : W64) : Mach :=
  match reason with
  | none => m.modTile src fun T => T.answered op
  | some code =>
    let o := (m.tile src).mq.find? fun o => o.id == op
    let fresh := o.any fun o => o.refused.isNone
    let m1 := match m.owner src with
      | some p => if fresh && code != 7 && code != 8 then m.modPart p.val fun P => P.noteReason code else m
      | none => m
    (m1.act src fun T => T.refusedBy op code remote).modTile src fun T => T.answered op

/-- REMOTE_ACK (R220). -/
def execRemoteAck (pkt : Received) (s : State) : Host.Outcome State Fault Refusal :=
  lift (fun m =>
    match m.flight.find? fun p => p.id == pkt.id with
    | some p => match p.kind with
      | .ack src op reason remote =>
        if m.earlier p then m else ((m.dropPkt pkt.id).linkErr p pkt.err).1.response src op reason remote
      | _ => m
    | none => m) s

/-- GET_DATA_ARRIVAL (R212): the data carry their poison (R219), and that of a link error (R211). -/
def execGetDataArrival (pkt : Received) (s : State) : Host.Outcome State Fault Refusal :=
  lift (fun m =>
    match m.flight.find? fun p => p.id == pkt.id with
    | some p => match p.kind with
      | .getData src op at_ =>
        if m.earlier p then m
        else
          let r := (m.dropPkt pkt.id).linkErr p pkt.err
          r.1.modTile src fun T =>
            match T.mq.find? fun o => o.id == op with
            | none => T
            | some o => (T.putPkt false ((o.localAddr + at_ - remoteAddr o.remote.toNat) / 64) r.2.lines).answered op
      | _ => m
    | none => m) s

/-! ### Port stations (R221 to R223) -/

/-- A station issues an operation, in packets of at most 8 lines. -/
def Mach.stationSend (m : Mach) (p : PartId) (st : Nat) (kind : RKind) (tagged : Bool) (target : W64) (lines : List (List Byte))
    (n : Nat) : Mach :=
  let r := target.toNat
  if !remoteOk r || remoteAddr r % 64 != 0 then m
  else
    let mk := fun (off : Nat) (data : List (List Byte × Bool)) (k : Nat) =>
      ({ kind := .station kind p st tagged (remoteQueue r), from_ := .station st, target := remoteTile r, addr := remoteAddr r + off, lines := data
         count := k, remote := remoteAt target off } : Packet)
    (packetsOf mk (n + 1) 0 n (lines.map fun l => ((l ++ leBytes (64 - l.length) 0).take 64, false))).foldl Mach.sendPkt m
/-- A station operation as a command. -/
def stationOp (p : PartId) (st : Nat) (kind : RKind) (tagged : Bool) (target : W64) (lines : List (List Byte)) (n : Nat) :
    State → Host.Outcome State Fault Refusal :=
  lift fun m => m.stationSend p st kind tagged target lines n

/-- S_PUT (R222). -/
def execSPut (p : PartId) (station : Nat) (target : W64) (lines : List (List Byte)) (s : State) :
    Host.Outcome State Fault Refusal := stationOp p station .put false target lines lines.length s
/-- S_FILL (R222): one packet, as PUT_FILL. -/
def execSFill (p : PartId) (station : Nat) (target : W64) (lines : List (List Byte)) (s : State) :
    Host.Outcome State Fault Refusal :=
  if 8 < lines.length then lift (fun m => m) s else stationOp p station .putFill false target lines lines.length s
/-- S_GET (R222). -/
def execSGet (p : PartId) (station : Nat) (target : W64) (n : Nat) (s : State) : Host.Outcome State Fault Refusal :=
  stationOp p station .get false target [] n s
/-- S_TGET (R222). -/
def execSTget (p : PartId) (station : Nat) (target : W64) (s : State) : Host.Outcome State Fault Refusal :=
  stationOp p station .get true target [] 1 s

/-! ### The turn sequencer's own operations (R222, R235, R266) -/

/-- Lines written by S_PUT, one after another; a refused one is reported to the context (R222, R266). -/
def Mach.stationPut (m : Mach) (p : PartId) (t : Nat) : Nat → List (List Byte) → Mach
  | _, [] => m
  | line, l :: ls =>
    let m1 := match (m.tile t).refuseAccess (64 * line) 64 with
      | some r => m.modPart p.val fun P => P.stationRefused r.1
      | none => m.modTile t fun T => T.storeLine line l false
    m1.stationPut p t (line + 1) ls

/-- The number under which the answers to a partition's turn sequencer return, beside the 34 stations of R221 (log entry 97). -/
def seqStation (p : PartId) : Nat := 34 + p.val

/-- One S_FILL of the turn sequencer: performed, parked (true), or refused and reported (R143, R144, R222). -/
def Mach.fillOp (m : Mach) (p : PartId) (t q line : Nat) (ls : List (List Byte)) : Mach × Bool :=
  let T := m.tile t
  if m.owner t ≠ some p then (m.modPart p.val fun P => P.stationRefused 0, false)
  else match T.refuseFill q (64 * line) ls.length with
    | some r => (m.modPart p.val fun P => P.stationRefused r.1, false)
    | none =>
      let k : Packet := { kind := .station .putFill p (seqStation p) false q, target := t, addr := 64 * line
                          lines := ls.map fun l => (l, false) }
      let r := T.perform t .putFill q k
      (m.setTile t r.1, r.2.2.isEmpty)

/-- Operations issued in order until one parks: what is left of them, and whether one waits. -/
def Mach.fillOps (m : Mach) (p : PartId) (t q : Nat) : List (Nat × List (List Byte)) → Mach × List (Nat × List (List Byte)) × Bool
  | [] => (m, [], false)
  | x :: xs =>
    let r := m.fillOp p t q x.1 x.2
    if r.2 then (r.1, xs, true) else r.1.fillOps p t q xs

/-- The card goes on to every dispatch tile that has acknowledged its last operation (R235). -/
def Mach.feedCards (m : Mach) (p : PartId) : Mach :=
  let r := (m.part p.val).cardOut.foldl (fun (a : Mach × List CardOut) o =>
    if o.waiting then (a.1, a.2 ++ [o])
    else
      let q := a.1.fillOps p o.tile o.queue o.ops
      (q.1, if q.2.2 then a.2 ++ [{ o with waiting := true, ops := q.2.1 }] else a.2)) (m, [])
  r.1.modPart p.val fun P => { P with cardOut := r.2 }

/-- A dispatch tile has answered the turn sequencer. -/
def Part.cardAnswered (P : Part) (t : Nat) : Part :=
  { P with cardOut := P.cardOut.map fun o => if o.tile = t then { o with waiting := false } else o }

/-- STATION_RESPONSE (R222, R223): the station's oldest answer returns; an S_TGET refused for a full watch is issued again, and a turn
sequencer whose fill has been answered goes on with its card (R235). -/
def execStationResponse (station : Received) (s : State) : Host.Outcome State Fault Refusal :=
  lift (fun m =>
    let mine := fun (p : Packet) => match p.kind with
      | .stationAck _ st _ => st == station.id
      | _ => false
    match m.flight.find? mine with
    | none => m
    | some p =>
      let m1 := ((m.dropPkt p.id).linkErr p station.err).1
      match p.kind with
      | .stationAck ctx st (some 6) =>
        m1.sendPkt { kind := .station .get ctx st true 0, from_ := .station st, target := p.target,
                     addr := remoteAddr p.remote.toNat, count := 1, remote := p.remote }
      | .stationAck ctx st _ =>
        if st = seqStation ctx then
          (m1.modPart ctx.val fun P => match p.from_ with | .tile t => P.cardAnswered t | _ => P).feedCards ctx
        else m1
      | _ => m1) s

/-! ### Links and routes (R198 to R201, R211) -/

/-- FLIT_RETRANSMIT (R211): the fourth starts the link's self-test. -/
def execFlitRetransmit (link : LinkUnit) (nth : Nat) (s : State) : Host.Outcome State Fault Refusal :=
  lift (fun m => if 4 ≤ nth then m.startTest (.link link) else m) s
/-- LINK_ERROR_RATE (R211). -/
def execLinkErrorRate (link : LinkUnit) (s : State) : Host.Outcome State Fault Refusal :=
  lift (fun m => m.startTest (.link link)) s

def between (a b x : Nat) : Bool := (decide (a ≤ x) && decide (x ≤ b)) || (decide (b ≤ x) && decide (x ≤ a))

/-- The north–south leg of some route between tiles of a set of pallets passes the pallet at (w, row, col) (R199): it lies in the source's
span column. -/
def crossNS (ps : List Nat) (w row col : Nat) : Bool :=
  ps.any fun a => a / 60 == w && palCol a == col && ps.any fun b => between (palRow a) (palRow b) row
/-- The east–west leg of some route passes the pallet: it lies in the target's pallet row. -/
def crossEW (ps : List Nat) (w row col : Nat) : Bool :=
  ps.any fun b => palRow b == row && ps.any fun a =>
    if a / 60 = b / 60 then b / 60 == w && between (palCol a) (palCol b) col
    else if w = a / 60 then between (palCol a) (if w = 0 then 3 else 0) col
    else between (palCol b) (if w = 0 then 3 else 0) col
/-- A crossing that another course's bridge link carries passes the pallet at the wall edge: some course of a target's pallet row has
its own link out. -/
def crossBridge (bridges : List Nat) (ps : List Nat) (w row col : Nat) : Bool :=
  col == (if w = 0 then 3 else 0) && (ps.any fun a => a / 60 == 0) && ps.any (fun a => a / 60 == 1)
    && bridges.any fun pc => (ps.any fun b => palRow b == pc / 12)
      && (Transit.bridge ⟨[], [], bridges⟩ pc).any fun k => between (pc / 12) (k / 12) row
/-- A route between tiles of a set of pallets passes a pallet. -/
def routesCross (bridges : List Nat) (ps : List Nat) (w row col : Nat) : Bool :=
  crossNS ps w row col || crossEW ps w row col || crossBridge bridges ps w row col

/-- A route between tiles of the partition may pass a router, taken by whole pallets, under the tables in force or the maps as they are
now. -/
def Mach.routesPass (m : Mach) (p : Nat) (q : Phys) : Bool :=
  routesCross (m.tables.bridges ++ m.bridgesOut) (m.palletsOf p) q.w.val (q.pc.val / 12) (q.pk.val / 41)

/-- Routers change: route tables wait, and every partition whose routes pass them takes a service hold (R201). -/
def Mach.changeRoutes (m : Mach) (qs : List Phys) : Mach :=
  let new := partIds.filter fun p => !m.routeHolds.contains p && qs.any fun q => m.routesPass p q
  new.foldl (fun m p => m.modPart p fun P => { P with service := P.service + 1 })
    { m with routesStale := m.routesStale ++ qs, routeHolds := m.routeHolds ++ new }

/-- The maps as they are now. -/
def Mach.transit (m : Mach) : Transit := ⟨m.routersOut, (m.pallets.filter fun e => e.2.dark).map (·.1), m.bridgesOut⟩

/-- The route tables hold a detour for the partition (R200, R224): two routers in a row are out on a leg of its routes, along the leg, or
its routes pass a pallet without regulation. -/
def Mach.detours (m : Mach) (p : Nat) : Bool :=
  let ps := m.palletsOf p
  let x := m.tables
  (x.dark.any fun i => routesCross x.bridges ps (i / 60) (palRow i) (palCol i))
    || x.routers.any fun q => x.routers.any fun r => r.w == q.w
      && ((r.pc.val == q.pc.val + 1 && r.pk == q.pk && crossNS ps q.w.val (q.pc.val / 12) (q.pk.val / 41))
        || (r.pk.val == q.pk.val + 1 && r.pc == q.pc && crossEW ps q.w.val (q.pc.val / 12) (q.pk.val / 41)))
/-- DETOUR of a partition whose tables hold one. -/
def Mach.noteDetour (m : Mach) (p : Nat) : Mach :=
  if m.detours p then m.modPart p fun P => P.evt Reg.MORTAR_EVT_DETOUR else m

/-- ROUTE_TABLE_REWRITE (R201): once every packet in flight is delivered and the partitions concerned hold. -/
def execRouteTableRewrite (s : State) : Host.Outcome State Fault Refusal :=
  lift (fun m =>
    if m.routesStale.isEmpty || !m.flight.isEmpty
        || m.routeHolds.any fun p => !(m.members p).isEmpty && !(m.part p).holding then m
    else
      partIds.foldl Mach.noteDetour
        (m.routeHolds.foldl (fun m p => m.modPart p fun P => { P with service := P.service - 1 })
          { m with routesStale := [], routeHolds := [], tables := m.transit })) s

end Sys2Proof.Machine
end

