-- ==== Sys2Proof/Machine/Rings.lean ====
section
/-! DEFINITION. The rings a partition shares with its host: records written, interrupts, events, completions and token records
(R299 to R306, R315 to R322, R392 to R396, R429), and the fetch of descriptors (R304, R305). -/
namespace Sys2Proof.Machine

/-- What writing to a partition's rings needs of the module: the partition, module time, and the function that carries the
rings with whether it can be reached (R482, R483, R429). -/
structure HCtx where
  p : PartId
  now : Nat
  port : PortId
  func : Nat
  up : Bool
deriving DecidableEq, Repr, Inhabited

/-- The function FUNC_MAP names for a partition on a port, if any (R482, R511). -/
def Mach.funcOn (m : Mach) (p : Nat) (port : Nat) : Option Nat :=
  if port = 0 then
    if m.flagR (Reg.FUNC_MAP_PE0_VALID p) then some (m.getR (Reg.FUNC_MAP_PE0_FUNC p)) else none
  else if m.flagR (Reg.FUNC_MAP_PE1_VALID p) then some (m.getR (Reg.FUNC_MAP_PE1_FUNC p)) else none

def HostPort.func (h : HostPort) (f : Nat) : Func := Map.get {} h.funcs f
/-- A function is enabled (R483). VF n has number n − 1. -/
def HostPort.enabled (h : HostPort) (f : Nat) : Bool :=
  let g := h.func f
  g.d0 && g.busMaster && !g.flr && (f == 0 || (h.vfEnable && decide (f ≤ h.numVfs)))
/-- The port is not down and the function is enabled. -/
def Mach.funcUp (m : Mach) (port f : Nat) : Bool := (m.hostPort port).up && (m.hostPort port).enabled f

def Mach.hctx (m : Mach) (p : PartId) : HCtx :=
  let port := (m.part p.val).getR Reg.SERVE_CFG_PORT
  let f := m.funcOn p.val port
  { p := p, now := m.timeUs, port := Fin.ofNat 2 port, func := f.getD 0, up := f.any fun f => m.funcUp port f }

/-- A change of a partition with what it sends out. -/
abbrev PRes := Part × List Out
def PRes.andThen (r : PRes) (f : Part → PRes) : PRes := ((f r.1).1, r.2 ++ (f r.1).2)
/-- The same change for each item of a list. -/
def forEach {α : Type} (l : List α) (f : α → Part → PRes) (r : PRes) : PRes := l.foldl (fun r x => r.andThen (f x)) r

/-- A change of one partition takes effect; requests it ended with DATA_ERROR or SCHED_FAULT are counted (R433). -/
def Mach.onPart (m : Mach) (p : PartId) (f : HCtx → Part → PRes) : Mach :=
  let r := f (m.hctx p) (m.part p.val)
  { (m.setPart p.val { r.1 with faultEnds := 0 }).cnt Reg.SVC_STOP_COUNT_STOPS r.1.faultEnds with out := m.out ++ r.2 }

/-! ### Rings -/

end Sys2Proof.Machine

namespace Sys2Proof

/-- Number of a ring in SERVE_SETUP (R336). -/
def RingId.num : RingId → Nat
  | .completion => 1
  | .event => 2
  | .stream n => 3 + n.val
/-- Class of a ring's records (R393) and the offset of their PHASE bit. -/
def RingId.cls : RingId → Nat
  | .completion => 0x81
  | .event => 0x83
  | .stream _ => 0x82
def RingId.index : RingId → Nat
  | .stream n => n.val
  | _ => 0
def RingId.phaseAt : RingId → Nat
  | .completion => 63
  | _ => 31

end Sys2Proof

namespace Sys2Proof.Machine

def Part.ring (P : Part) (r : Nat) : Ring := Map.get {} P.rings r
def Part.modRing (P : Part) (r : Nat) (f : Ring → Ring) : Part := { P with rings := Map.set {} P.rings r (f (P.ring r)) }
def Part.ringSize (P : Part) (r : Nat) : Nat := 64 * 2 ^ P.getR (Reg.RING_CFG_SIZE_CODE r)
def Part.ringOn (P : Part) (r : Nat) : Bool := P.flagR (Reg.RING_CFG_ENABLE r)
/-- Entries written and not consumed. -/
def Part.ringUsed (P : Part) (r : Nat) : Nat :=
  (P.ringSize r + (P.ring r).prod - (P.ring r).cons) % P.ringSize r
def Part.ringFull (P : Part) (r : Nat) : Bool := P.ringUsed r + 1 == P.ringSize r

/-- Generation outbound envelopes carry (R391). -/
def Keys.outGen (k : Keys) : Nat := if k.outOld.isSome then (k.gen + 255) % 256 else k.gen
/-- Outbound envelopes of a class and index can be written: keys are held and SEQ has not reached 2^48 (R301, R396). -/
def Part.nonceOk (P : Part) (cls idx : Nat) : Bool :=
  !P.confidential || (P.keys.outKey.isSome && decide (Map.get 0 P.keys.outSeq (256 * cls + idx) < 2 ^ 48))

def byteOfBool (b : Bool) : Byte := if b then 1 else 0

/-- The header of an outbound envelope, and its SEQ counted (R392, R396). -/
def Part.seal (P : Part) (cls idx len : Nat) : Part × Option Envelope :=
  if P.confidential then
    let n := Map.get 0 P.keys.outSeq (256 * cls + idx)
    let k := { P.keys with outSeq := Map.set 0 P.keys.outSeq (256 * cls + idx) (n + 1) }
    let P := if n + 1 = 2 ^ 40 then P.evt Reg.PART_EVT_NONCE_LIMIT else P
    ({ P with keys := k }, some ⟨n, len, BitVec.ofNat 8 cls, BitVec.ofNat 8 idx, BitVec.ofNat 8 k.outGen, true⟩)
  else (P, none)

/-- A record can be written now. -/
def Part.canEmit (P : Part) (c : HCtx) (rid : RingId) : Bool :=
  c.up && P.ringOn rid.num && !P.ringFull rid.num && P.nonceOk rid.cls rid.index

/-- One record written to its ring (R300, R301), kept for failover (R429), and signalled by R306. -/
def Part.emit (P : Part) (c : HCtx) (rid : RingId) (bytes : List Byte) : PRes :=
  let r := rid.num
  let R := P.ring r
  let rec0 := bytes.set rid.phaseAt (byteOfBool R.phase)
  let s := P.seal rid.cls rid.index bytes.length
  let next := (R.prod + 1) % P.ringSize r
  let kept := (R.kept ++ [bytes]).drop ((R.kept.length + 1) - 1024)
  let n := R.unsignalled + 1
  let fire := decide (P.getR (Reg.RING_CFG_COALESCE r) ≤ n)
  let R' := { R with
    prod := next
    phase := if next = 0 then !R.phase else R.phase
    kept := kept
    unsignalled := if fire then 0 else n
    sinceUs := if R.unsignalled = 0 then c.now else R.sinceUs }
  ((s.1).modRing r fun _ => R',
   .record c.p c.port rid R.prod rec0 s.2 ::
     (if fire then [.msix c.port c.func (P.getR (Reg.RING_CFG_VECTOR r))] else []))

/-! ### Events (R321, R322) -/

def eventBytes (code now a0 a1 : Nat) : List Byte :=
  leBytes 2 code ++ leBytes 2 0 ++ leBytes 4 now ++ leBytes 8 a0 ++ leBytes 8 a1 ++ leBytes 8 0

/-- An event of the partition: written, or waiting where the port is down, or dropped with EQ_LOST. -/
def Part.event (P : Part) (c : HCtx) (code a0 a1 : Nat) : PRes :=
  let b := eventBytes code c.now a0 a1
  if !P.ringOn 2 || decide (P.ringSize 2 ≤ P.ringUsed 2 + (P.ring 2).waiting.length + 1) then
    (P.evt Reg.SERVE_EVT_EQ_LOST, [])
  else if P.canEmit c .event && (P.ring 2).waiting.isEmpty then P.emit c .event b
  else (P.modRing 2 fun R => { R with waiting := R.waiting ++ [⟨0, b, false, false⟩] }, [])

/-- Events of the module to one partition and to every SEALED partition (R434). -/
def Mach.eventTo (m : Mach) (p : PartId) (code a0 a1 : Nat) : Mach := m.onPart p fun c P => P.event c code a0 a1
def Mach.eventAll (m : Mach) (code a0 a1 : Nat) : Mach :=
  (List.finRange 16).foldl (fun m p => if (m.part p.val).isSealed then m.eventTo p code a0 a1 else m) m
/-- An event of a unit goes to the partition that owns its pallet. -/
def Mach.eventPallet (m : Mach) (pal code a0 a1 : Nat) : Mach :=
  match (m.pallet pal).owner with
  | some p => m.eventTo p code a0 a1
  | none => m

/-! ### Requests by SUBMIT_SEQ -/

def Part.modReq (P : Part) (seq : Nat) (f : Req → Req) : Part :=
  let g := fun (r : Req) => if r.seq = seq then f r else r
  { P with
    slots := P.slots.map fun e => (e.1, { e.2 with req := e.2.req.map g })
    waitingDone := P.waitingDone.map fun d => { d with req := g d.req } }
def Part.findReq (P : Part) (seq : Nat) : Option Req :=
  match P.slots.findSome? fun e => e.2.req.bind fun r => if r.seq = seq then some r else none with
  | some r => some r
  | none => (P.waitingDone.find? fun d => d.req.seq == seq).map (·.req)

/-! ### Completion records (R315, R316) -/

def Status.code : Status → Nat
  | .completed => 0 | .cancelled => 1 | .busy => 2 | .badDesc => 3 | .authFail => 4 | .dataError => 5 | .schedFault => 6
  | .notFound => 7 | .steerBusy => 8 | .partFaulted => 9 | .killed => 10 | .fetchError => 11

def DescType.code : DescType → Nat
  | .generate => 1 | .tune => 2 | .cancel => 3 | .draft => 4 | .steerWrite => 5 | .steerRead => 6

def b2n (b : Bool) : Nat := if b then 1 else 0

/-- The record of R315, its PHASE still zero. A descriptor that failed authentication reports TAG and TYPE zero (R395). -/
def Part.doneBytes (P : Part) (d : Done) : List Byte :=
  let r := d.req
  let auth := d.status == .authFail && d.slot.isNone
  let flags := b2n r.cancelLate + 2 * b2n r.endToken + 4 * b2n r.limit + 8 * b2n r.replayed + 16 * b2n r.hostPaused
    + 32 * b2n r.held
  leBytes 8 r.seq ++ leBytes 8 (if auth then 0 else r.desc.tag.toNat) ++ leBytes 1 (if auth then 0 else r.desc.code)
    ++ leBytes 1 d.status.code ++ leBytes 1 flags ++ leBytes 1 r.desc.cls
    ++ leBytes 2 (match d.slot with | some s => P.getR Reg.SERVE_CFG_SLOT_BASE + s | none => 0xFFFF)
    ++ leBytes 1 (if d.slot.isSome then r.wver.val else 0xFF) ++ leBytes 1 d.reason
    ++ leBytes 4 r.tokens ++ leBytes 4 r.ttftUs ++ leBytes 4 r.tbtMax
    ++ leBytes 4 (if r.tbtCount = 0 then 0 else r.tbtSum / r.tbtCount) ++ leBytes 4 d.waitUs ++ leBytes 4 r.accepted
    ++ leBytes 8 d.endTurn ++ leBytes 4 r.loss.toNat ++ leBytes 4 0

/-- A completion record is written, or waits where the port is down (R429); its descriptor is no longer owed. -/
def Part.writeDone (P : Part) (c : HCtx) (d : Done) : PRes :=
  let P := { P with owed := P.owed - 1 }
  let P := if d.status = .busy then (P.evt Reg.SERVE_EVT_BUSY_SEEN).cnt (Reg.CLASS_STAT_BUSY_COUNT d.req.desc.cls) 1 else P
  let P := if d.status = .badDesc then P.evt Reg.SERVE_EVT_BAD_DESC_SEEN else P
  if P.canEmit c .completion && (P.ring 1).waiting.isEmpty then P.emit c .completion (P.doneBytes d)
  else (P.modRing 1 fun R => { R with waiting := R.waiting ++ [⟨d.req.seq, P.doneBytes d, false, false⟩] }, [])

/-- Token records of a request still wait in its stream ring. -/
def Part.tokensWait (P : Part) (r : Req) : Bool := (P.ring (3 + r.desc.stream)).waiting.any fun w => w.seq == r.seq

/-- A request ends: its record follows its last token record (R301). -/
def Part.complete (P : Part) (c : HCtx) (d : Done) : PRes :=
  let P := if d.status == .dataError || d.status == .schedFault then { P with faultEnds := P.faultEnds + 1 } else P
  if P.tokensWait d.req then ({ P with waitingDone := P.waitingDone ++ [d] }, []) else P.writeDone c d

/-- Completions whose token records have all been written. -/
def Part.flushDone (P : Part) (c : HCtx) : PRes :=
  let ready := P.waitingDone.filter fun d => !P.tokensWait d.req
  forEach ready (fun d P => P.writeDone c d)
    ({ P with waitingDone := P.waitingDone.filter fun d => P.tokensWait d.req }, [])

/-! ### Token records (R317 to R319, R327, R328) -/

/-- The figures of a request as one of its token records is written. A pause that runs is left out up to now; the rest of it belongs to
the next interval (R320). -/
def Part.noteToken (P : Part) (now : Nat) (w : TokenRec) : Part :=
  match P.findReq w.seq with
  | none => P
  | some r =>
    let k := r.desc.cls
    let ttft := now - r.bellUs
    let P := if w.first then
        let P := P.modReq w.seq fun r => { r with ttftUs := ttft }
        let lim := P.getR (Reg.CLASS_TIME_TTFT_TARGET k)
        if lim ≠ 0 ∧ 1000 * lim < ttft then P.cnt (Reg.CLASS_STAT_TTFT_MISS k) 1 else P
      else P
    if w.last then
      let running := match r.pausedAt with | some t => now - t | none => 0
      let gap := now - r.lastTokenUs - (r.pausedUs + running)
      let P := if r.lastTokenUs = 0 then P else
        let tgt := P.getR (Reg.CLASS_TBT_TBT_TARGET k)
        let ceil := P.getR (Reg.CLASS_TBT_TBT_CEIL k)
        let P := P.modReq w.seq fun r =>
          { r with tbtMax := Nat.max r.tbtMax gap, tbtSum := r.tbtSum + gap, tbtCount := r.tbtCount + 1 }
        let P := if tgt ≠ 0 ∧ tgt < gap then P.cnt (Reg.CLASS_STAT_TBT_MISS k) 1 else P
        if ceil ≠ 0 ∧ ceil < gap then (P.cnt (Reg.CLASS_STAT_CEIL_MISS k) 1).evt Reg.SERVE_EVT_CEIL_MISS else P
      P.modReq w.seq fun r => { r with lastTokenUs := now, pausedUs := 0, pausedAt := r.pausedAt.map fun _ => now }
    else P

/-- The time of writing set in a token record. -/
def stampTime (now : Nat) (b : List Byte) : List Byte := b.take 24 ++ leBytes 4 now ++ b.drop 28

/-- Waiting records of a stream ring written while there is room, oldest first. -/
def Part.drainStream (P : Part) (c : HCtx) (n : Fin 64) : Nat → PRes
  | 0 => (P, [])
  | fuel + 1 =>
    match (P.ring (3 + n.val)).waiting with
    | [] => (P, [])
    | w :: ws =>
      if P.canEmit c (.stream n) then
        let r := (P.modRing (3 + n.val) fun R => { R with waiting := ws }).emit c (.stream n) (stampTime c.now w.bytes)
        let q := (r.1.noteToken c.now w).drainStream c n fuel
        (q.1, r.2 ++ q.2)
      else (P, [])

/-- Everything that waits for a ring to be writable again. -/
def Part.drainAll (P : Part) (c : HCtx) : PRes :=
  let one := fun (rid : RingId) (P : Part) =>
    (P.ring rid.num).waiting.foldl (fun (r : PRes) w =>
      if r.1.canEmit c rid then
        r.andThen fun P => (P.modRing rid.num fun R => { R with waiting := R.waiting.drop 1 }).emit c rid w.bytes
      else r) (P, [])
  let r := forEach (List.finRange 64) (fun n P => P.drainStream c n 3072) (P, [])
  ((r.andThen fun P => P.flushDone c).andThen (one .completion)).andThen (one .event)

/-- A token record joins its ring, and leaves it if there is room. -/
def Part.offerToken (P : Part) (c : HCtx) (n : Fin 64) (w : TokenRec) : PRes :=
  (P.modRing (3 + n.val) fun R => { R with waiting := R.waiting ++ [w] }).drainStream c n 3072

/-- The records of a turn's tokens, eight to a record (R317, R318). -/
def tokenRecs (tag turn slot acc seq : Nat) (final : Bool) : Nat → Nat → List W32 → List TokenRec
  | 0, _, _ => []
  | fuel + 1, idx, toks =>
    let now := toks.take 8
    let rest := toks.drop 8
    if now.isEmpty then []
    else
      let fl := b2n (idx == 0) + 2 * b2n (!rest.isEmpty) + 8 * b2n (final && rest.isEmpty)
      let b := leBytes 8 tag ++ leBytes 8 turn ++ leBytes 4 idx ++ leBytes 1 now.length ++ leBytes 1 fl ++ leBytes 2 slot
        ++ leBytes 4 0 ++ leBytes 1 acc ++ leBytes 3 0
        ++ (now.flatMap fun t => leBytes 4 t.toNat) ++ leBytes (4 * (8 - now.length)) 0
      ⟨seq, b, idx == 0, rest.isEmpty⟩ :: tokenRecs tag turn slot acc seq final fuel (idx + now.length) rest

/-- The loss record of a completed tuning step. -/
def lossRec (tag turn slot seq step loss : Nat) (final : Bool) : TokenRec :=
  ⟨seq, leBytes 8 tag ++ leBytes 8 turn ++ leBytes 4 0 ++ leBytes 1 0 ++ leBytes 1 (4 + 8 * b2n final) ++ leBytes 2 slot
    ++ leBytes 4 0 ++ leBytes 1 0 ++ leBytes 3 0 ++ leBytes 4 loss ++ leBytes 4 step ++ leBytes 24 0, false, true⟩

/-! ### Fetch of descriptors (R304, R305) -/

/-- Ring fetch may start the next read. Owed are descriptors not yet completed, and records that wait or are not yet consumed (R304). -/
def Part.mayFetch (P : Part) (c : HCtx) : Bool :=
  c.up && P.isSealed && !P.fetchStopped && P.ringOn 0 && P.ringOn 1 && P.fetchIdx != P.tail
    && decide (P.fetching.length < 16) && decide (P.owed + P.ringUsed 1 + (P.ring 1).waiting.length < P.ringSize 1 - 1)
    && (!P.confidential || P.keys.inKey.isSome)

/-- Time of the SQ_TAIL write that first covered a descriptor (R328). -/
def bellOf (bells : List (Nat × Nat)) (seq now : Nat) : Nat :=
  match bells.find? fun b => decide (seq < b.1) with
  | some b => b.2
  | none => now

/-- Bytes of a submission ring entry (R299, R393). -/
def Part.sqEntry (P : Part) : Nat := if P.confidential then 160 else 128

/-- Reads of descriptors issued while R304 allows. -/
def Part.fetchMore (P : Part) (c : HCtx) : Nat → PRes
  | 0 => (P, [])
  | fuel + 1 =>
    if P.mayFetch c then
      let base := 4096 * (P.getR (Reg.BASE_LO_BASE 0)) + 2 ^ 32 * P.getR (Reg.BASE_HI_BASE 0)
      let f : Fetch := ⟨P.fetchNext, bellOf P.bells P.fetchNext c.now, none⟩
      let P' := { P with
        fetching := P.fetching ++ [f]
        fetchNext := P.fetchNext + 1
        fetchIdx := (P.fetchIdx + 1) % P.ringSize 0
        owed := P.owed + 1 }
      let q := P'.fetchMore c fuel
      (q.1, .hostRead (some c.p) c.port (BitVec.ofNat 64 (base + P.sqEntry * P.fetchIdx)) P.sqEntry :: q.2)
    else (P, [])

/-- Fetch stops at a failed descriptor; later reads in flight are discarded (R305). The failed read is logged through AER (R486). -/
def Part.fetchFailed (P : Part) (c : HCtx) (seq : Nat) : PRes :=
  if P.fetching.any fun f => f.seq == seq then
    let keep := P.fetching.filter fun f => decide (f.seq < seq)
    let gone := P.fetching.length - keep.length
    let n := P.ringSize 0
    let idx := (P.fetchIdx + n - gone % n) % n
    let base := 4096 * (P.getR (Reg.BASE_LO_BASE 0)) + 2 ^ 32 * P.getR (Reg.BASE_HI_BASE 0)
    let P := { P with fetching := keep, fetchNext := seq, fetchIdx := idx, owed := P.owed - gone, fetchStopped := true }
    ((P.evt Reg.SERVE_EVT_FETCH_ERROR).event c 0x0009 0 (base + P.sqEntry * idx)).andThen fun P => (P, [.aer c.port])
  else (P, [])

/-! ### Inbound envelopes (R391, R394, R395) -/

/-- An envelope that a confidential partition reads carries what is expected and verifies. Its failure is counted; the first of a
new generation retires the old inbound key. -/
def Part.openEnv (P : Part) (env : Option Envelope) (cls idx seq len : Nat) : Part × Bool :=
  if !P.confidential then (P, true)
  else
    let good := match env with
      | none => false
      | some e => e.tagOk && e.cls.toNat == cls && e.index.toNat == idx && e.seq == seq && e.len == len
          && (e.gen.toNat == P.keys.gen || (P.keys.inOld.isSome && e.gen.toNat == (P.keys.gen + 255) % 256))
    if good then
      let retire := env.any fun e => e.gen.toNat == P.keys.gen
      (if retire then { P with keys := { P.keys with inOld := none } } else P, true)
    else ((P.cnt Reg.AUTH_FAIL_COUNT_AUTH_FAILS 1).evt Reg.PART_EVT_AUTH_FAIL_SEEN, false)

end Sys2Proof.Machine
end

