-- ==== Sys2Proof/Machine/Requests.lean ====
section
/-! DEFINITION. Doorbells, descriptors and admission (R302 to R314, R323 to R325, R329): the commands from the host's rings up
to the turn sequencer. -/
namespace Sys2Proof.Machine

/-! ### Doorbells -/

/-- The writer is the function that carries the partition's rings, and BAR2 decodes (R302, R481, R482, R514). -/
def Mach.bellOwner (m : Mach) (w : Writer) (p : PartId) : Bool :=
  m.getR Reg.BOOT_STATUS_BOOT_STATE == 4 && w.port.val == (m.part p.val).getR Reg.SERVE_CFG_PORT
    && m.funcOn p.val w.port.val == some w.func.val

/-- An invalid doorbell write (R303). -/
def Part.bellBad (P : Part) (c : HCtx) (off : Nat) (val : W32) : PRes :=
  (P.evt Reg.SERVE_EVT_DOORBELL_BAD).event c 0x0008 off val.toNat

/-- SQ_TAIL (R303, R304, R305). -/
def execSqTail (w : Writer) (p : PartId) (val : W32) (s : State) : Host.Outcome State Fault Refusal :=
  lift (fun m => if !m.bellOwner w p then m else m.onPart p fun c P =>
    let idx := val.toNat % 65536
    if !P.ringOn 0 || decide (P.ringSize 0 ≤ idx) then P.bellBad c 0x000 val
    else
      let ahead := (P.ringSize 0 + idx - P.fetchIdx) % P.ringSize 0
      { P with tail := idx, bells := P.bells ++ [(P.fetchNext + ahead, c.now)], fetchStopped := false, hostLost := P.hostLost && !c.up }.fetchMore c 16) s

/-- A consumer index is not below the size, its ring is off, or it would pass the producer index. -/
def Part.headBad (P : Part) (r idx : Nat) : Bool :=
  !P.ringOn r || decide (P.ringSize r ≤ idx)
    || decide (P.ringUsed r < (P.ringSize r + idx - (P.ring r).cons) % P.ringSize r)

/-- The host's consumer index taken over; records it has consumed are no longer kept (R300, R429). -/
def Part.setHead (P : Part) (r idx : Nat) : Part :=
  let P' := P.modRing r fun R => { R with cons := idx }
  P'.modRing r fun R => { R with kept := R.kept.drop (R.kept.length - P'.ringUsed r) }

/-- A doorbell write of a consumer index. -/
def headBell (w : Writer) (p : PartId) (r off : Nat) (val : W32) (andThen : HCtx → Part → PRes) :
    State → Host.Outcome State Fault Refusal :=
  lift fun m => if !m.bellOwner w p then m else m.onPart p fun c P =>
    let idx := val.toNat % 65536
    if P.headBad r idx then P.bellBad c off val else andThen c { P.setHead r idx with hostLost := P.hostLost && !c.up }

/-- CQ_HEAD (R300, R304). -/
def execCqHead (w : Writer) (p : PartId) (val : W32) (s : State) : Host.Outcome State Fault Refusal :=
  headBell w p 1 0x008 val (fun c P => (P.drainAll c).andThen fun P => P.fetchMore c 16) s
/-- EQ_HEAD (R300, R322). -/
def execEqHead (w : Writer) (p : PartId) (val : W32) (s : State) : Host.Outcome State Fault Refusal :=
  headBell w p 2 0x010 val (fun c P => P.drainAll c) s
/-- STREAM_HEAD (R300, R319). -/
def execStreamHead (w : Writer) (p : PartId) (n : Fin 64) (val : W32) (s : State) : Host.Outcome State Fault Refusal :=
  headBell w p (3 + n.val) (0x100 + 8 * n.val) val
    (fun c P => (P.drainStream c n 3072).andThen fun P => P.flushDone c) s

/-- COALESCE_TIMER (R306). -/
def execCoalesceTimer (p : PartId) (ring : RingId) (s : State) : Host.Outcome State Fault Refusal :=
  lift (fun m => m.onPart p fun c P =>
    let R := P.ring ring.num
    if R.unsignalled ≠ 0 ∧ R.sinceUs + P.getR (Reg.RING_CFG_COAL_US ring.num) ≤ c.now ∧ c.up then
      (P.modRing ring.num fun R => { R with unsignalled := 0 },
       [.msix c.port c.func (P.getR (Reg.RING_CFG_VECTOR ring.num))])
    else (P, [])) s

/-! ### Descriptors (R307 to R312) -/

/-- The fields of a descriptor of the given type, from its 128 bytes as a number. -/
def descFields (ty : DescType) (n : Nat) : Desc :=
  let w32 := fun off => BitVec.ofNat 32 (blk n off 4)
  let w64 := fun off => BitVec.ofNat 64 (blk n off 8)
  let gen := ty == .generate
  { type := ty
    code := blk n 0 1
    follow := bits n 8 1 == 1
    cls := blk n 2 1
    wver := blk n 3 1
    steer := blk n 4 2
    stream := blk n 6 1
    tag := w64 8
    addr := if ty == .draft then w64 24 else w64 16
    len := blk n 24 4
    maxNew := blk n 28 4
    temp := w32 32
    topP := w32 36
    topK := blk n 40 4
    candidates := if gen then blk n 44 1 else 0
    draftSource := if gen then blk n 45 1 else 0
    seed := w64 48
    endTokens := if gen then [w32 56, w32 60, w32 64, w32 68] else []
    target := w64 16
    maskAddr := w64 40 }

def descType (n : Nat) : Option DescType :=
  match blk n 0 1 with
  | 1 => some .generate | 2 => some .tune | 3 => some .cancel | 4 => some .draft | 5 => some .steerWrite
  | 6 => some .steerRead | _ => none

/-- Reserved bytes and encodings that ring fetch checks (R13, R307): bytes that must be zero for a type. -/
def descReserved (ty : DescType) (n : Nat) : Bool :=
  let zero := fun off size => blk n off size == 0
  let head := zero 1 3 && zero 6 2
  match ty with
  | .generate => bits n 9 7 == 0 && zero 7 1 && zero 46 2 && zero 72 56
  | .tune => bits n 9 7 == 0 && zero 7 1 && zero 36 4 && zero 48 80
  | .cancel => head && zero 4 2 && zero 24 104
  | .draft => head && zero 4 2 && zero 32 96
  | .steerWrite => head && zero 28 100
  | .steerRead => head && zero 28 100

/-- A descriptor as read: its fields, or none where it completes with BAD_DESC. -/
def readDesc (bs : List Byte) : Option Desc :=
  (descType (leNat bs)).bind fun ty => if descReserved ty (leNat bs) then some (descFields ty (leNat bs)) else none

/-- TYPE, CLASS and TAG of a descriptor that is not acted on. -/
def badDescFields (bs : List Byte) : Desc :=
  let n := leNat bs
  { code := blk n 0 1, cls := blk n 2 1, tag := BitVec.ofNat 64 (blk n 8 8) }

/-- A completion record with no slot. -/
def plainDone (seq : Nat) (d : Desc) (st : Status) (turn : Nat) : Done :=
  { req := { seq := seq, desc := d }, status := st, slot := none, endTurn := turn, reason := 0, waitUs := 0 }

/-- Reads that have ended, handed on in ring order (R304); failed envelopes and reserved encodings complete at once. -/
def Part.handOn (P : Part) (c : HCtx) : Nat → PRes
  | 0 => (P, [])
  | fuel + 1 =>
    match P.fetching with
    | [] => (P, [])
    | f :: fs =>
      match f.data with
      | none => (P, [])
      | some .failed => P.fetchFailed c f.seq
      | some (.data env bs) =>
        let o := { P with fetching := fs }.openEnv env 0x01 0 f.seq 128
        let r : PRes :=
          if !o.2 then o.1.complete c (plainDone f.seq {} .authFail P.turnSeq)
          else match readDesc bs with
            | none => o.1.complete c (plainDone f.seq (badDescFields bs) .badDesc P.turnSeq)
            | some d => ({ o.1 with handed := o.1.handed ++ [⟨f.seq, f.bellUs, d⟩] }, [])
        r.andThen fun P => P.handOn c fuel

/-- The DMA engine of the partition's port serves it now: by demand, or, in fixed-slot operation, in the slots of R383; what does not
end in them goes on in the next one (log entry 105). -/
def Mach.dmaServes (m : Mach) (p : PartId) : Bool :=
  !m.boot.fixedSlots || (m.hostPort ((m.part p.val).getR Reg.SERVE_CFG_PORT)).serving == some p

/-- DESCRIPTOR_READ_DONE (R304, R307, R394, R395). A failed read stops the fetch at once; earlier reads are handed on as they end
(R305). -/
def execDescriptorReadDone (p : PartId) (seq : Nat) (data : HostRead) (s : State) : Host.Outcome State Fault Refusal :=
  lift (fun m => if !m.dmaServes p then m else m.onPart p fun c P =>
    match data with
    | .failed => if P.fetching.any fun f => f.seq == seq && f.data.isNone then P.fetchFailed c seq else (P, [])
    | .data env bs =>
      let fs := P.fetching.map fun f => if f.seq = seq ∧ f.data.isNone then { f with data := some (.data env bs) } else f
      ({ P with fetching := fs }.handOn c 17).andThen fun P => P.fetchMore c 16) s

/-- RING_FETCH_ERROR (R305). -/
def execRingFetchError (p : PartId) (seq : Nat) (s : State) : Host.Outcome State Fault Refusal :=
  lift (fun m => m.onPart p fun c P => P.fetchFailed c seq) s

/-! ### Versions and pages -/

def Part.place (P : Part) (v : Nat) : Place := Map.get {} P.places v
def Part.isResident (P : Part) (v : Nat) : Bool := (P.place v).state == .resident
/-- Removal of the version is committed (R367). -/
def Part.removing (P : Part) (v : Nat) : Bool := bits (P.getR Reg.WVER_REMOVE) v 1 == 1
def Part.active (P : Part) : Nat := P.getR Reg.WVER_CFG_ACTIVE_WVER
def Part.normal (P : Part) : Bool := P.getR Reg.WVER_CFG_WVER_STATE == 0
/-- The version a descriptor names. -/
def Part.descWver (P : Part) (d : Desc) : Nat := if d.wver = 0xFF then P.active else d.wver

def Slot.held (S : Slot) : Nat := S.pages.length + S.twins.length + S.reserved
/-- Pages neither allocated nor reserved (R296). -/
def Part.freePages (P : Part) : Nat :=
  P.getR Reg.KV_POOL_KV_PAGES - (P.slots.map fun e => e.2.held).foldl (· + ·) 0
def Part.reservedPages (P : Part) : Nat := (P.slots.map fun e => e.2.reserved).foldl (· + ·) 0
def Part.slotCount (P : Part) : Nat := P.getR Reg.SERVE_CFG_SLOT_COUNT
/-- The lowest-numbered free slot. -/
def Part.freeSlot (P : Part) : Option Nat := (List.range P.slotCount).find? fun s => (P.slot s).req.isNone

/-- Positions a request may need, P + N + K (R268), and its pages: doubled for a TUNE (R292). -/
def Part.span (P : Part) (d : Desc) : Nat :=
  if d.type == .tune then d.len else d.len + d.maxNew + Nat.min d.candidates (P.getR Reg.SPEC_CFG_MAX_CAND)
def Part.pagesFor (P : Part) (d : Desc) : Nat :=
  (if d.type == .tune then 2 else 1) * ((P.span d + 63) / 64)

/-! ### Checks of a request (R310, R311) -/

def f32Finite (w : W32) : Bool := bits w.toNat 23 8 != 255
/-- Finite and not negative. -/
def f32NonNeg (w : W32) : Bool := f32Finite w && (decide (w.toNat < 2 ^ 31) || w == 0x80000000)
/-- In (0, 1]. -/
def f32Unit (w : W32) : Bool := decide (0 < w.toNat) && decide (w.toNat ≤ 0x3F800000)
/-- Above 0 and finite. -/
def f32Pos (w : W32) : Bool := f32Finite w && decide (0 < w.toNat) && decide (w.toNat < 2 ^ 31)

def Part.steer (P : Part) (i : Nat) : Steer := Map.get {} P.steers i
/-- Index 0 is always READY (R287). -/
def Part.steerReady (P : Part) (i : Nat) : Bool :=
  i == 0 || (decide (i < P.getR Reg.STEER_CFG_STEER_ENTRIES) && (P.steer i).state == .ready)
/-- A bound slot names the entry. -/
def Part.steerNamed (P : Part) (i : Nat) : Bool := P.slots.any fun e => e.2.bound && e.2.req.any fun r => r.desc.steer == i
/-- A request may run under its steering index (R287, R291). -/
def Part.steerOk (P : Part) (d : Desc) : Bool :=
  P.steerReady d.steer && (d.type != .tune || (d.steer != 0 && !P.steerNamed d.steer))

/-- Check 2 of R323: fields, class, version, steering index and stream. -/
def Part.descOk (P : Part) (d : Desc) : Bool :=
  let v := P.descWver d
  let held := d.wver == 0xFF && !P.normal
  let versionOk := if d.wver = 0xFF then held || P.isResident v
    else decide (d.wver < 4) && P.isResident v
      && !(P.getR Reg.WVER_CFG_WVER_STATE != 0 && d.wver == P.getR Reg.WVER_CFG_DRAIN_FROM)
  let hdr := (P.place v).header.getD {}
  let common := decide (d.cls < 8) && P.flagR (Reg.CLASS_CFG_VALID d.cls) && versionOk && P.steerOk d
    && decide (d.stream < 64) && P.ringOn (3 + d.stream) && d.addr.toNat % 64 == 0
  match d.type with
  | .generate =>
    common && decide (1 ≤ d.len) && decide (d.len ≤ 131072) && decide (1 ≤ d.maxNew) && decide (d.maxNew ≤ 131072)
      && f32NonNeg d.temp && f32Unit d.topP && decide (d.topK ≤ hdr.vocab) && decide (d.candidates ≤ 31)
      && decide (d.draftSource ≤ 3) && (d.endTokens.all fun t => t == 0xFFFFFFFF || decide (t.toNat < hdr.vocab))
      && !(d.draftSource == 0 && d.candidates != 0) && (d.draftSource != 1 || hdr.draft)
  | .tune =>
    common && decide (2 ≤ d.len) && decide (d.len ≤ 8192)
      && decide (1 ≤ d.maxNew) && decide (d.maxNew ≤ 65535) && f32Pos d.temp && d.maskAddr.toNat % 64 == 0
  | _ => false

/-! ### Prefill order and the estimated wait (R324, R325) -/

/-- Prefill positions a request still has to run; for a TUNE, of every step not completed. -/
def Req.remaining (r : Req) : Nat :=
  if r.desc.type == .tune then
    2 * r.desc.len * (r.desc.maxNew - r.tokens) - ((if r.back then r.desc.len else 0) + r.done)
  else r.desc.len - r.done
def Req.prefillDone (r : Req) : Bool := r.desc.type == .generate && decide (r.desc.len ≤ r.done)
def Req.prefillStarted (r : Req) : Bool := decide (0 < r.done) || r.back || decide (0 < r.tokens)

def Part.prio (P : Part) (r : Req) : Nat := P.getR (Reg.CLASS_CFG_PRIORITY r.desc.cls)
/-- r stands before q in prefill order. -/
def Part.before (P : Part) (r q : Req) : Bool :=
  if r.promoted != q.promoted then r.promoted
  else if r.promoted || P.prio r == P.prio q then decide (r.acceptUs < q.acceptUs) || (r.acceptUs == q.acceptUs && decide (r.seq < q.seq))
  else decide (P.prio q < P.prio r)
/-- Insertion into prefill order. -/
def Part.insertPrefill (P : Part) (x : Nat × Req) : List (Nat × Req) → List (Nat × Req)
  | [] => [x]
  | y :: ys => if P.before x.2 y.2 then x :: y :: ys else y :: P.insertPrefill x ys
/-- Admitted requests whose prefill is not finished, in prefill order, with their slots. -/
def Part.prefillOrder (P : Part) : List (Nat × Req) :=
  (P.slots.filterMap fun e => e.2.req.bind fun r => if r.prefillDone then none else some (e.1, r)).foldl
    (fun l x => P.insertPrefill x l) []

/-- Time of a number of prefill positions at PREFILL_RATE, us (R324). -/
def Part.prefillTime (P : Part) (n : Nat) : Nat :=
  let rate := P.getR Reg.PREFILL_RATE
  if rate = 0 then Config.timeAtRateZero n else n * 1000000 / rate

/-- When each request would end, in µs from now: prefill in order at PREFILL_RATE, then decode at TURN_MEAN. -/
def Part.endTimes (P : Part) : List (Nat × Nat) :=
  let order := P.prefillOrder
  let sums := order.foldl (fun (a : Nat × List (Nat × Nat)) x => (a.1 + x.2.remaining, a.2 ++ [(x.1, a.1 + x.2.remaining)]))
    (0, [])
  P.slots.filterMap fun e => e.2.req.map fun r =>
    let pre := match sums.2.find? fun y => y.1 == e.1 with
      | some y => P.prefillTime y.2
      | none => 0
    (e.1, pre + (if r.desc.type == .tune then 0 else (r.desc.maxNew - r.tokens) * P.getR Reg.TURN_MEAN_TURN_US))

def insertEnd (x : Nat × Nat) : List (Nat × Nat) → List (Nat × Nat)
  | [] => [x]
  | y :: ys => if x.2 < y.2 then x :: y :: ys else y :: insertEnd x ys

/-- The earliest time at which a slot and enough pages would be free. -/
def Part.releaseAt (P : Part) (pages : Nat) : List (Nat × Nat) → Nat → Nat
  | [], _ => 0xFFFFFFFF
  | e :: es, free =>
    let free' := free + (P.slot e.1).held
    if pages ≤ free' then e.2 else P.releaseAt pages es free'

/-- The declared load time of the new version, in RELOAD what is still to run of it, us (R324). -/
def Part.loadLeft (P : Part) (now : Nat) : Nat :=
  1000 * ((P.place P.active).header.getD {}).loadMs - (if P.getR Reg.WVER_CFG_WVER_STATE = 2 then now - P.reloadUs else 0)

/-- The estimated wait of R324 for a request that fails the given check, or check 7 for none. -/
def Part.waitFor (P : Part) (d : Desc) (failed : Nat) (loadUs : Nat) : Nat :=
  let ends := P.endTimes.foldl (fun l x => insertEnd x l) []
  let q : Req := { desc := d, acceptUs := 2 ^ 63 }
  let w :=
    if failed = 4 ∨ 131072 < P.span d ∨ P.getR Reg.KV_POOL_KV_PAGES < P.pagesFor d ∨ P.slotCount = 0 then 0xFFFFFFFF
    else if failed = 3 then
      let old := P.getR Reg.WVER_CFG_DRAIN_FROM
      let last := if P.getR Reg.WVER_CFG_WVER_STATE = 2 then 0 else
        ((ends.filter fun e => (P.slot e.1).req.any fun r => r.wver.val == old).map (·.2)).foldl Nat.max 0
      last + loadUs
    else if failed = 5 ∨ failed = 6 then P.releaseAt (P.pagesFor d) ends P.freePages
    else
      let ahead := ((P.prefillOrder.filter fun x => P.before x.2 q).map fun x => x.2.remaining).foldl (· + ·) 0
      P.prefillTime ahead
  Nat.min w 0xFFFFFFFF

/-- What admission decides. -/
inductive Verdict where
  | accept
  | hold
  | fail (st : Status) (reason wait : Nat)
deriving DecidableEq, Repr, Inhabited

/-- Checks 4 to 6, and 7 unless the request comes from the hold queue (R323, R335). -/
def Part.admitRoom (P : Part) (d : Desc) (fromHold : Bool) : Verdict :=
  if 131072 < P.span d ∨ P.getR Reg.KV_POOL_KV_PAGES < P.pagesFor d then .fail .busy 4 (P.waitFor d 4 0)
  else if P.freeSlot.isNone then .fail .busy 2 (P.waitFor d 5 0)
  else if P.freePages < P.pagesFor d then .fail .busy 3 (P.waitFor d 6 0)
  else if !fromHold && decide (1000 * P.getR (Reg.CLASS_TIME_QUEUE_BOUND d.cls) < P.waitFor d 7 0) then
    .fail .busy 1 (P.waitFor d 7 0)
  else .accept

/-- The checks of R323 in order. -/
def Part.admission (P : Part) (now : Nat) (d : Desc) : Verdict :=
  if P.faulted then .fail .partFaulted 0 0
  else if !P.descOk d then .fail .badDesc 0 0
  else if d.wver = 0xFF ∧ !P.normal then
    if P.holdQueue.length < P.getR Reg.WVER_CFG_HOLD_MAX then .hold
    else .fail .busy 5 (P.waitFor d 3 (P.loadLeft now))
  else P.admitRoom d false

/-- A request accepted: slot claimed, pages reserved, its payload read (R323, R305); a TUNE puts its entry in TUNING (R291). -/
def Part.accept (P : Part) (c : HCtx) (r : Req) : PRes :=
  match P.freeSlot with
  | none => (P, [])
  | some i =>
    let d := r.desc
    let r := { r with wver := Fin.ofNat 4 (P.descWver d), acceptUs := c.now,
                      cand := Nat.min d.candidates (P.getR Reg.SPEC_CFG_MAX_CAND) }
    let P := P.modSlot i fun _ => { req := some r, reserved := P.pagesFor d }
    let extra := if P.confidential then 32 else 0
    let prompt := Out.hostRead (some c.p) c.port d.addr (4 * d.len + extra)
    if d.type == .tune then
      ({ P with steers := Map.modify {} P.steers d.steer fun e => { e with state := .tuning } },
       [prompt, .hostRead (some c.p) c.port d.maskAddr ((d.len + 7) / 8 + extra)])
    else (P, [prompt])

/-- A GENERATE or TUNE descriptor at the front of stage 3. -/
def Part.examine (P : Part) (c : HCtx) (h : Handed) : PRes :=
  let r : Req := { seq := h.seq, desc := h.desc, bellUs := h.bellUs }
  match P.admission c.now h.desc with
  | .accept => P.accept c r
  | .hold => ({ P with holdQueue := P.holdQueue ++ [{ r with held := true }] }, [])
  | .fail st reason wait => P.complete c { plainDone h.seq h.desc st P.turnSeq with reason := reason, waitUs := wait }

/-- The descriptor at the front, if it is of the row's type, leaves the queue and is acted on (log entry 5). -/
def takeHandedIn (p : PartId) (ty : DescType) (f : Mach → HCtx → Handed → Part → PRes) :
    State → Host.Outcome State Fault Refusal :=
  lift fun m => m.onPart p fun c P =>
    match P.handed with
    | [] => (P, [])
    | h :: hs => if h.desc.type = ty then (f m c h { P with handed := hs }).andThen fun P => P.fetchMore c 16 else (P, [])
def takeHanded (p : PartId) (ty : DescType) (f : HCtx → Handed → Part → PRes) : State → Host.Outcome State Fault Refusal :=
  takeHandedIn p ty fun _ => f

/-- GENERATE (R309, R310, R323). -/
def execGenerate (p : PartId) (s : State) : Host.Outcome State Fault Refusal :=
  takeHanded p .generate (fun c h P => P.examine c h) s
/-- TUNE (R311, R323). -/
def execTune (p : PartId) (s : State) : Host.Outcome State Fault Refusal :=
  takeHanded p .tune (fun c h P => P.examine c h) s

/-- CANCEL (R329): accepted by stage 4; a target not below its own SUBMIT_SEQ is found nowhere at the boundary. -/
def execCancel (p : PartId) (s : State) : Host.Outcome State Fault Refusal :=
  takeHanded p .cancel (fun _ h P =>
    ({ P with cancels := P.cancels ++ [⟨h.seq, h.desc.tag, h.desc.target.toNat, P.turnSeq⟩] }, [])) s

/-- A bound HOST request (R313). -/
def Part.hostSlot (P : Part) (target : Nat) : Option Nat :=
  P.slots.findSome? fun e =>
    if e.2.bound && e.2.req.any fun r => r.seq == target && r.desc.draftSource == 3 && r.desc.type == .generate then some e.1
    else none

/-- The payload of a control descriptor is asked for. -/
def Part.askPayload (P : Part) (c : HCtx) (h : Handed) (len : Nat) : PRes :=
  ({ P with reads := P.reads ++ [h] },
   [.hostRead (some c.p) c.port h.desc.addr (len + if P.confidential then 32 else 0)])

/-- DRAFT (R312, R313): its target is looked up and the draft record read; PAYLOAD_READ_DONE stores it. -/
def execDraft (p : PartId) (s : State) : Host.Outcome State Fault Refusal :=
  takeHanded p .draft (fun c h P =>
    if h.desc.addr.toNat % 64 ≠ 0 then P.complete c (plainDone h.seq h.desc .badDesc P.turnSeq)
    else if (P.hostSlot h.desc.target.toNat).isNone then P.complete c (plainDone h.seq h.desc .notFound P.turnSeq)
    else P.askPayload c h 256) s

/-- Bytes of a steering entry (R288): header and padded records. -/
def ImgHeader.steerBytes (h : ImgHeader) : Nat := 64 + h.steerLayers * (64 * ((8 + 2 * h.steerWidth + 2 * h.heads + 63) / 64))
/-- The resident image whose steering geometry holds for the partition (R297). -/
def Part.anyHeader (P : Part) : ImgHeader :=
  match P.places.findSome? fun e => if e.2.state = .resident then e.2.header else none with
  | some h => h
  | none => {}

/-- STEER_WRITE (R314): its entry is read; the boundary then applies or refuses it (R289). -/
def execSteerWrite (p : PartId) (s : State) : Host.Outcome State Fault Refusal :=
  takeHanded p .steerWrite (fun c h P =>
    let d := h.desc
    if d.steer = 0 ∨ P.getR Reg.STEER_CFG_STEER_ENTRIES ≤ d.steer ∨ d.addr.toNat % 64 ≠ 0
        ∨ d.len < P.anyHeader.steerBytes then
      P.complete c (plainDone h.seq d .badDesc P.turnSeq)
    else P.askPayload c h P.anyHeader.steerBytes) s

/-- The header of an entry as the module gives it (R288). -/
def Part.steerHeader (P : Part) (i : Nat) : List Byte :=
  let h := P.anyHeader
  let e := P.steer i
  let st := if i = 0 then 1 else match e.state with | .empty => 0 | .ready => 1 | .tuning => 2 | .changing => 0
  leBytes 2 i ++ leBytes 1 st ++ leBytes 1 0 ++ leBytes 2 h.steerLayers ++ leBytes 2 h.steerWidth ++ leBytes 2 h.heads
    ++ leBytes 2 0 ++ leBytes 4 e.generation.toNat ++ leBytes 48 0

/-- Address of copy `c` of layer record `i` of steering entry `n` in a place's steering map (R353). -/
def Place.steerAt (pl : Place) (layers n i : Nat) (c : Bool) : Option (Nat × Nat) :=
  Map.find pl.steerMap ((n * layers + i) * 2 + b2n c)
/-- Bytes of one layer record of a steering entry, padded (R288). -/
def ImgHeader.steerRec (h : ImgHeader) : Nat := 64 * ((8 + 2 * h.steerWidth + 2 * h.heads + 63) / 64)

/-- The records of the active copy of a steering entry, from their home tiles (R287, R353). -/
def Mach.steerRecords (m : Mach) (P : Part) (n : Nat) : List Byte :=
  match P.places.find? fun e => e.2.state == .resident with
  | none => []
  | some e =>
    let h := e.2.header.getD {}
    (List.range h.steerLayers).flatMap fun i =>
      match e.2.steerAt h.steerLayers n i (P.steer n).active with
      | some at_ => (m.tile at_.1).readBytes at_.2 h.steerRec
      | none => []

/-- One record of the base model's entry: zero coefficients and unit scales in BF16 (R287, R288). -/
def baseRecord (h : ImgHeader) (layer : Nat) : List Byte :=
  let body := leBytes 2 layer ++ leBytes 6 0 ++ leBytes (2 * h.steerWidth) 0
    ++ (List.range h.heads).flatMap fun _ => leBytes 2 0x3F80
  body ++ leBytes (64 * ((body.length + 63) / 64) - body.length) 0

/-- STEER_READ (R314): the active copy with its header is written to the host. -/
def execSteerRead (p : PartId) (s : State) : Host.Outcome State Fault Refusal :=
  takeHandedIn p .steerRead (fun m c h P =>
    let d := h.desc
    if P.getR Reg.STEER_CFG_STEER_ENTRIES ≤ d.steer ∨ d.addr.toNat % 64 ≠ 0 ∨ d.len < P.anyHeader.steerBytes then
      P.complete c (plainDone h.seq d .badDesc P.turnSeq)
    else
      let hd := P.anyHeader
      let recs := if d.steer = 0 then (List.range hd.steerLayers).flatMap (baseRecord hd) else m.steerRecords P d.steer
      let body := P.steerHeader d.steer ++ recs
      let sl := P.seal 0x84 0 body.length
      let r := sl.1.complete c (plainDone h.seq d .completed P.turnSeq)
      (r.1, .hostWrite c.p c.port d.addr body sl.2 :: r.2)) s

/-! ### Payloads (R305, R310, R313, R314) -/

/-- Tokens of a prompt or sequence. -/
def wordsOf : Nat → List Byte → List W32
  | 0, _ => []
  | n + 1, bs => BitVec.ofNat 32 (leNat (bs.take 4)) :: wordsOf n (bs.drop 4)

/-- A request's end is set for the next boundary; the first cause stands. -/
def Part.endReq (P : Part) (seq : Nat) (st : Status) : Part :=
  P.modReq seq fun r => { r with ending := match r.ending with | none => some st | some x => some x }

/-- Whether a draft record keeps the layout of R285: zero bytes, FORM and parents. -/
def draftOk (treeOk : Bool) (bs : List Byte) : Bool :=
  let n := leNat bs
  let k := blk n 8 1
  let form := blk n 9 1
  decide (k ≤ 31) && decide (form < 2) && (form == 0 || treeOk) && blk n 10 22 == 0 && blk n 188 68 == 0
    && (List.range k).all fun i => if form = 0 then true else decide (blk n (32 + i) 1 < i + 1)

/-- A draft dropped (R313). -/
def Part.dropDraft (P : Part) (c : HCtx) (target turn : Nat) : PRes :=
  (P.evt Reg.GEN_EVT_DRAFT_DROPPED).event c 0x0007 target turn

/-- A draft record stored, or dropped for a turn that has begun; a fifth draft drops the oldest. -/
def Part.storeDraft (P : Part) (c : HCtx) (slot target : Nat) (bs : List Byte) : PRes :=
  let turn := blk (leNat bs) 0 8
  let P := { P with owed := P.owed - 1 }
  if turn ≤ P.turnSeq then P.dropDraft c target turn
  else
    let ds := (P.slot slot).drafts
    let P' := P.modSlot slot fun S => { S with drafts := ds.drop (ds.length - 3) ++ [⟨turn, bs⟩] }
    if 4 ≤ ds.length then P'.dropDraft c target ((ds.head?.map (·.turnSeq)).getD 0) else (P', [])

/-- Whether the header of a steering write keeps R288. -/
def Part.steerHeaderOk (P : Part) (i : Nat) (bs : List Byte) : Bool :=
  let h := P.anyHeader
  let n := leNat (bs.take 64)
  blk n 0 2 == i && blk n 3 1 == 0 && blk n 4 2 == h.steerLayers && blk n 6 2 == h.steerWidth && blk n 8 2 == h.heads
    && blk n 10 2 == 0 && blk n 16 48 == 0

/-- The expected class and length of a payload (R393). -/
def payloadShape (P : Part) (d : Desc) : PayloadKind → Nat × Nat
  | .prompt => (0x02, 4 * d.len)
  | .sequence => (0x02, 4 * d.len)
  | .mask => (0x03, (d.len + 7) / 8)
  | .draft => (0x04, 256)
  | .steer => (0x05, P.anyHeader.steerBytes)

/-- A payload of an admitted request has been read. -/
def Part.takePrompt (P : Part) (r : Req) (kind : PayloadKind) (bs : List Byte) : Part :=
  match kind with
  | .mask =>
    if leNat bs % 2 ^ r.desc.len = 0 then P.endReq r.seq .badDesc else P.modReq r.seq fun r => { r with mask := bs }
  | _ =>
    let toks := wordsOf r.desc.len bs
    let P := P.modReq r.seq fun r => { r with prompt := toks, promptRead := true }
    if toks.all fun t => decide (t.toNat < ((P.place r.wver.val).header.getD {}).vocab) then P else P.endReq r.seq .badDesc

/-- A payload of a control descriptor has been read. -/
def Part.takeControl (P : Part) (c : HCtx) (h : Handed) (bs : List Byte) : PRes :=
  let target := h.desc.target.toNat
  match h.desc.type with
  | .draft =>
    match P.hostSlot target with
    | none => P.complete c (plainDone h.seq h.desc .notFound P.turnSeq)
    | some i =>
      if draftOk (P.flagR Reg.SPEC_CFG_TREE_OK) bs then P.storeDraft c i target bs
      else P.complete c (plainDone h.seq h.desc .badDesc P.turnSeq)
  | _ =>
    if P.steerHeaderOk h.desc.steer bs then
      ({ P with steerOps := P.steerOps ++ [⟨h.seq, h.desc.tag, h.desc.steer, some bs, false⟩] }, [])
    else P.complete c (plainDone h.seq h.desc .badDesc P.turnSeq)

/-- PAYLOAD_READ_DONE (R305, R393 to R395). A failed read is logged through AER (R486). -/
def execPayloadReadDone (p : PartId) (seq : Nat) (kind : PayloadKind) (data : HostRead) (s : State) :
    Host.Outcome State Fault Refusal :=
  lift (fun m => if !m.dmaServes p then m else m.onPart p fun c P =>
    match P.reads.find? fun h => h.seq == seq with
    | some h =>
      let P := { P with reads := P.reads.filter fun h => h.seq != seq }
      let due := fun (P : Part) (st : Status) =>
        ({ P with boundaryDone := P.boundaryDone ++ [plainDone seq h.desc st P.turnSeq] }, ([] : List Out))
      match data with
      | .failed => PRes.andThen (due P .fetchError) fun P => (P, [.aer c.port])
      | .data env bs =>
        let sh := payloadShape P h.desc kind
        let o := P.openEnv env sh.1 0 seq sh.2
        if !o.2 then due o.1 .authFail else (o.1.takeControl c h bs).andThen fun P => P.fetchMore c 16
    | none =>
      match P.slots.findSome? fun e => e.2.req.bind fun r => if r.seq = seq then some r else none with
      | none => (P, [])
      | some r =>
        match data with
        | .failed => (P.endReq seq .fetchError, [.aer c.port])
        | .data env bs =>
          let sh := payloadShape P r.desc kind
          let o := P.openEnv env sh.1 0 seq sh.2
          (if o.2 then o.1.takePrompt r kind bs else o.1.endReq seq .authFail, [])) s

/-- PREFILL_PROMOTION (R325). -/
def execPrefillPromotion (p : PartId) (slot : SlotNo) (s : State) : Host.Outcome State Fault Refusal :=
  lift (fun m => m.onPart p fun c P =>
    (P.modSlot slot.val fun S => { S with req := S.req.map fun r =>
      if r.prefillStarted = false ∧ r.acceptUs + 1000 * P.getR (Reg.CLASS_TIME_QUEUE_BOUND r.desc.cls) ≤ c.now then
        { r with promoted := true }
      else r }, [])) s

end Sys2Proof.Machine
end

