-- ==== Sys2Proof/Machine/Images.lean ====
section
/-! DEFINITION. LXI images: manifest, image header, tile table, shards, relocation and the geometry of a placed image (R251, R264,
R339 to R353, R541). -/
namespace Sys2Proof.Machine

/-- Bytes `off` to `off + n − 1` of a list as a number. -/
def leAt (bs : List Byte) (off n : Nat) : Nat := leNat ((bs.drop off).take n)
/-- Bytes of a list are zero. -/
def zeroAt (bs : List Byte) (off n : Nat) : Bool := ((bs.drop off).take n).all (· == 0)

/-! ### Manifest (R341 to R343) -/

/-- Entry `i` of a manifest. -/
def parseEntry (bs : List Byte) (i : Nat) : Option ShardEnt :=
  let b := (bs.drop (128 + 96 * i)).take 96
  let kind := leAt b 4 1
  if leAt b 0 4 = i ∧ zeroAt b 5 3 ∧ zeroAt b 28 4 ∧ 1 ≤ kind ∧ kind ≤ 0x0A ∧ leAt b 16 8 % 64 = 0
      ∧ 64 ≤ leAt b 24 4 ∧ leAt b 24 4 ≤ 1048640 then
    some ⟨BitVec.ofNat 8 kind, BitVec.ofNat 64 (leAt b 8 8), leAt b 16 8, leAt b 24 4⟩
  else none

/-- All entries, or none where one of them breaks R342. -/
def parseEntries (bs : List Byte) : Nat → Option (List ShardEnt)
  | 0 => some []
  | n + 1 => (parseEntries bs n).bind fun l => (parseEntry bs n).map fun e => l ++ [e]

/-- One HEADER shard for each hop, before every other shard that names the hop (R345, first constraint). -/
def headersOk (hops : Nat) (es : List ShardEnt) : Bool :=
  (List.range hops).all fun h =>
    match es.filter fun e => e.hops.getLsbD h with
    | [] => false
    | e :: rest => e.kind == 1 && rest.all fun e => e.kind != 1

/-- The manifest as the module keeps it; none where it breaks R341, R342 or R345. -/
def parseManifest (bs : List Byte) (digest : BitVec 512) : Option Manifest :=
  let count := leAt bs 24 4
  let hops := leAt bs 28 1
  if leAt bs 0 4 = 0x4D49584C ∧ leAt bs 4 2 = 1 ∧ zeroAt bs 6 2 ∧ 1 ≤ count ∧ count ≤ 699048 ∧ 1 ≤ hops ∧ hops ≤ 64
      ∧ zeroAt bs 29 3 ∧ zeroAt bs 48 80 ∧ bs.length = 256 + 96 * count ∧ zeroAt bs (128 + 96 * count + 114) 14 then
    (parseEntries bs count).bind fun es =>
      let last := es.foldl (fun n e => Nat.max n (e.off + e.len)) 0
      if leAt bs 32 8 = last ∧ headersOk hops es then
        some ⟨BitVec.ofNat 128 (leAt bs 8 16), hops, last, BitVec.ofNat 64 (leAt bs 40 8), digest, es⟩
      else none
  else none

/-! ### Image header (R348) -/

/-- One DISPATCH_TILES entry. -/
def dispatchEnt (bs : List Byte) (i : Nat) : Nat × Nat × Nat :=
  (leAt bs (128 + 8 * i) 2, leAt bs (130 + 8 * i) 1, leAt bs (132 + 8 * i) 4)

/-- The image header in a HEADER shard, as compiled; none where it breaks R348. -/
def parseHeader (bs : List Byte) : Option ImgHeader :=
  let feat := leAt bs 69 1
  let d := leAt bs 73 1
  let q := leAt bs 74 1
  if leAt bs 64 4 = 1 ∧ leAt bs 68 1 < 2 ∧ feat < 32 ∧ leAt bs 70 1 < 120 ∧ 1 ≤ leAt bs 71 1 ∧ leAt bs 71 1 ≤ 15
      ∧ 1 ≤ leAt bs 72 1 ∧ leAt bs 72 1 ≤ 4 ∧ 1 ≤ d ∧ d ≤ 16 ∧ 1 ≤ q ∧ q ≤ 4
      ∧ 1 ≤ leAt bs 92 2 ∧ leAt bs 92 2 < 4096 ∧ 1 ≤ leAt bs 94 2 ∧ leAt bs 96 2 ≤ 4096
      ∧ 1 ≤ leAt bs 100 2 ∧ leAt bs 100 2 ≤ 32768
      ∧ 64 ≤ leAt bs 102 2 ∧ leAt bs 102 2 ≤ 4096 ∧ leAt bs 102 2 % 64 = 0 ∧ zeroAt bs 120 8
      ∧ (bits feat 3 1 = 1 ∨ leAt bs 112 8 = 0)
      ∧ ((List.range 16).all fun i => zeroAt bs (131 + 8 * i) 1 && (decide (i < d) || zeroAt bs (128 + 8 * i) 8))
      ∧ zeroAt bs 312 72 ∧ bs.length = 384 then
    some {
      compat := bits (leAt bs 68 1) 0 1 == 1
      digital := bits feat 0 1 == 1
      tree := bits feat 1 1 == 1
      draft := bits feat 2 1 == 1
      overflow := bits feat 3 1 == 1
      twoWall := bits feat 4 1 == 1
      origin := leAt bs 70 1
      rows := leAt bs 71 1
      cols := leAt bs 72 1
      dispatch := (List.range d).map (dispatchEnt bs)
      result := (List.range q).map fun i => leAt bs (256 + 2 * i) 2
      kvHeads := leAt bs 75 1
      layers := leAt bs 76 2
      heads := leAt bs 78 2
      vocab := leAt bs 80 4
      slotBase := leAt bs 84 4
      resultBase := leAt bs 88 4
      kvLanes := leAt bs 92 2
      kvPages := leAt bs 94 2
      steerWidth := leAt bs 96 2
      steerLayers := leAt bs 98 2
      steerEntries := leAt bs 100 2
      prefillLimit := leAt bs 102 2
      prefillRate := leAt bs 104 4
      loadMs := leAt bs 108 4
      ovfBytes := leAt bs 112 8
      companions := ((List.range 3).map fun i => BitVec.ofNat 128 (leAt bs (264 + 16 * i) 16)).filter (· != 0) }
  else none

/-! ### Relocation (R251, R541) -/

/-- Rows and span columns by which an image moves, and the wall it takes; `none` leaves the wall. -/
structure Reloc where
  wall : Option Nat
  dr : Int
  ds : Int
deriving DecidableEq, Repr, Inhabited

def ImgHeader.reloc (h : ImgHeader) (target : Nat) : Reloc :=
  { wall := if h.twoWall then none else some (target / 60)
    dr := (palRow target : Int) - palRow h.origin
    ds := (palCol target : Int) - palCol h.origin }

/-- Tile index t of the image after relocation: (w, c, k) becomes (w′, c + 11 Δr, k + 40 Δs). -/
def Reloc.tile (r : Reloc) (t : Nat) : Nat :=
  let w := r.wall.getD (t / 26400)
  26400 * w + (160 * ((t % 26400 / 160 : Nat) + 11 * r.dr) + ((t % 160 : Nat) + 40 * r.ds)).toNat

/-- W, C and K of a remote address relocated; QUEUE, ADDR and the reserved bits kept (R182, R252). -/
def Reloc.remote (r : Reloc) (a : Nat) : Nat :=
  let u := r.tile (26400 * bits a 40 1 + 160 * bits a 32 8 + bits a 24 8)
  a - (2 ^ 40 * bits a 40 1 + 2 ^ 32 * bits a 32 8 + 2 ^ 24 * bits a 24 8)
    + 2 ^ 40 * (u / 26400) + 2 ^ 32 * (u % 26400 / 160) + 2 ^ 24 * (u % 160)

/-- The pallets of the relocated rectangle; none where it leaves the module or a two-wall image leaves the seam (R203). -/
def ImgHeader.rect (h : ImgHeader) (target : Nat) : Option (List Nat) :=
  let r0 := palRow target
  let c0 := palCol target
  let block := fun (w c0 : Nat) => (List.range h.rows).flatMap fun r => (List.range h.cols).map fun c =>
    60 * w + 4 * (r0 + r) + c0 + c
  if 15 < r0 + h.rows ∨ 4 < c0 + h.cols then none
  else if h.twoWall then
    if target / 60 = 0 ∧ c0 + h.cols = 4 ∧ palCol h.origin = c0 then some (block 0 c0 ++ block 1 0) else none
  else some (block (target / 60) c0)

def ImgHeader.relocated (h : ImgHeader) (r : Reloc) : ImgHeader :=
  { h with
    dispatch := h.dispatch.map fun d => (r.tile d.1, d.2.1, d.2.2)
    result := h.result.map r.tile }

/-! ### Tile table, maps and shards (R346, R347, R349, R353) -/

def parseTileEnt (r : Reloc) (b : List Byte) : Option TileEnt :=
  if leAt b 3 1 < 2 ∧ leAt b 2 1 < 8 ∧ zeroAt b 7 1 ∧ zeroAt b 11 1 ∧ (leAt b 14 2 = 0 ∨ 1024 ≤ leAt b 12 2) then
    some ⟨r.tile (leAt b 0 2), leAt b 2 1, leAt b 3 1 == 1, BitVec.ofNat 24 (leAt b 4 4), BitVec.ofNat 24 (leAt b 8 4),
      leAt b 12 2, leAt b 14 2, BitVec.ofNat 64 (leAt b 16 8)⟩
  else none

/-- Consecutive records of a payload. -/
def chunksOf (size : Nat) : Nat → List Byte → List (List Byte)
  | 0, _ => []
  | n + 1, bs => bs.take size :: chunksOf size n (bs.drop size)

/-- The eight bank profiles of a TILE_TABLE as field values. -/
def profileFields (bs : List Byte) : List (Fld × Nat) :=
  (List.range 8).flatMap fun p => (List.range 24).flatMap fun b =>
    let v := leAt bs (24 * p + b) 1
    [(Reg.BANK_PROF_PWR p b, bits v 4 2), (Reg.BANK_PROF_PROT p b, bits v 2 2), (Reg.BANK_PROF_PORT p b, bits v 0 2)]

/-- Reserved encodings of a bank byte (R154). -/
def bankByteOk (v : Nat) : Bool := decide (v < 64) && bits v 4 2 != 3 && bits v 2 2 != 3

/-- Entries of a leaf or steering map, relocated. -/
def parseMap (r : Reloc) (first : Nat) (m : Map (Nat × Nat)) (bs : List Byte) : Map (Nat × Nat) :=
  let l := chunksOf 8 (bs.length / 8) bs
  (l.foldl (fun (a : Nat × Map (Nat × Nat)) b => (a.1 + 1, Map.insert a.2 a.1 (r.tile (leAt b 0 2), leAt b 4 4))) (first, m)).2

/-- A shard's header and payload (R346). -/
structure Shard where
  kind : Nat
  flags : Nat
  tile : Nat
  param : List Byte
  payload : List Byte
deriving DecidableEq, Repr, Inhabited

/-- PARAM bytes that the kind does not use are zero (R346, R347). -/
def paramOk (kind : Nat) (b : List Byte) : Bool :=
  match kind with
  | 2 => zeroAt b 4 44
  | 3 => zeroAt b 3 45
  | 4 => zeroAt b 4 44
  | 5 => zeroAt b 9 1 && zeroAt b 14 34
  | 8 => zeroAt b 4 44
  | 10 => zeroAt b 4 44
  | _ => zeroAt b 0 48
/-- Kinds that apply to the whole image, whose TILE is 0xFFFF_FFFF. -/
def wholeKind (kind : Nat) : Bool := [1, 2, 8, 9, 10].contains kind

def parseShard (index kind : Nat) (bs : List Byte) : Option Shard :=
  let fl := leAt bs 5 1
  if leAt bs 0 4 = index ∧ leAt bs 4 1 = kind ∧ fl < 8 ∧ zeroAt bs 6 2 ∧ leAt bs 12 4 + 64 = bs.length
      ∧ (kind = 5 ∨ bits fl 0 2 = 0) ∧ (kind = 4 ∨ bits fl 2 1 = 0) ∧ paramOk kind ((bs.drop 16).take 48)
      ∧ (if wholeKind kind then leAt bs 8 4 = 0xFFFFFFFF else leAt bs 8 4 < 52800) then
    some ⟨kind, fl, leAt bs 8 4, (bs.drop 16).take 48, bs.drop 64⟩
  else none

/-! ### Resident images of a partition -/

def Part.residentPlaces (P : Part) : List (Nat × Place) := P.places.filter fun e => e.2.state == .resident
/-- Headers of the resident images, in place order. -/
def Part.headers (P : Part) : List ImgHeader := P.residentPlaces.filterMap fun e => e.2.header
def Part.modPlace (P : Part) (v : Nat) (f : Place → Place) : Part :=
  { P with places := Map.modify {} P.places v f }

/-- Place states as WVER_PLACES reads them (R372). -/
def PlaceState.code : PlaceState → Nat
  | .empty => 0 | .registered => 1 | .loading => 2 | .resident => 3 | .removing => 4

/-- A bank's class under the profile a tile selects (R154, R155). -/
def Part.bankPort (P : Part) (t b : Nat) : Nat := P.getR (Reg.BANK_PROF_PORT (P.getR (Reg.TILE_PROF t)) b)

/-- The range lies in the scratchpad, in banks of the allowed classes under the selected profile. -/
def Part.regionOk (P : Part) (t addr n : Nat) (allow : List Nat) : Bool :=
  decide (addr + n ≤ padSize) && (banksOf addr n).all fun b => allow.contains (P.bankPort t b)

end Sys2Proof.Machine
end

