-- ==== Sys2Proof/Machine/Commit.lean ====
section
/-! DEFINITION. Staging and commit (R524 to R529): staged values, the consistency rules in table order, and what a commit that is
applied changes beside the registers. -/
namespace Sys2Proof.Machine

/-! ### Staged values -/

/-- A register file with staged values over it. -/
def RegFile.withStaged (r : RegFile) (st : List (Fld × Nat)) : RegFile := st.foldl (fun r x => r.set x.1 x.2) r
/-- The staged value of a field: the value in effect until a write changes it (R524). -/
def stagedOf (r : RegFile) (st : List (Fld × Nat)) (f : Fld) : Nat :=
  match st.find? fun x => x.1.key == f.key with
  | some x => x.2
  | none => r.get f
/-- A field's staged value replaced. -/
def stage (st : List (Fld × Nat)) (f : Fld) (v : Nat) : List (Fld × Nat) :=
  (st.filter fun x => x.1.key != f.key) ++ [(f, v % 2 ^ f.width)]

/-- The partition as its staged values would make it: a resident place whose removal they ask for is resident no more (R367, R525). -/
def Part.result (P : Part) : Part :=
  let Q := { P with regs := P.regs.withStaged P.staged }
  { Q with places := Q.places.map fun e =>
      (e.1, if Q.removing e.1 && !P.removing e.1 && e.2.state == .resident then { e.2 with state := .removing } else e.2) }
/-- A staged value of a block differs from the value in effect. -/
def Part.changes (P : Part) (b : Blk) : Bool := P.staged.any fun x => x.1.blk == b && x.2 != P.getR x.1
def Part.changed (P Q : Part) (f : Fld) : Bool := P.getR f != Q.getR f

/-! ### What the rules ask -/

/-- Slots bound or claimed. -/
def Part.usedSlots (P : Part) : List Nat := (P.slots.filter fun e => e.2.req.isSome).map (·.1)
/-- Admitted requests, and those of the hold queue. -/
def Part.admitted (P : Part) : List Req := P.slots.filterMap fun e => e.2.req
def Part.requests (P : Part) : List Req := P.admitted ++ P.holdQueue

/-- A ring has unconsumed entries, unfetched descriptors or owed records. -/
def Part.ringBusy (P : Part) (r : Nat) : Bool :=
  if r = 0 then P.fetchIdx != P.tail || !P.fetching.isEmpty
  else P.ringUsed r != 0 || !(P.ring r).waiting.isEmpty || (r == 1 && P.owed != 0)
def ringIds : List Nat := List.range 67
/-- An enabled ring is busy. -/
def Part.anyRingBusy (P : Part) : Bool := ringIds.any fun r => P.ringOn r && P.ringBusy r

/-- Every tile of the partition's pallets that selects profile `q`, if any does. -/
def Mach.selects (m : Mach) (p : Nat) (Q : Part) (q : Nat) : Bool :=
  (m.palletsOf p).any fun i => (tilesOfPallet i).any fun t => Q.getR (Reg.TILE_PROF t) == q
/-- A profile with no bank both ON and NARROW-class. -/
def Part.noNarrow (Q : Part) (q : Nat) : Bool :=
  !(List.range 24).any fun b => Q.getR (Reg.BANK_PROF_PWR q b) == 0 && Q.getR (Reg.BANK_PROF_PORT q b) == 0
/-- A profile with an ARRAY-class bank that is not ON. -/
def Part.offArrayBank (Q : Part) (q : Nat) : Bool :=
  (List.range 24).any fun b => Q.getR (Reg.BANK_PROF_PWR q b) != 0 && Q.getR (Reg.BANK_PROF_PORT q b) == 2
/-- An array of the tile has content VALID, PATCHED or LOADING. -/
def Tile.holdsLevels (T : Tile) : Bool :=
  T.arrs.any fun e => e.2.content == .valid || e.2.content == .patched || e.2.content == .loading

/-- A dispatch tile lies outside the pallets, or its card region is not 65 lines of an ARRAY-class or MORTAR-class bank. The declared
queue owns it: its descriptor covers the region and no lower-numbered valid one meets it (R143, R145, R256). A tile whose start code has
not yet run has no descriptors to test (log entry 18). -/
def Mach.dispatchBad (m : Mach) (p : Nat) (Q : Part) (d : Nat × Nat × Nat) : Bool :=
  let T := m.tile d.1
  let w := (Map.get 0 T.qdesc d.2.1).toNat
  let line := d.2.2 / 64
  let started := T.member && !T.allAlloc
  let meets := fun (q : Nat) =>
    let v := (Map.get 0 T.qdesc q).toNat
    bits v 31 1 == 1 && decide (bits v 16 15 ≤ line + 64) && decide (line ≤ bits v 16 15 + bits v 0 13)
  (m.owner d.1).map (·.val) != some p || d.2.2 % 64 != 0 || decide (64 ≤ d.2.1)
    || d.2.2 / 65536 != (d.2.2 + 65 * 64 - 1) / 65536 || !Q.regionOk d.1 d.2.2 (65 * 64) [2, 3]
    || ((started || bits w 31 1 == 1)
        && (bits w 31 1 == 0 || !(decide (bits w 16 15 ≤ line) && decide (line + 64 ≤ bits w 16 15 + bits w 0 13))
            || (List.range d.2.1).any meets))

/-- A slot region or result region does not fit its tile (R297). -/
def Part.regionsBad (Q : Part) (h : ImgHeader) : Bool :=
  let n := Q.slotCount
  let bad := fun (tiles : List Nat) (base size : Nat) (allow : List Nat) =>
    (List.range tiles.length).any fun i =>
      let k := (n + tiles.length - 1 - i) / tiles.length
      k != 0 && !Q.regionOk (tiles.getD i 0) base (size * k) allow
  bad (h.dispatch.map (·.1)) h.slotBase 4416 [0, 2, 3] || bad h.result h.resultBase 192 [2, 3]

/-- Two resident versions differ in something. -/
def differ {α β : Type} [BEq β] (l : List α) (f : α → β) : Bool :=
  match l with
  | a :: b :: _ => !(f a == f b)
  | _ => false

/-- Slot ranges of two partitions overlap. -/
def Mach.slotsOverlap (m : Mach) (p : Nat) (Q : Part) : Bool :=
  let b := Q.getR Reg.SERVE_CFG_SLOT_BASE
  let n := Q.slotCount
  partIds.any fun q =>
    let R := m.part q
    let b' := R.getR Reg.SERVE_CFG_SLOT_BASE
    q != p && R.isSealed && decide (b < b' + R.slotCount) && decide (b' < b + n)

/-- The version the commit makes active is new and not resident: it enters through DRAIN (R334). -/
def Part.drains (P Q : Part) : Bool := Q.active != P.active && !P.isResident Q.active

/-- A commit that moves the rings off a down port (R430), or, once a disabled function is enabled again, on the same port (R483): it gives
every enabled ring a new base; a size may be written with its old value (log entry 106). -/
def Part.failsOver (P Q : Part) (up : Bool) : Bool :=
  (if P.changed Q Reg.SERVE_CFG_PORT then !up else P.hostLost && up)
    && ringIds.all fun r => !P.ringOn r || P.changed Q (Reg.BASE_LO_BASE r) || P.changed Q (Reg.BASE_HI_BASE r)

/-! ### The rules of R529 for a partition, in table order -/

/-- Rules of ARRAY_SETUP, TILE_SETUP and TURN_SETUP. -/
def Mach.rulesTile (m : Mach) (p : Nat) (Q : Part) : List (Nat × Bool) :=
  let lim := Q.getR Reg.ARR_CFG_ROW_GROUP_LIMIT
  let hs := Q.headers
  [(0x0010, lim != 32 && lim != 64 && lim != 128),
   (0x0011, decide (300 < Q.getR Reg.ARR_CAL_CFG_CAL_PERIOD + Q.getR Reg.ARR_CAL_CFG_CAL_GRACE)),
   (0x0012, Q.flagR Reg.ARR_MODE_DIGITAL && hs.any fun h => !h.digital),
   (0x0020, (List.range 8).any fun q => Q.noNarrow q && m.selects p Q q),
   (0x0021, (m.tilesOf p).any fun t => Q.offArrayBank (Q.getR (Reg.TILE_PROF t)) && (m.tile t).holdsLevels),
   (0x0022, hs.any fun h => h.compat != Q.compat),
   (0x0030, Q.flagR Reg.TURN_CFG_CHAINED && partIds.any fun q => q != p && (m.part q).flagR Reg.TURN_CFG_CHAINED),
   (0x0031, hs.any fun h => h.dispatch.any fun d => m.dispatchBad p Q d),
   (0x0032, Q.flagR Reg.TURN_CFG_CHAINED && Q.confidential && Q.keys.link.isNone)]

/-- Rules of GEN_SETUP (R297). -/
def Part.rulesGen (Q : Part) : List (Nat × Bool) :=
  let hs := Q.headers
  [(0x0040, differ hs (fun h => (h.kvLanes, h.kvPages)) || differ Q.residentPlaces fun e => e.2.leafDigest),
   (0x0041, differ hs fun h => (h.steerWidth, h.steerLayers, h.heads, h.steerEntries)),
   (0x0042, hs.any fun h => Q.regionsBad h),
   (0x0043, Q.flagR Reg.SPEC_CFG_TREE_OK && hs.any fun h => !h.tree)]

/-- Rules of SERVE_SETUP (R338), for a commit that changes the block. -/
def Mach.rulesServe (m : Mach) (p : Nat) (P Q : Part) (up : Bool) : List (Nat × Bool) :=
  let b := Q.getR Reg.SERVE_CFG_SLOT_BASE
  let act := Q.active
  let st := (P.place act).state
  let hdr := (P.place act).header.getD {}
  let pause := Q.getR Reg.DRAIN_CFG_DRAIN_PAUSE_MAX
  let moved := fun r => P.changed Q (Reg.BASE_LO_BASE r) || P.changed Q (Reg.BASE_HI_BASE r)
    || P.changed Q (Reg.RING_CFG_SIZE_CODE r) || P.changed Q Reg.SERVE_CFG_PORT
  [(0x0050, decide (1024 < b + Q.slotCount) || m.slotsOverlap p Q
      || (!P.usedSlots.isEmpty && P.changed Q Reg.SERVE_CFG_SLOT_BASE)
      || P.usedSlots.any fun s => decide (Q.slotCount ≤ s)),
   (0x0051, (!P.failsOver Q up && ringIds.any fun r => P.ringOn r && moved r && P.ringBusy r)
      || !Q.ringOn 1 || !Q.ringOn 2 || P.admitted.any fun r => !Q.ringOn (3 + r.desc.stream)),
   (0x0052, !((List.range 8).any fun k => Q.flagR (Reg.CLASS_CFG_VALID k))
      || (P.admitted.any fun r => !Q.flagR (Reg.CLASS_CFG_VALID r.desc.cls))
      || (List.range 8).any fun k =>
        let ceil := Q.getR (Reg.CLASS_TBT_TBT_CEIL k)
        ceil != 0 && decide (ceil < Q.getR (Reg.CLASS_TBT_TBT_TARGET k))),
   (0x0053, !(st == .resident || st == .registered || (st == .loading && act == P.active))
      || (act != P.active && !P.normal)),
   (0x0054, P.drains Q && P.residentPlaces.any fun e =>
      e.1 != P.active && e.2.header.any fun h => !hdr.companions.contains h.imageId),
   (0x0055, P.drains Q && (pause == 0 || decide (pause < hdr.loadMs)))]

/-- The places a WVER_REMOVE change removes. -/
def Part.newRemovals (P Q : Part) : List Nat :=
  (List.range 4).filter fun v => Q.removing v && !P.removing v

/-- Rule of LOAD_SETUP (R374) and rules of the function map (R512). -/
def Mach.rulesHost (m : Mach) (p : Nat) (P Q : Part) (up : Bool) : List (Nat × Bool) :=
  [(0x0060, (P.newRemovals Q).any fun v =>
      !P.isResident v || v == Q.active || P.requests.any fun r => r.wver.val == v),
   (0x0070, (m.funcOn p (Q.getR Reg.SERVE_CFG_PORT)).isNone),
   (0x0071, P.changed Q Reg.SERVE_CFG_PORT && !P.failsOver Q up && P.anyRingBusy)]

/-- The first rule that fails, of those in a list. -/
def firstRule (l : List (Nat × Bool)) : Option Nat := (l.find? fun r => r.2).map (·.1)

/-- The first rule that a partition's commit breaks (R525). The rules of SERVE_SETUP bear on a commit that changes that block. -/
def Mach.partRule (m : Mach) (p : Nat) (P Q : Part) (up : Bool) : Option Nat :=
  if !P.isSealed then some 1
  else firstRule (m.rulesTile p Q ++ Q.rulesGen ++ (if P.changes .serve then m.rulesServe p P Q up else [])
    ++ m.rulesHost p P Q up)

/-- The first rule that a module commit breaks (R512, R529). -/
def Mach.moduleRule (m : Mach) : Option Nat :=
  let n := { m with regs := m.regs.withStaged m.staged }
  let port := fun p => (m.part p).getR Reg.SERVE_CFG_PORT
  firstRule
    [(0x0070, partIds.any fun p => (n.funcOn p (port p)).isNone),
     (0x0071, partIds.any fun p => n.funcOn p (port p) != m.funcOn p (port p) && (m.part p).anyRingBusy)]

/-! ### Banks (R146 to R148, R156) -/

/-- Tags of a bank's lines read empty from the moment it becomes pending-scrub. -/
def Tile.scrubBank (T : Tile) (b : Nat) : Tile :=
  { T with
    banks := Map.modify {} T.banks b fun k => { k with scrub := true }
    full := T.full.filter fun e => e.1 / 1024 != b }

def pwrOf (v : Nat) : BankPwr := if v = 0 then .on else if v = 1 then .retain else .off
def protOf (v : Nat) : ProtClass := if v = 0 then .state else if v = 1 then .weight else .scratch
def portOf (v : Nat) : PortClass := if v = 0 then .narrow else if v = 1 then .wide else if v = 2 then .array else .mortar

/-- Local operations of the tile issued before an identity are still to complete: vector, Kiln and array operations, queued ones
included, and gets (R156; log entry 88). -/
def Tile.busyOps (T : Tile) (id : Nat) : Bool :=
  (T.vq.any fun e => match e with | .mem _ i _ _ _ _ _ _ => decide (i < id) | _ => false) || (T.kq.any fun e => decide (e.1 < id))
    || (T.aq.any fun c => decide (c.id < id)) || T.mq.any fun o => o.kind == .get && decide (o.id < id)

/-- A bank takes the binding of a profile byte (R146, R147, R156). Its change starts at once, or waits for earlier operations; a change
of power then runs until BANK_POWER_CHANGE_DONE. A change of class, and OFF, whose contents are lost, leave it pending-scrub (log
entry 89). -/
def Tile.bindBank (T : Tile) (b pwr prot port : Nat) : Tile :=
  let k := T.bank b
  if k.pwr = pwrOf pwr ∧ k.prot = protOf prot ∧ k.port = portOf port then T
  else
    let scrub := k.prot != protOf prot || k.port != portOf port || (k.pwr != pwrOf pwr && (k.pwr == .off || pwrOf pwr == .off))
    let k' : Bank := { k with pwr := pwrOf pwr, prot := protOf prot, port := portOf port }
    if k.held then
      T.setBank b { k' with changing := k.oldPwr != pwrOf pwr, heldAt := T.nextId, scrubNext := k.scrubNext || scrub }
    else if T.busyOps T.nextId then
      T.setBank b { k' with changing := k.changing || k.pwr != pwrOf pwr, held := true, heldAt := T.nextId, oldPwr := k.pwr,
                            oldProt := k.prot, oldPort := k.port, scrubNext := scrub }
    else
      let T' := T.setBank b { k' with changing := k.changing || k.pwr != pwrOf pwr }
      if scrub then T'.scrubBank b else T'

/-- A tile takes the bank profile that its partition selects for it. -/
def Tile.bindProfile (P : Part) (t : Nat) (T : Tile) : Tile :=
  let q := P.getR (Reg.TILE_PROF t)
  (List.range 24).foldl (fun T b =>
    T.bindBank b (P.getR (Reg.BANK_PROF_PWR q b)) (P.getR (Reg.BANK_PROF_PROT q b)) (P.getR (Reg.BANK_PROF_PORT q b))) T

/-- The profiles in effect reach the tiles of the partition's pallets; those of a parked one when it is unparked. -/
def Mach.bindTiles (m : Mach) (p : Nat) : Mach :=
  ((m.palletsOf p).filter fun i => !(m.pallet i).parked).foldl (fun m i =>
    m.modTiles (tilesOfPallet i) fun t T => T.bindProfile (m.part p) t) m

/-! ### What a commit changes beside registers -/

/-- Rings that a commit enables or moves start again at entry 0 with PHASE 1 (log entry 19). -/
def Part.resetRings (P Q : Part) : Part :=
  ringIds.foldl (fun R r =>
    let fresh := Q.ringOn r && (!P.ringOn r || P.changed Q (Reg.BASE_LO_BASE r) || P.changed Q (Reg.BASE_HI_BASE r)
      || P.changed Q (Reg.RING_CFG_SIZE_CODE r) || P.changed Q Reg.SERVE_CFG_PORT)
    if !fresh then R
    else if r = 0 then { R with fetchIdx := 0, tail := 0 }
    else R.modRing r fun g => { g with prod := 0, cons := 0, phase := true, unsignalled := 0, kept := [] }) Q

/-- The kept records of R429, written into the new rings in their order, a request's token records before its completion record
(R26, R430). -/
def Part.rewriteKept (P : Part) (c : HCtx) (R : Part) : PRes :=
  let one := fun (rid : RingId) (R : Part) =>
    (P.ring rid.num).kept.foldl (fun (r : PRes) b => r.andThen fun R => if R.ringOn rid.num then R.emit c rid b else (R, []))
      (R, [])
  forEach ((List.finRange 64).map .stream ++ [.completion, .event]) one (R, [])

/-- What a failover does beside the new rings (R305, R430): kept records are written again, waiting ones follow, and reads owed to
the old host end their requests with FETCH_ERROR. -/
def Part.failOver (P : Part) (c : HCtx) (R : Part) : PRes :=
  let n := (ringIds.map fun r => (P.ring r).kept.length).foldl (· + ·) 0
  let lost := (R.fetching.filter fun f => f.data.isNone).map fun f => plainDone f.seq {} .fetchError R.turnSeq
  let late := R.reads.map fun h => plainDone h.seq h.desc .fetchError R.turnSeq
  let R := { R with
    hostLost := false
    fetching := R.fetching.filter fun f => f.data.isSome
    reads := []
    boundaryDone := R.boundaryDone ++ late
    slots := R.slots.map fun e => (e.1, { e.2 with req := e.2.req.map fun r =>
      if r.promptRead then r else { r with ending := some (r.ending.getD .fetchError) } }) }
  let r := (P.rewriteKept c R).andThen fun R => R.drainAll c
  (forEach lost (fun d R => R.complete c d) r).andThen fun R => R.event c 0x0109 c.port.val n

/-- Slots bound to a version. -/
def Part.boundTo (P : Part) (v : Nat) : Nat :=
  (P.slots.filter fun e => e.2.bound && e.2.req.any fun r => r.wver.val == v).length

/-- WVER_IDLE when no bound slot uses a version that some did (R333). -/
def Part.noteIdle (P : Part) (c : HCtx) (v before : Nat) : PRes :=
  if before ≠ 0 ∧ P.boundTo v = 0 then P.event c 0x0006 v 0 else (P, [])

/-- FOLLOW slots move to the new active version (R332). -/
def Part.follow (P : Part) (v : Nat) : Part :=
  { P with slots := P.slots.map fun e =>
      (e.1, { e.2 with req := e.2.req.map fun r => if r.desc.follow then { r with wver := Fin.ofNat 4 v } else r }) }

/-- A new active version that is resident (R333). -/
def Part.switchTo (P : Part) (c : HCtx) (old new : Nat) : PRes :=
  let before := P.boundTo old
  ((((P.setR Reg.TURN_CFG_FAULTED 0).evt Reg.SERVE_EVT_WVER_SWITCHED).follow new).event c 0x0003 new (P.turnSeq + 1)).andThen
    fun P => P.noteIdle c old before

/-- A new active version that is not: DRAIN (R334). -/
def Part.enterDrain (P : Part) (c : HCtx) (old : Nat) : PRes :=
  ((((P.setR Reg.TURN_CFG_FAULTED 0).setR Reg.WVER_CFG_WVER_STATE 1).setR Reg.WVER_CFG_DRAIN_FROM old).evt
    Reg.SERVE_EVT_DRAIN_ENTERED).event c 0x0004 old (P.boundTo old)

/-- The decision recorded in STAGE_CTRL (R525, R528). -/
def Part.recordCommit (P : Part) (rule : Option Nat) : Part :=
  let P := P.setR Reg.COMMIT_STATUS_STATE 0
  match rule with
  | some r => ((P.setR Reg.COMMIT_STATUS_RESULT 2).setR Reg.COMMIT_STATUS_RULE r).evt Reg.STAGE_EVT_COMMIT_REFUSED
  | none =>
    (((P.setR Reg.COMMIT_STATUS_RESULT 1).setR Reg.COMMIT_SEQ_COMMITS (P.getR Reg.COMMIT_SEQ_COMMITS + 1)).setR
      Reg.LAST_LO_LAST (P.turnSeq % 2 ^ 32)).setR Reg.LAST_HI_LAST (P.turnSeq / 2 ^ 32)

/-- Removal of a place begins: it enters REMOVING and the other version's solo entry takes effect (R367). -/
def Part.removePlace (P : Part) (v : Nat) : Part :=
  let Q := P.modPlace v fun pl => { pl with state := .removing }
  if P.loadOp.isSome then Q else Q.setR Reg.LOAD_STATUS_STATE 6

/-- The entry page that is in effect for the resident places: the joint page of the one loaded beside the other, else the solo
page (R351). -/
def Part.entryPage (P : Part) : Option (Fin 3) :=
  match P.residentPlaces with
  | [e] => e.2.soloPage
  | l => l.findSome? fun e => e.2.jointPage

/-- The page of every listed tile follows the resident places (R350). -/
def Mach.setPages (m : Mach) (p : Nat) : Mach :=
  match (m.part p).entryPage with
  | some g => m.modTiles (m.tilesOf p) fun _ T => { T with page := g }
  | none => m

/-- Member tiles follow the resident images: one that gains code starts at 0x0000 with its own state at its reset values (R157, R169,
R185, R225); one that loses it stops, and what waits at it is turned away (log entry 100). -/
def Mach.setMembers (m : Mach) (p : Nat) : Mach :=
  let ents := (m.part p).residentPlaces.flatMap fun e => e.2.tiles.filter (·.member)
  let ts := ents.map (·.tile)
  let gone := (m.members p).filter fun t => !ts.contains t
  let m := gone.foldl (fun m t => m.dropWaiting t true) m
  let m := m.modTiles gone fun _ T => { T with member := false, run := .stopped }
  m.modTiles ts fun _ T => if T.member then T else
    { T with member := true, run := .running, pc := 0, x := [], v := [], vPoison := [], p := [], flags := [],
             alloc := [], allAlloc := true, beatDue := none, lastBeat := none, beatWait := false, cq := [], cqLost := false,
             excCause := none, excPc := 0, excInfo := 0, excMore := 0, kIssued := [], acc := [], qdesc := [], qdescErr := [] }

/-- A partition's commit is decided (R525): refused with its rule, or applied. -/
def Mach.decideCommit (m : Mach) (p : PartId) : Mach × Bool :=
  let P := m.part p.val
  if P.getR Reg.COMMIT_STATUS_STATE ≠ 1 then (m, false)
  else
    let c := m.hctx p
    let Q := P.result
    match m.partRule p.val P Q c.up with
    | some r => (m.modPart p.val fun P => P.recordCommit (some r), false)
    | none =>
      let over_ := P.failsOver Q c.up
      let tiles := P.changes .tile
      let R := (P.resetRings { Q with staged := [] }).recordCommit none
      let m1 := m.setPart p.val R
      let m2 := m1.onPart p fun c R =>
        let r := if over_ then P.failOver c R else (R, [])
        let r := if Q.active = P.active then r
          else r.andThen fun R => if P.isResident Q.active then R.switchTo c P.active Q.active else R.enterDrain c P.active
        r.andThen fun R => ((P.newRemovals Q).foldl (fun R v => R.removePlace v) R, [])
      let m2 := if over_ then m2.evt Reg.SVC_EVT_HOST_FAILOVER else m2
      let m3 := if tiles then m2.bindTiles p.val else m2
      (if (P.newRemovals Q).isEmpty then m3 else (m3.setPages p.val).setMembers p.val, true)

/-- Partitions whose function on PORT cannot be reached are marked (R483). -/
def Mach.markLost (m : Mach) : Mach :=
  (List.finRange 16).foldl (fun m p =>
    if (m.part p.val).isSealed && !(m.hctx p).up then m.modPart p.val fun P => { P with hostLost := true } else m) m

/-- Partitions whose function has come back take up ring traffic again: what waits is written, and fetch goes on (R429). -/
def Mach.takeUp (m : Mach) (was : List PartId) : Mach :=
  was.foldl (fun m p =>
    if (m.hctx p).up then m.onPart p fun c P => (P.drainAll c).andThen fun P => P.fetchMore c 16 else m) m
/-- SEALED partitions whose function on PORT cannot be reached. -/
def Mach.cutOff (m : Mach) : List PartId := (List.finRange 16).filter fun p => (m.part p.val).isSealed && !(m.hctx p).up

/-- A module commit is decided at a module beat (R525). FUNC_MAP may give a partition another function on its port (R482). -/
def Mach.decideModuleCommit (m : Mach) : Mach :=
  if m.getR Reg.COMMIT_STATUS_STATE ≠ 1 then m
  else
    let m' := m.setR Reg.COMMIT_STATUS_STATE 0
    match m.moduleRule with
    | some r => ((m'.setR Reg.COMMIT_STATUS_RESULT 2).setR Reg.COMMIT_STATUS_RULE r).evt Reg.STAGE_EVT_COMMIT_REFUSED
    | none =>
      let n : Mach := { m' with regs := m'.regs.withStaged m.staged, staged := [] }
      let n := (n.takeUp m.cutOff).markLost
      (((n.setR Reg.COMMIT_STATUS_RESULT 1).setR Reg.COMMIT_SEQ_COMMITS (m.getR Reg.COMMIT_SEQ_COMMITS + 1)).setR
        Reg.LAST_LO_LAST (m.timeUs % 2 ^ 32)).setR Reg.LAST_HI_LAST (m.timeUs / 2 ^ 32)

end Sys2Proof.Machine
end

