-- ==== Sys2Proof/Machine/Residency.lean ====
section
/-! DEFINITION. What the loading service does at boundaries (R339, R351, R356, R367, R371) and the start of a scrub (R380, R398). -/
namespace Sys2Proof.Machine

/-- Events of LOAD_EVT signal the vector of LOAD_IRQ (R372). -/
def Part.loadEvt (P : Part) (c : HCtx) (f : Fld) : PRes :=
  (P.evt f, if c.up then [.msix c.port c.func (P.getR Reg.LOAD_IRQ_VECTOR)] else [])

/-! ### Arrays as the loader leaves them -/


/-- The power state of array `a` of tile `t` under R371. -/
def Part.arrPower (P : Part) (t a : Nat) : ArrPower :=
  match P.residentPlaces.find? fun e => e.2.tiles.any fun x => x.tile == t && x.arrUse.getLsbD a with
  | some e => if e.2.hotArrs.contains (t, a) then .active else .standby
  | none => if P.residentPlaces.any fun e => e.2.poolArrs.contains (t, a) then .standby else .off

/-- The power state of every array follows the resident images (R371); an array not listed is EMPTY and OFF. -/
def Mach.powerArrays (m : Mach) (p : Nat) : Mach :=
  let P := m.part p
  let used := P.residentPlaces.flatMap fun e => e.2.tiles.map (·.tile)
  let all := (m.tilesOf p ++ used.filter fun t => !(m.tilesOf p).contains t)
  m.modTiles all fun t T => (List.range 64).foldl (fun T a => T.modArr a fun A =>
    match P.arrPower t a with
    | .off => A.switchedOff
    | w => { A with power := w }) T

/-- The same before place `v` is resident, as if it were (R356, step 6). -/
def Mach.powerStaged (m : Mach) (p : PartId) (v : Nat) : Mach :=
  { m with tiles := ((m.modPart p.val fun P => P.modPlace v fun pl => { pl with state := .resident }).powerArrays p.val).tiles }

/-! ### The end of a load -/

/-- The loading service erases arrays of a tile (R69); whether one keeps charge is a free value (log entry 103). -/
def Mach.loaderErase (m : Mach) (t : Nat) (arrs : List Nat) : Mach :=
  { (m.modTile t fun T => arrs.foldl (fun T a => T.modArr a fun A => A.eraseDone m.timeUs (Config.eraseFails m.ctr t a)) T) with
    ctr := m.ctr + 1 }

/-- The commands of a load that ends leave their controllers: a PROG that runs ends as one aborted by UE, its arrays UNKNOWN (R68; log
entry 102). The arrays that the load has programmed are erased (R356). -/
def Mach.eraseProgrammed (m : Mach) (L : Load) : Mach :=
  let m := L.runs.foldl (fun m r => m.modTile r.tile fun T =>
    (maskArrs r.mask.toNat).foldl (fun T a => T.modArr a fun A =>
      if A.content == .loading then { A with content := .unknown } else A)
      { T with aq := T.aq.filter fun c => c.id != r.cmd }) m
  ((L.programmed.map (·.1)).dedup).foldl (fun m t => m.loaderErase t ((L.programmed.filter fun x => x.1 == t).map (·.2)).dedup) m

/-- A bank zeroed: every byte, tag and poison bit. -/
def Tile.zeroBank (T : Tile) (b : Nat) : Tile :=
  { T with
    banks := Map.modify {} T.banks b fun k => { k with scrub := false }
    mem := T.mem.filter fun e => e.1 / 65536 != b
    full := T.full.filter fun e => e.1 / 1024 != b
    poison := T.poison.filter fun e => e.1 / 1024 != b
    wordErr := T.wordErr.filter fun e => e.1 / 8192 != b }

/-- The lines and the body of a place are released: zero for the next load, but for what another resident place uses (R151, R367; log
entry 104). -/
def Mach.releaseLines (m : Mach) (p : PartId) (v : Nat) (pl : Place) : Mach :=
  let kept := ((m.part p.val).residentPlaces.filter fun e => e.1 != v).flatMap fun e => e.2.tiles
  pl.tiles.foldl (fun m x =>
    let others := kept.filter fun y => y.tile == x.tile
    let banks := (List.range 24).filter fun b =>
      (others.isEmpty || x.bankUse.getLsbD b || x.stageBanks.getLsbD b) && !(others.any fun y => y.bankUse.getLsbD b)
        && !((m.tile x.tile).bank b).scrub
    m.modTile x.tile fun T =>
      let T1 := banks.foldl Tile.zeroBank T
      { T1 with body := T1.body.filter fun e => decide (e.1 < x.codeBase) || decide (x.codeBase + x.codeWords ≤ e.1) }) m

/-- A load or a registration ends with a reason (R356, R373): REGISTERED where its manifest was verified, else EMPTY. -/
def Mach.failLoad (m : Mach) (p : PartId) (reason : Nat) : Mach :=
  match (m.part p.val).loadOp with
  | none => m
  | some L =>
    let pl := (m.part p.val).place L.place.val
    let m := if L.registerOnly then m else (m.eraseProgrammed L).releaseLines p L.place.val pl
    m.onPart p fun c P =>
      let ok := (P.place L.place.val).manifest.isSome && !L.registerOnly
      let P := P.modPlace L.place.val fun pl =>
        if ok then { state := .registered, manifest := pl.manifest, header := pl.header } else {}
      let P := { P with loadOp := none }
      ((P.setR Reg.LOAD_STATUS_STATE 5).setR Reg.LOAD_STATUS_REASON reason).loadEvt c
        (if L.applied.isEmpty && L.inFlight.isEmpty && L.next = 0 then Reg.LOAD_EVT_REFUSED else Reg.LOAD_EVT_FAILED)

/-- A commit that the module makes itself names the rule it broke (R373, R527). -/
def Mach.nameRule (m : Mach) (p : PartId) (r : Nat) : Mach := m.modPart p.val fun P => P.setR Reg.COMMIT_STATUS_RULE r
/-- Step 3 of a load: the staged tables are committed at a boundary, or refused under a rule of TILE_SETUP. -/
def Mach.commitTables (m : Mach) (p : PartId) : Mach :=
  let P := m.part p.val
  match P.loadOp with
  | some L =>
    if !L.tablesDue then m
    else
      let Q := { P with regs := P.regs.withStaged L.profiles }
      match firstRule ((m.rulesTile p.val Q).filter fun r => r.1 == 0x0020 || r.1 == 0x0021) with
      | some r => (m.nameRule p r).failLoad p 0x0E
      | none =>
        (m.setPart p.val ({ Q with loadOp := some { L with tablesDue := false, tablesDone := true } }.setR
          Reg.LOAD_STATUS_STATE 2)).bindTiles p.val
  | none => m

/-- The geometry fields that resident images give (R296, R336). -/
def Part.setGeometry (P : Part) (h : ImgHeader) : Part :=
  let P := ((P.setR Reg.KV_POOL_KV_PAGES h.kvPages).setR Reg.KV_POOL_KV_LANES h.kvLanes).setR
    Reg.STEER_CFG_STEER_ENTRIES h.steerEntries
  if P.prefillHist.isEmpty then P.setR Reg.PREFILL_RATE h.prefillRate else P

/-- Step 6 of a load: residency is committed at a boundary (R356, R527), or refused under its rule. -/
def Mach.commitResidency (m : Mach) (p : PartId) : Mach :=
  let P := m.part p.val
  match P.loadOp with
  | some L =>
    if !L.staged then m
    else
      let Q := P.modPlace L.place.val fun pl => { pl with state := .resident }
      match m.partRule p.val { Q with staged := [] } Q true with
      | some r => (m.nameRule p r).failLoad p 0x0E
      | none =>
        let hdr := (Q.place L.place.val).header.getD {}
        let m := m.onPart p fun c _ =>
          let Q := { (Q.setGeometry hdr) with loadOp := none }
          ((Q.setR Reg.LOAD_STATUS_STATE 0).setR Reg.TURN_CFG_FAULTED 0).loadEvt c Reg.LOAD_EVT_LOADED
        (((m.powerArrays p.val).setPages p.val).setMembers p.val)
  | none => m

/-! ### The start of a load -/

/-- A load of the partition runs, or four loads of STANDARD partitions do (R340). -/
def Mach.loadBusy (m : Mach) (p : PartId) : Bool :=
  (m.part p.val).loadOp.isSome
    || (!(m.part p.val).confidential
        && decide (4 ≤ (partIds.filter fun q => (m.part q).loadOp.isSome && !(m.part q).confidential).length))

/-- LOAD_SRC names no usable source (R373, SOURCE). A relay is configured for a hop above 0. -/
def Mach.sourceBad (m : Mach) (p : PartId) : Bool :=
  let P := m.part p.val
  let s0 := P.flagR Reg.LOAD_SRC_SRC_PE0
  let s1 := P.flagR Reg.LOAD_SRC_SRC_PE1
  let su := P.flagR Reg.LOAD_SRC_SRC_UP
  (!s0 && !s1 && !su) || (s0 && !(m.hostPort 0).up) || (s1 && !(m.hostPort 1).up)
    || (su && P.getR Reg.RELAY_CFG_HOP == 0)

/-- The load takes its data from upstream (R361): a hop above 0 whose LOAD_SRC names the upstream link (log entry 43). -/
def Part.fromUp (P : Part) : Bool := P.getR Reg.RELAY_CFG_HOP != 0 && P.flagR Reg.LOAD_SRC_SRC_UP

/-- The read of the manifest from the first source of LOAD_SRC (R356, step 1); an upstream source sends it unasked. -/
def Part.askManifest (P : Part) (p : PartId) : List Out :=
  let a := BitVec.ofNat 64 (64 * P.getR Reg.MANIFEST_LO_ADDR + 2 ^ 32 * P.getR Reg.MANIFEST_HI_ADDR)
  let n := P.getR Reg.MANIFEST_LEN + (if P.confidential then 32 else 0)
  if P.fromUp then []
  else if P.flagR Reg.LOAD_SRC_SRC_PE0 then [.hostRead (some p) 0 a n]
  else if P.flagR Reg.LOAD_SRC_SRC_PE1 then [.hostRead (some p) 1 a n]
  else []

/-- REGISTER or LOAD of a place (R339, R340, R373). A place that is neither EMPTY nor REGISTERED takes no such command
(log entry 20), nor does a partition that is not SEALED, or a CONFIDENTIAL one without host keys (R390). The loads of the seal
are counted for the envelopes of R393. -/
def Mach.startLoad (m : Mach) (p : PartId) (v : PlaceNo) (registerOnly reload : Bool) : Mach :=
  let refuse := fun (reason : Nat) => m.onPart p fun c P => (P.setR Reg.LOAD_STATUS_REASON reason).loadEvt c Reg.LOAD_EVT_REFUSED
  let st := ((m.part p.val).place v.val).state
  if !(m.part p.val).isSealed || ((m.part p.val).confidential && (m.part p.val).keys.inKey.isNone) then m
  else if m.loadBusy p then refuse 0x01
  else if m.sourceBad p then refuse 0x02
  else if st = .empty ∨ (st = .registered ∧ !registerOnly) then
    m.onPart p fun _ P =>
      let P := if registerOnly then P else P.modPlace v.val fun pl => { pl with state := .loading }
      let L : Load := { place := v, registerOnly := registerOnly, reload := reload }
      let P := { P with loadOp := some L, keys := { P.keys with loads := P.keys.loads + 1 } }
      let P := (((P.setR Reg.LOAD_STATUS_STATE 1).setR Reg.LOAD_STATUS_PLACE v.val).setR Reg.LOAD_STATUS_REASON 0).setR
        Reg.LOAD_DONE_SHARDS_DONE 0
      let P := ((P.setR Reg.LOAD_TOTAL_SHARDS_TOTAL 0).setR Reg.LOAD_FAIL_SHARD_INDEX 0).setR Reg.LOAD_FAIL_HOP 0
      (P.setR Reg.LOAD_FAIL_HOP_ATTEMPTS 0, P.askManifest p)
  else m

/-! ### The end of every request (R243, R380, R422) -/

/-- A request that a slot or the hold queue carries ends now: its record follows its tokens, its slot and pages are freed (R25, R26).
A tuning request's entry returns to READY (R295). -/
def Part.finish (P : Part) (c : HCtx) (s : Nat) (st : Status) : PRes :=
  match (P.slot s).req with
  | none => (P, [])
  | some r =>
    let S := P.slot s
    let before := P.boundTo r.wver.val
    let r := if st == .completed then { r with cancelLate := P.cancels.any fun x => x.target == r.seq && decide (r.seq < x.seq) }
      else r
    let P := P.modSlot s fun _ => {}
    let P := if st == .completed then { P with endedNow := P.endedNow ++ [r.seq] } else P
    let P := if r.desc.type == .tune then
        { P with steers := Map.modify {} P.steers r.desc.steer fun e => { e with state := .ready } }
      else P
    let d : Done := { req := r, status := st, slot := if S.bound then some s else none, endTurn := P.turnSeq, reason := 0,
                      waitUs := if S.bound then r.bindUs - r.bellUs else 0 }
    (P.complete c d).andThen fun P => P.noteIdle c r.wver.val before

/-- A held request ends. -/
def Part.finishHeld (P : Part) (c : HCtx) (r : Req) (st : Status) (reason wait : Nat) : PRes :=
  { P with holdQueue := P.holdQueue.filter fun q => q.seq != r.seq }.complete c
    { req := r, status := st, slot := none, endTurn := P.turnSeq, reason := reason, waitUs := wait }

/-- Every admitted request ends with a status. -/
def Part.endAll (P : Part) (c : HCtx) (st : Status) : PRes := forEach P.usedSlots (fun s P => P.finish c s st) (P, [])

/-- Everything fetched that has no record yet ends with KILLED (R380, step 3). -/
def Part.killAll (P : Part) (c : HCtx) : PRes :=
  let plain := fun (seq : Nat) (d : Desc) (P : Part) => P.complete c (plainDone seq d .killed P.turnSeq)
  let r := P.endAll c .killed
  let r := forEach P.holdQueue (fun q P => P.finishHeld c q .killed 0 0) r
  let r := forEach P.cancels (fun x P => plain x.seq { code := 3, tag := x.tag } P) r
  let r := forEach P.steerOps (fun x P => plain x.seq { code := 5, tag := x.tag, steer := x.index } P) r
  let r := forEach P.boundaryDone (fun d P => P.complete c d) r
  let r := forEach P.reads (fun h P => plain h.seq h.desc P) r
  let r := forEach P.handed (fun h P => plain h.seq h.desc P) r
  forEach P.fetching (fun f P => plain f.seq {} P) r

/-! ### Scrub (R380, R398) -/

/-- A tile as its scrub begins: every bank pending-scrub, everything but the arrays at its reset value. -/
def Tile.scrubbed (T : Tile) : Tile := { Tile.fresh with arrs := T.arrs }

/-- Records of the partition still wait to be written. -/
def Part.recordsWait (P : Part) : Bool := !P.waitingDone.isEmpty || P.rings.any fun e => !e.2.waiting.isEmpty
/-- A partition as its scrub begins: SCRUBBING, set-up blocks, keys and module-side copies cleared. While records of R380 wait, what
their writing needs is kept: the rings, the blocks that describe them, and the outbound keys (R319, R398; log entry 99). -/
def Part.scrubbing (P : Part) : Part :=
  let Q : Part := { sealCount := P.sealCount, dmaSlots := P.dmaSlots }
  let Q := if P.recordsWait then
      { Q with
        regs := P.regs.filter fun e => e.1 / 2097152 == Blk.serve.num || e.1 / 2097152 == Blk.part.num
        rings := P.rings, waitingDone := P.waitingDone
        keys := { gen := P.keys.gen, outKey := P.keys.outKey, outOld := P.keys.outOld, outSeq := P.keys.outSeq } }
    else Q
  Q.setR Reg.PART_STATUS_STATE stScrubbing

/-- Step 4 of R380: the partition enters SCRUBBING. A re-placement of its tiles and their self-tests end (R381). -/
def Mach.beginScrub (m : Mach) (p : PartId) : Mach :=
  let ts := m.tilesOf p.val
  let m := m.modTiles ts fun _ T => T.scrubbed
  let mine := fun t => m.owner t == some p
  let m := { m with
    replaces := m.replaces.filter fun r => r.part != some p
    flight := m.flight.filter fun k => !mine k.target
    tests := m.tests.filter fun u => match u with
      | .line t _ => !mine t
      | .bank t _ => !mine t
      | .array t _ => !mine t
      | .word t _ => !mine t
      | _ => true }
  (m.setR Reg.SVC_STATUS_REPLACE_BUSY (b2n !m.replaces.isEmpty)).modPart p.val Part.scrubbing

end Sys2Proof.Machine
end

