-- ==== Sys2Proof/Machine/Boundary.lean ====
section
/-! DEFINITION. The actions of a turn boundary (R25): results, completions, cancellations, commits, admissions; then pages (R269,
R270), the composition of the turn (R326), slot regions and the turn card (R233 to R237, R266), and the trace (R534). -/
namespace Sys2Proof.Machine

/-! ### Result records (R279 to R283) -/

/-- Where a slot's record lies: result tile and address, under the image of its version (R279). -/
def Part.resultAt (P : Part) (s : Nat) : Option (Nat × Nat) :=
  match (P.slot s).req with
  | none => none
  | some r =>
    let h := (P.place r.wver.val).header.getD {}
    match h.result[s % h.result.length]? with
    | some t => some (t, h.resultBase + 192 * (s / h.result.length))
    | none => none

/-- Node d of an accepted path is a child of the node before it: node d of a chain; of a tree, an offered node whose parent in the host's
draft of the turn is the node before it (R283, R285). A tree without such a draft is known to the library alone: there a node comes
after its parent (log entry 68). -/
def pathOk (draft : Option Nat) (n acc : Nat) : Bool :=
  let tree := bits n 11 1 == 1
  (List.range acc).all fun d =>
    let v := blk n (32 + d) 1
    let prev := if d = 0 then 0 else blk n (31 + d) 1
    if tree then decide (prev < v) && decide (v ≤ blk n 4 1) && draft.all fun r => blk r (31 + v) 1 == prev else v == d + 1

/-- The record, of 192 bytes as a number, is consistent with its card entry (R283). LOSS is zero unless a tuning step completed (R281). -/
def recordOk (e : CardEntry) (tune : Bool) (draft : Option Nat) (turn n : Nat) : Bool :=
  let emit := blk n 2 1
  let acc := blk n 3 1
  let off := blk n 4 1
  let emitOk :=
    if e.decode then decide (1 ≤ emit) && (decide (acc + 1 ≤ emit) || bits n 8 1 == 1)
    else if e.lastChunk && !e.rebuild && !tune then emit == 1 && bits n 9 1 == 1
    else emit == 0
  blk n 0 1 == e.slot.val && blk n 8 8 == turn && bits n 12 4 == 0 && blk n 5 1 == 0 && blk n 20 12 == 0
    && decide (off ≤ e.positions - 1) && decide (acc ≤ off) && decide (emit ≤ 32) && emitOk && pathOk draft n acc && (bits n 10 1 == 1 || blk n 16 4 == 0)
    && blk n (32 + acc) (32 - acc) == 0 && blk n (64 + 4 * emit) (128 - 4 * emit) == 0

/-- A decode entry or a last chunk emits its tokens (R282, R317, R318). -/
def Part.emitTokens (P : Part) (c : HCtx) (s n : Nat) (r : Req) : PRes :=
  let emit := blk n 2 1
  let out := ((List.range emit).map fun i => BitVec.ofNat 32 (blk n (64 + 4 * i) 4)).take (r.desc.maxNew - r.tokens)
  let endTok := bits n 8 1 == 1 && out.length == emit
  let count := r.tokens + out.length
  let limit := decide (r.desc.maxNew ≤ count)
  let recs := tokenRecs r.desc.tag.toNat P.turnSeq (P.getR Reg.SERVE_CFG_SLOT_BASE + s) (blk n 3 1) r.seq (endTok || limit) 5
    r.tokens out
  let P := P.modSlot s fun S => { S with
    history := Map.writeFrom 0 S.history (r.desc.len + r.tokens) out
    req := S.req.map fun r => { r with
      tokens := count
      accepted := r.accepted + blk n 3 1
      endToken := endTok
      limit := limit
      ending := if endTok || limit then some .completed else r.ending } }
  let P := (P.cnt Reg.SPEC_OFFERED (blk n 4 1)).cnt Reg.SPEC_ACCEPTED (blk n 3 1)
  forEach recs (fun w P => P.offerToken c (Fin.ofNat 64 r.desc.stream) w) (P, [])

/-- A tuning chunk: the sweep moves on, and a completed step flips the entry's active copy (R293 to R295). -/
def Part.tuneChunk (P : Part) (c : HCtx) (s n : Nat) (e : CardEntry) (r : Req) : PRes :=
  let d := r.done + e.chunkLen
  let r1 :=
    if r.back then
      let left := r.chunks.dropLast
      if left.isEmpty then { r with back := false, done := 0, chunks := [] } else { r with done := d, chunks := left }
    else
      let cs := r.chunks ++ [e.chunkLen]
      if r.desc.len ≤ d then { r with back := true, done := 0, chunks := cs } else { r with done := d, chunks := cs }
  let P := P.modSlot s fun S => { S with req := some r1, committed := if r1.back then S.committed else r1.done,
                                         sampleCtr := S.sampleCtr + 1 }
  if bits n 10 1 = 1 then
    let steps := r.tokens + 1
    let fin := decide (r.desc.maxNew ≤ steps)
    let loss := BitVec.ofNat 32 (blk n 16 4)
    let P := { P with steers := Map.modify {} P.steers r.desc.steer fun t => { t with active := !t.active } }
    let P := (P.evt Reg.GEN_EVT_TUNE_STEP).modReq r.seq fun r =>
      { r with tokens := steps, loss := loss, limit := fin, ending := if fin then some .completed else r.ending }
    P.offerToken c (Fin.ofNat 64 r.desc.stream)
      (lossRec r.desc.tag.toNat P.turnSeq (P.getR Reg.SERVE_CFG_SLOT_BASE + s) r.seq steps loss.toNat fin)
  else (P, [])

/-- A collected record advances its slot (R282). -/
def Part.applyRecord (P : Part) (c : HCtx) (e : CardEntry) (n : Nat) : PRes :=
  let s := e.slot.val
  match (P.slot s).req with
  | none => (P, [])
  | some r =>
    let P := P.modSlot s fun S => { S with failedOnce := false }
    if r.ending.isSome then (P, [])
    else if e.rebuild then
      (P.modSlot s fun S =>
        let done := S.rebuilt + e.chunkLen
        if S.rebuildTo.all fun t => decide (t ≤ done) then { S with rebuildTo := none, rebuilt := 0, kvLost := false }
        else { S with rebuilt := done }, [])
    else if r.desc.type = .tune then P.tuneChunk c s n e r
    else if e.decode then
      (P.modSlot s fun S => { S with committed := e.committed + blk n 3 1 + 1, sampleCtr := e.sampleCtr + blk n 6 2 }).emitTokens
        c s n r
    else
      let P := P.modSlot s fun S => { S with
        committed := e.committed + e.chunkLen
        sampleCtr := if e.lastChunk then e.sampleCtr + blk n 6 2 else S.sampleCtr
        history := Map.writeFrom 0 S.history e.committed ((r.prompt.drop r.done).take e.chunkLen)
        req := some { r with done := r.done + e.chunkLen } }
      if e.lastChunk then P.emitTokens c s n { r with done := r.done + e.chunkLen } else (P, [])

/-! ### Steps 1 and 2 of R25 -/

/-- Steering writes whose records are in place complete at the boundary after (R289, R314). -/
def Part.endSteers (P : Part) (c : HCtx) : PRes :=
  let ready := P.steerOps.filter (·.applied)
  let P := { P with
    steerOps := P.steerOps.filter fun o => !o.applied
    steers := ready.foldl (fun m o => Map.modify {} m o.index fun t => { t with state := .ready }) P.steers }
  forEach ready (fun o P => P.complete c (plainDone o.seq { code := 5, tag := o.tag, steer := o.index } .completed P.turnSeq))
    (P, [])

/-- Step 1: records applied in slot order, then every request whose end is set, and control descriptors that are due. -/
def Part.stepEnds (P : Part) (c : HCtx) : PRes :=
  let recs := P.card.filterMap fun e => (P.collected.find? fun x => x.1 == e.slot.val).map fun x => (e, leNat x.2)
  let r := forEach recs (fun x P => P.applyRecord c x.1 x.2) ({ P with endedNow := [] }, [])
  let r := r.andThen fun P => forEach P.usedSlots (fun s P =>
    match (P.slot s).req.bind (·.ending) with
    | some st => P.finish c s st
    | none => (P, [])) (P, [])
  let r := r.andThen fun P => forEach P.boundaryDone (fun d P => P.complete c { d with endTurn := P.turnSeq })
    ({ P with boundaryDone := [] }, [])
  r.andThen fun P => P.endSteers c

/-- One cancel at its boundary (R330). -/
def Part.cancelOne (P : Part) (c : HCtx) (named : List Nat) (x : Cancel) : PRes :=
  let answer := fun (st : Status) (late : Bool) (P : Part) =>
    let d := plainDone x.seq { type := .cancel, code := 3, tag := x.tag } st P.turnSeq
    P.complete c { d with req := { d.req with cancelLate := late } }
  if x.seq ≤ x.target ∨ named.contains x.target then answer .notFound false P
  else if P.endedNow.contains x.target then answer .completed true P
  else match P.usedSlots.find? fun s => (P.slot s).req.any fun r => r.seq == x.target with
    | some s => (P.finish c s .cancelled).andThen (answer .completed false)
    | none => match P.holdQueue.find? fun r => r.seq == x.target with
      | some r => (P.finishHeld c r .cancelled 0 0).andThen (answer .completed false)
      | none => answer .notFound false P

/-- Step 2: cancels in SUBMIT_SEQ order; a later one that names a target already named finds nothing. -/
def Part.stepCancels (P : Part) (c : HCtx) : PRes :=
  (P.cancels.foldl (fun (a : PRes × List Nat) x => (a.1.andThen fun P => P.cancelOne c a.2 x, a.2 ++ [x.target]))
    (({ P with cancels := [] }, []), [])).1

/-! ### Steering entries in tiles (R287, R289, R425) -/

/-- Bytes written to a tile by the turn sequencer, in whole lines (R222, R266). -/
def Mach.putLines (m : Mach) (p : PartId) (t addr : Nat) (bs : List Byte) : Mach :=
  let n := (bs.length + 63) / 64
  m.stationPut p t (addr / 64) (cutLines n (bs ++ leBytes (64 * n - bs.length) 0))

/-- The records of an entry written to both copies of every resident image's steering map. -/
def Mach.writeSteer (m : Mach) (p : PartId) (P : Part) (n : Nat) (recs : List Byte) : Mach :=
  P.residentPlaces.foldl (fun m e =>
    let h := e.2.header.getD {}
    (List.range h.steerLayers).foldl (fun m i => [false, true].foldl (fun m b =>
      match e.2.steerAt h.steerLayers n i b with
      | some at_ => m.putLines p at_.1 at_.2 ((recs.drop (i * h.steerRec)).take h.steerRec)
      | none => m) m) m) m

/-- Steering writes that wait are applied, or refused (R289). -/
def Mach.applySteers (m : Mach) (p : PartId) : Mach :=
  let ops := (m.part p.val).steerOps.filter fun o => !o.applied
  ops.foldl (fun m o =>
    let P := m.part p.val
    if P.steerNamed o.index ∨ (P.steer o.index).state = .tuning then
      m.onPart p fun c P =>
        let P := { P with steerOps := P.steerOps.filter fun x => x.seq != o.seq }
        (P.evt Reg.GEN_EVT_STEER_REFUSED).complete c
          (plainDone o.seq { code := 5, tag := o.tag, steer := o.index } .steerBusy P.turnSeq)
    else
      let bs := o.bytes.getD []
      let gen := BitVec.ofNat 32 (leNat ((bs.drop 12).take 4))
      let m := m.modPart p.val fun P => { P with
        steerOps := P.steerOps.map fun x => if x.seq = o.seq then { x with applied := true } else x
        steers := Map.modify {} P.steers o.index fun t => { t with state := .changing, generation := gen } }
      m.writeSteer p P o.index (bs.drop 64)) m

/-- An entry that tuning leaves becomes READY with both copies equal (R425). -/
def Mach.settleSteers (m : Mach) (p : PartId) (before : Part) : Mach :=
  before.steers.foldl (fun m e =>
    if e.2.state = .tuning ∧ ((m.part p.val).steer e.1).state = .ready then
      m.writeSteer p (m.part p.val) e.1 (m.steerRecords (m.part p.val) e.1)
    else m) m

/-! ### Pages (R269, R270, R292) -/

/-- Pages that some slot holds. -/
def Part.takenPages (P : Part) : List Nat := P.slots.flatMap fun e => e.2.pages ++ e.2.twins
/-- Free pages of a lane. -/
def Part.laneFree (P : Part) (taken : List Nat) (l : Nat) : Nat :=
  let lanes := P.getR Reg.KV_POOL_KV_LANES
  laneDepth (P.getR Reg.KV_POOL_KV_PAGES) lanes l - (taken.filter fun q => q % lanes == l).length
/-- The lane with the most free pages, the lowest-numbered among equals. -/
def Part.bestLane (P : Part) : Nat :=
  let taken := P.takenPages
  ((List.range (P.getR Reg.KV_POOL_KV_LANES)).foldl (fun (b : Nat × Nat) l =>
    let n := P.laneFree taken l
    if b.2 < n then (l, n) else b) (0, 0)).1
/-- The lowest `k` free pages of the first lane from `l` on that has as many; none where no lane has. -/
def Part.freeIn (P : Part) (k l : Nat) : List Nat :=
  let lanes := P.getR Reg.KV_POOL_KV_LANES
  let taken := P.takenPages
  ((List.range lanes).findSome? fun i =>
    let lane := (l + i) % lanes
    let free := ((List.range (laneDepth (P.getR Reg.KV_POOL_KV_PAGES) lanes lane)).map fun d => d * lanes + lane).filter
      fun q => !taken.contains q
    if free.length < k then none else some (free.take k)).getD []
/-- Page n of a slot taken from its reservation (R269). A tuning slot takes its twin with it, in the same lane (R292): the first lane that
has two free pages, and where none has, two lanes (log entry 98). -/
def Part.takePage (P : Part) (s : Nat) : Part :=
  let S := P.slot s
  let l := S.baseLane + S.pages.length
  let give := fun (P : Part) (qs ws : List Nat) =>
    P.modSlot s fun S => { S with pages := S.pages ++ qs, twins := S.twins ++ ws, reserved := S.reserved - (qs.length + ws.length) }
  if S.req.any fun r => r.desc.type == .tune then
    match P.freeIn 2 l with
    | [q, w] => give P [q] [w]
    | _ =>
      let P1 := give P (P.freeIn 1 l) []
      give P1 [] (P1.freeIn 1 l)
  else give P (P.freeIn 1 l) []

/-- Pages up to a number of positions. -/
def Part.growPages (P : Part) (s positions : Nat) : Part :=
  (List.range ((positions + 63) / 64 - (P.slot s).pages.length)).foldl (fun P _ => P.takePage s) P

/-! ### Step 4 and the composition of the turn (R319, R326) -/

/-- Claimed requests are bound, each with its base lane (R25, R269). A request with WVER 0xFF runs under a switch of this boundary (R25,
R333); one whose steering index is unknown by now is refused (R22, R289). -/
def Part.bindAll (P : Part) (c : HCtx) : PRes :=
  forEach P.usedSlots (fun s P =>
    match (P.slot s).req with
    | none => (P, [])
    | some r =>
      if (P.slot s).bound then (P, [])
      else if r.desc.type != .tune && !P.steerReady r.desc.steer then P.finish c s .badDesc
      else
        let l := P.bestLane
        let v := if r.desc.wver = 0xFF ∧ P.normal ∧ P.isResident P.active then Fin.ofNat 4 P.active else r.wver
        (P.modSlot s fun S => { S with bound := true, baseLane := l, req := some { r with bindUs := c.now, wver := v } }, []))
    (P, [])

/-- Stream rings fill and drain: their slots leave the card and rejoin it (R319, R320). -/
def Part.streamState (P : Part) (c : HCtx) : PRes :=
  let r := forEach (List.range 64) (fun n P =>
    let R := P.ring (3 + n)
    if !R.full && decide (32 ≤ R.waiting.length) then
      ((P.modRing (3 + n) fun R => { R with full := true }).evt Reg.SERVE_EVT_STREAM_FULL).event c 0x0001 n R.waiting.length
    else if R.full && decide (R.waiting.length < 8) then
      (P.modRing (3 + n) fun R => { R with full := false }).event c 0x0002 n 0
    else (P, [])) (P, [])
  r.andThen fun P => ({ P with slots := P.slots.map fun e =>
    match e.2.req with
    | none => e
    | some q =>
      let full := (P.ring (3 + q.desc.stream)).full && e.2.bound
      if full && !e.2.paused then
        (e.1, { e.2 with paused := true, req := some { q with hostPaused := true, pausedAt := some c.now } })
      else if !full && e.2.paused then
        let gone := match q.pausedAt with | some t => c.now - t | none => 0
        (e.1, { e.2 with paused := false, req := some { q with pausedAt := none, pausedUs := q.pausedUs + gone } })
      else e }, [])

/-- Token records that wait in stage 5. -/
def Part.storeUsed (P : Part) : Nat := ((List.range 64).map fun n => (P.ring (3 + n)).waiting.length).foldl (· + ·) 0

/-- The STEER field of a card entry (R287). -/
def Part.steerField (P : Part) (i : Nat) : Nat := i + 2 ^ 15 * b2n (P.steer i).active

def Part.entryOf (P : Part) (bound : List Nat) (s : Nat) (r : Req) : CardEntry :=
  { slot := Fin.ofNat 256 s, decode := false, prefill := false, lastChunk := false, bound := bound.contains s, replay := false,
    wver := r.wver, positions := 0, steer := P.steerField r.desc.steer, chunkLen := 0, committed := (P.slot s).committed,
    sampleCtr := (P.slot s).sampleCtr, rebuild := false }

/-- Slots of the decode set, with their requests. -/
def Part.decodeSet (P : Part) : List (Nat × Req) :=
  P.slots.filterMap fun e => e.2.req.bind fun r =>
    if e.2.bound && r.prefillDone && !e.2.paused && e.2.rebuildTo.isNone && r.ending.isNone then some (e.1, r) else none

/-- POSITIONS of a decode entry (R274). -/
def Part.positions (P : Part) (r : Req) : Nat :=
  1 + Nat.min (Nat.min r.desc.candidates (P.getR Reg.SPEC_CFG_MAX_CAND)) (Nat.min r.cand (r.desc.maxNew - r.tokens - 1))

/-- The card under composition, with the records it may still make room for. -/
abbrev Draw := List CardEntry × Nat

/-- An entry that emits records is placed only while the store can hold them (R319). -/
def Draw.place (d : Draw) (e : CardEntry) (emits : Bool) : Draw :=
  if !emits then (d.1 ++ [e], d.2)
  else if d.2 + 4 ≤ 3072 then (d.1 ++ [e], d.2 + 4) else d

def Part.drawDecode (P : Part) (bound : List Nat) (d : Draw) : Draw :=
  P.decodeSet.foldl (fun d x =>
    d.place { P.entryOf bound x.1 x.2 with decode := true, positions := P.positions x.2 } true) d

/-- The image's prefill limit; the largest with two resident images. -/
def Part.prefillLimit (P : Part) : Nat := (P.headers.map (·.prefillLimit)).foldl Nat.max 0

/-- Rebuild chunks come first, up to the prefill limit (R426): the card so far and what is left of the limit. -/
def Part.drawRebuild (P : Part) (d : Draw) : Draw × Nat :=
  P.slots.foldl (fun (a : Draw × Nat) e =>
    match e.2.rebuildTo, e.2.req with
    | some n, some r =>
      let want := n - e.2.rebuilt
      let k := if want ≤ a.2 then want else a.2 - a.2 % 64
      if k = 0 ∨ !e.2.bound then a
      else (a.1.place { P.entryOf [] e.1 r with prefill := true, replay := true, rebuild := true, chunkLen := k,
                                                 committed := e.2.rebuilt } false, a.2 - k)
    | _, _ => a) (d, P.prefillLimit)

/-- The budget of prefill positions (R326). -/
def Part.prefillBudget (P : Part) (now lim : Nat) (card : List CardEntry) : Nat :=
  let heads := card.filterMap fun e => (P.slot e.slot.val).req.bind fun r =>
    let ceil := P.getR (Reg.CLASS_TBT_TBT_CEIL r.desc.cls)
    if e.decode && ceil != 0 then some ((ceil : Int) - ((now : Int) - r.lastTokenUs)) else none
  match heads with
  | [] => lim
  | h :: hs =>
    let b := ((hs.foldl min h).toNat * P.getR Reg.PREFILL_RATE) / 1000000
    Nat.min (b - b % 64) lim

/-- The entry of a granted chunk: of a prompt, or of a tuning sweep (R293). -/
def Part.chunkEntry (P : Part) (bound : List Nat) (s : Nat) (r : Req) (k : Nat) : CardEntry :=
  let e := { P.entryOf bound s r with prefill := true, chunkLen := k }
  if r.desc.type = .tune then
    { e with committed := if r.back then (r.chunks.dropLast).foldl (· + ·) 0 else r.done }
  else { e with committed := r.done, lastChunk := decide (r.desc.len ≤ r.done + k) }

/-- Chunks granted in prefill order until the budget is used (R326); an entry left out for the store's room uses none of it (R319). -/
def Part.drawPrefill (P : Part) (bound : List Nat) : Nat → List (Nat × Req) → Draw → Draw
  | _, [], d => d
  | budget, (s, r) :: rest, d =>
    let ready := (P.slot s).bound && r.promptRead && r.ending.isNone && !(P.slot s).paused && (P.slot s).rebuildTo.isNone
      && (r.desc.type != .tune || !r.mask.isEmpty)
    if !ready then P.drawPrefill bound budget rest d
    else if r.back then
      let want := r.chunks.getLastD 0
      if budget < want then d
      else
        let d' := d.place (P.chunkEntry bound s r want) true
        P.drawPrefill bound (if d'.1.length = d.1.length then budget else budget - want) rest d'
    else
      let want := Nat.min (r.desc.len - r.done) (64 * P.getR (Reg.CLASS_CFG_MAX_CHUNK r.desc.cls))
      let k := if want ≤ budget then want else budget - budget % 64
      if k = 0 then d
      else
        let e := P.chunkEntry bound s r k
        let d' := d.place e (e.lastChunk || r.desc.type == .tune)
        P.drawPrefill bound (if d'.1.length = d.1.length then budget else budget - k) rest d'

/-- Insertion in slot order. -/
def insertEntry (x : CardEntry) : List CardEntry → List CardEntry
  | [] => [x]
  | y :: ys => if x.slot.val < y.slot.val then x :: y :: ys else y :: insertEntry x ys

/-- The entries of the new turn, in slot order. -/
def Part.compose (P : Part) (now : Nat) (bound : List Nat) : List CardEntry :=
  let d0 := P.drawDecode bound ([], P.storeUsed)
  let d1 := P.drawRebuild d0
  let d2 := P.drawPrefill bound (Nat.min (P.prefillBudget now P.prefillLimit d0.1) d1.2) P.prefillOrder d1.1
  d2.1.foldl (fun l e => insertEntry e l) []

/-- Pages for the positions of every entry, in slot order (R270). -/
def Part.allocate (P : Part) (card : List CardEntry) : Part :=
  card.foldl (fun P e =>
    P.growPages e.slot.val (e.committed + (if e.decode then e.positions else e.chunkLen))) P

/-- Drafts for earlier turns are dropped; the one for the turn is taken out (R313). -/
def Part.takeDrafts (P : Part) (c : HCtx) (turn : Nat) (card : List CardEntry) : PRes × List (Nat × List Byte) :=
  card.foldl (fun (a : PRes × List (Nat × List Byte)) e =>
    let S := a.1.1.slot e.slot.val
    match S.req with
    | none => a
    | some r =>
      if !e.decode then a
      else
        let old := S.drafts.filter fun d => decide (d.turnSeq < turn)
        let now := S.drafts.filter fun d => d.turnSeq == turn
        let P' := a.1.andThen fun P =>
          forEach old (fun d P => P.dropDraft c r.seq d.turnSeq)
            (P.modSlot e.slot.val fun S => { S with drafts := S.drafts.filter fun d => decide (turn < d.turnSeq) }, [])
        (P', a.2 ++ now.map fun d => (e.slot.val, d.bytes))) ((P, []), [])

/-! ### Slot regions and the card (R235 to R237, R265 to R267) -/

/-- Line i of a page table. -/
def pageLine (pages : List Nat) (i : Nat) : List Byte :=
  (List.range 32).flatMap fun j => leBytes 2 (pages.getD (32 * i + j) 0xFFFF)

/-- The sampling record of a request (R267). -/
def samplingRecord (d : Desc) : List Byte :=
  leBytes 4 d.temp.toNat ++ leBytes 4 d.topP.toNat ++ leBytes 4 d.topK ++ leBytes 4 0 ++ leBytes 8 d.seed.toNat
    ++ ((List.range 4).flatMap fun i => leBytes 4 (d.endTokens.getD i 0xFFFFFFFF).toNat)
    ++ leBytes 1 d.candidates ++ leBytes 1 d.draftSource ++ leBytes 22 0

/-- The writes of one slot's region under one image: (tile, address, bytes). -/
def regionWrites (h : ImgHeader) (s : Nat) (old new : List Nat) (samp draft : Option (List Byte)) : List (Nat × Nat × List Byte) :=
  match h.dispatch[s % h.dispatch.length]? with
  | none => []
  | some d =>
    let base := h.slotBase + 4416 * (s / h.dispatch.length)
    (samp.toList.map fun b => (d.1, base + 4096, b))
      ++ ((List.range 64).filterMap fun i =>
        if pageLine old i = pageLine new i then none else some (d.1, base + 64 * i, pageLine new i))
      ++ (draft.toList.map fun b => (d.1, base + 4160, b))

/-- Slot regions written before the card (R266): sampling records of slots just bound, page table lines that have changed since they were
last written, and the drafts of the turn. -/
def Mach.writeRegions (m : Mach) (p : PartId) (bound : List Nat) : Mach :=
  let P := m.part p.val
  let m1 := P.residentPlaces.foldl (fun m e => (List.range P.slotCount).foldl (fun m s =>
    let samp := if bound.contains s then (P.slot s).req.map fun r => samplingRecord r.desc else none
    let dr := (P.turnDrafts.find? fun d => d.1 == s).map (·.2)
    (regionWrites (e.2.header.getD {}) s (Map.get [] P.tablesOut (256 * e.1 + s)) (P.slot s).pages samp dr).foldl
      (fun m w => m.putLines p w.1 w.2.1 w.2.2) m) m) m
  m1.modPart p.val fun Q => { Q with
    tablesOut := P.residentPlaces.foldl (fun t e => P.slots.foldl (fun t x => Map.set [] t (256 * e.1 + x.1) x.2.pages) t) [] }

def entryBytes (e : CardEntry) : List Byte :=
  leBytes 1 e.slot.val
    ++ leBytes 1 (b2n e.decode + 2 * b2n e.prefill + 4 * b2n e.lastChunk + 8 * b2n e.bound + 16 * b2n e.replay)
    ++ leBytes 1 e.wver.val ++ leBytes 1 e.positions ++ leBytes 2 e.steer ++ leBytes 2 e.chunkLen ++ leBytes 4 e.committed
    ++ leBytes 4 e.sampleCtr

/-- The card's lines (R235 to R237). -/
def Part.cardLines (P : Part) (now : Nat) (card : List CardEntry) : List (List Byte) :=
  let mode := P.getR Reg.ARR_MODE_DIGITAL + 2 * P.getR Reg.TILE_ISA_CFG_COMPAT_G1 + 4 * b2n (card.any (·.replay))
  let mask := (P.residentPlaces.map fun e => 2 ^ e.1).foldl (· + ·) 0
  let bs := leBytes 8 P.turnSeq ++ leBytes 2 card.length ++ leBytes 1 mode ++ leBytes 1 mask ++ leBytes 4 now ++ leBytes 48 0
    ++ card.flatMap entryBytes
  let n := (bs.length + 63) / 64
  cutLines n (bs ++ leBytes (64 * n - bs.length) 0)

/-- Lines in operations of up to eight, each with its first line. -/
def cardOps (line : Nat) : Nat → List (List Byte) → List (Nat × List (List Byte))
  | 0, _ => []
  | n + 1, ls => if ls.isEmpty then [] else (line, ls.take 8) :: cardOps (line + 8) n (ls.drop 8)

/-- The card on its way to the card region of every dispatch tile, by S_FILL through its declared queue (R235). Operations of an earlier
card that are not yet through go first. -/
def Mach.writeCard (m : Mach) (p : PartId) : Mach :=
  let P := m.part p.val
  let lines := P.cardLines m.timeUs P.card
  let add := fun (l : List CardOut) (d : Nat × Nat × Nat) =>
    let ops := cardOps (d.2.2 / 64) 9 lines
    if l.any fun o => o.tile == d.1 && o.queue == d.2.1 then
      l.map fun o => if o.tile = d.1 ∧ o.queue = d.2.1 then { o with ops := o.ops ++ ops } else o
    else l ++ [⟨d.1, d.2.1, false, ops⟩]
  (m.modPart p.val fun P => { P with cardOut := (P.headers.flatMap (·.dispatch)).dedup.foldl add P.cardOut }).feedCards p

/-! ### The start of a turn (R187, R233) -/

/-- Sync flags that operations in flight name (R185). -/
def Tile.flagsInFlight (T : Tile) : List Nat :=
  let k := T.kq.filterMap fun x => match x.2 with
    | .mul _ f _ _ _ _ _ _ _ _ => f
    | .store f _ _ _ => f
  let a := T.aq.filterMap fun c => doneOf (leNat ((c.record.drop 2).take 2))
  let r := T.mq.filterMap fun o => o.flag
  (k ++ a ++ r).map (·.val)

/-- A TURN completes: beats restart, allocations lapse but for flags of operations in flight, BEAT_DUE is armed at d. -/
def Tile.newTurn (T : Tile) : Tile :=
  let T := { T with
    alloc := Map.setAll false true T.flagsInFlight []
    allAlloc := false
    lastBeat := none
    beatWait := false
    beatDue := if T.turnD = 0 then none else some T.turnD }
  if T.run = .inTurn then Tile.advance { T with run := .running } else T

/-- The counters of a turn as it begins. -/
def Part.resetTurn (P : Part) (card : List CardEntry) : Part :=
  { P.setTurnSeq (P.turnSeq + 1) with
    beatNow := 0, turnHeld := 0, turnUnits := 0, heldBy := [], lateTile := none, decided := false, nextHeld := false,
    boundaryNext := false, holding := false, holdUs := 0, card := card, collected := [], inTurn := true,
    chainLatched := false }

/-! ### Measures and trace of an ended turn (R255, R336, R534) -/

/-- Entries of the last second: nominal beats, 9,375,000 to the second. -/
def lastSecond : Nat → List (Nat × Nat) → List (Nat × Nat)
  | _, [] => []
  | b, x :: xs => if x.1 ≤ b then x :: lastSecond (b - x.1) xs else []

def Part.measureTurn (P : Part) : Part :=
  let pos := (P.card.map (·.chunkLen)).foldl (· + ·) 0
  let hist := lastSecond 9375000 ((P.turnUnits, 0) :: P.turnHist.map fun u => (u, 0))
  let pre := if pos = 0 then P.prefillHist else lastSecond 9375000 ((P.turnUnits, pos) :: P.prefillHist)
  let us : List Nat := hist.map fun (x : Nat × Nat) => x.1
  let P := { P with turnHist := us, prefillHist := pre }
  let total := us.foldl (· + ·) 0
  let P := P.setR Reg.TURN_MEAN_TURN_US (if hist.isEmpty then 0 else total * 32 / (300 * hist.length))
  let units := (pre.map fun (x : Nat × Nat) => x.1).foldl (· + ·) 0
  let done := (pre.map fun (x : Nat × Nat) => x.2).foldl (· + ·) 0
  let P := if units = 0 then P else P.setR Reg.PREFILL_RATE (done * 9375000 / units)
  (P.setR Reg.TURN_LAST_BEATS (P.beatNow + 1)).setR Reg.TURN_LAST_HELD (Nat.min P.turnHeld 0xFFFF)

/-- The record of the turn ended, while TRACE_EN is set. -/
def Part.traceTurn (P : Part) (now : Nat) (turn : Nat) (old : Part) (abandoned commit : Bool) : Part :=
  if !P.flagR Reg.PROF_CTRL_TRACE_EN then P
  else
    let n := P.getR Reg.TRACE_HEAD_RECORDS
    let w : TraceRec := {
      turnSeq := turn, timeUs := now, beats := old.beatNow + 1, held := old.turnHeld
      heldChain := Map.get 0 old.heldBy 2, heldForced := Map.get 0 old.heldBy 3, heldService := Map.get 0 old.heldBy 4
      lateTile := old.lateTile.getD 0xFFFF
      decode := (old.card.filter (·.decode)).length
      abandoned := abandoned, replay := old.replay, digital := old.flagR Reg.ARR_MODE_DIGITAL, commit := commit
      prefill := (old.card.map (·.chunkLen)).foldl (· + ·) 0 }
    { P with trace := Map.set none P.trace (n % 2048) (some w) }.setR Reg.TRACE_HEAD_RECORDS (n + 1)

/-! ### Step 3: versions (R333 to R335) -/

/-- The hold queue admitted in arrival order, under checks 4 to 6; a steering index that has become unknown meanwhile is refused as such
(R291, R335). -/
def Part.releaseHeld (P : Part) (c : HCtx) : PRes :=
  forEach P.holdQueue (fun r P =>
    if !P.steerOk r.desc then P.finishHeld c r .badDesc 0 0
    else match P.admitRoom r.desc true with
    | .fail st reason wait => P.finishHeld c r st reason wait
    | _ => { P with holdQueue := P.holdQueue.filter fun q => q.seq != r.seq }.accept c r) (P, [])

/-- The first boundary after the new version of a RELOAD is resident. -/
def Part.reloadDone (P : Part) (c : HCtx) : PRes :=
  if P.getR Reg.WVER_CFG_WVER_STATE = 2 ∧ P.isResident P.active then
    (((P.setR Reg.WVER_CFG_WVER_STATE 0).switchTo c (P.getR Reg.WVER_CFG_DRAIN_FROM) P.active)).andThen fun P => P.releaseHeld c
  else (P, [])

/-- The boundary of a DRAIN at which no slot is bound or claimed: RELOAD (R334, R367). -/
def Mach.drainDone (m : Mach) (p : PartId) : Mach :=
  let P := m.part p.val
  if P.getR Reg.WVER_CFG_WVER_STATE = 1 ∧ P.usedSlots.isEmpty then
    let old := P.getR Reg.WVER_CFG_DRAIN_FROM
    let m := m.onPart p fun c P =>
      let P := { P.setR Reg.WVER_CFG_WVER_STATE 2 with reloadUs := c.now }
      ((if P.isResident old then P.removePlace old else P).event c 0x0005 P.active ((P.place P.active).header.getD {}).loadMs)
    ((m.setPages p.val).setMembers p.val).startLoad p (Fin.ofNat 4 P.active) false true
  else m

/-- Overflow feeding begins again from the first OVERFLOW shard (R369). -/
def Part.restartOverflow (P : Part) : Part :=
  { P with places := P.places.map fun e => (e.1, { e.2 with ovfNext := 0 }) }

/-- The new outbound generation of a rotation takes effect at the first turn boundary; the old key is zeroised, and records that
the nonce limit held are written (R391, R396). -/
def Part.rotateOut (P : Part) (c : HCtx) : PRes :=
  if P.keys.outOld.isNone then (P, [])
  else { P with keys := { P.keys with outOld := none, outSeq := [] } }.drainAll c

/-! ### The boundary -/

/-- Length of the partition's beat in nominal beats: doubled while a pallet with member tiles is throttled. -/
def Mach.beatUnits (m : Mach) (p : Nat) : Nat :=
  if (m.members p).any fun t => decide (1 ≤ m.getR (Reg.PALLET_STEP (palletOf t))) then 2 else 1

/-- The gaps recorded in a turn become those of the last completed turn (R418). -/
def Tile.turnGaps (T : Tile) : Tile :=
  { T with arrs := T.arrs.map fun e => (e.1, { e.2 with lastGaps := e.2.gaps, gaps := [], gapRun := 0 }) }

/-- The actions of R25 and what follows them. `ended` says that a turn ends here; a boundary whose actions leave no work and
start no member tile is an idle one (R24). A turn ends with its last beat, which counts in its time (R234). A tile that starts at the
boundary has no TURN to complete, and its period of R185 goes on. -/
def Mach.boundary (m : Mach) (p : PartId) (ended : Bool) : Mach :=
  let P0 := m.part p.val
  let had := (m.members p.val)
  let m1 := m.onPart p fun c P =>
    ((P.rotateOut c).andThen fun P =>
      (if ended then Part.measureTurn { P with turnUnits := P.turnUnits + m.beatUnits p.val } else P).stepEnds c).andThen
        fun P => P.stepCancels c
  let m2 := m1.onPart p fun c P => P.reloadDone c
  let m3 := ((m2.commitTables p).commitResidency p).applySteers p
  let m4 := m3.decideCommit p
  let m5 := (m4.1.drainDone p).settleSteers p P0
  let P5 := m5.part p.val
  if P5.teardownPending then (m5.onPart p fun c P => P.killAll c).beginScrub p
  else
    let m6 := (m5.onPart p fun c P => (P.bindAll c).andThen fun P => P.streamState c).modTiles (if ended then had else [])
      fun _ T => T.turnGaps
    let P6 := m6.part p.val
    let bound := P6.usedSlots.filter fun s => !(P5.slot s).bound && (P6.slot s).bound
    let card := P6.compose m6.timeUs bound
    let starts := !card.isEmpty || !bound.isEmpty || (m6.members p.val).any fun t => !had.contains t
    let finishTrace := fun (P : Part) => if ended then P.traceTurn m6.timeUs P0.turnSeq P0 false m4.2 else P
    if !starts then
      (m6.modPart p.val fun P => finishTrace { P with
        card := [], collected := [], turnDrafts := [], inTurn := false, decided := false, boundaryNext := false, holding := false
        holdUs := 0, replay := false, wdFirst := false }).writeRegions p []
    else
      let P7 := P6.allocate card
      let dr := P7.takeDrafts (m6.hctx p) (P6.turnSeq + 1) card
      let P8 := { (dr.1.1.resetTurn card).restartOverflow with replay := false, wdFirst := false, endedNow := [], turnDrafts := dr.2 }
      let P9 := finishTrace (((P8.profile none 0x10 1).profile none 0x11 ((card.map (·.chunkLen)).foldl (· + ·) 0)).profile none
        0x12 ((card.map (·.positions)).foldl (· + ·) 0))
      let m7 := { m6.setPart p.val P9 with out := m6.out ++ dr.1.2 }
      let m8 := (m7.writeRegions p bound).writeCard p
      m8.modTiles ((m8.members p.val).filter had.contains) fun _ T => T.newTurn

end Sys2Proof.Machine
end

