-- ==== Sys2Proof/Machine/Turns.lean ====
section
/-! DEFINITION. Beats, holds, the hold watchdog, the chain, and the abandonment of a turn (R225 to R245, R279 to R283, R499 to
R501). -/
namespace Sys2Proof.Machine

/-! ### Ports of a chained partition (R495, R511) -/

def alDown : Nat := 0
def alDetect : Nat := 1
def alEqualise : Nat := 2
def alAlign : Nat := 3
def alIdentify : Nat := 4
def alActive : Nat := 5
def alPeerBad : Nat := 6
def Mach.alState (m : Mach) (l : Nat) : Nat := m.getR (Reg.AL_STATUS_STATE l)
/-- Ports in the pallets of a partition. -/
def Mach.linksOf (m : Mach) (p : Nat) : List Nat := (List.range 32).filter fun l => (m.pallet (linkPallet l)).owner.any fun q => q.val == p
/-- The port that sends for `l`: itself, or, while it is DOWN, the lowest-numbered ACTIVE port of its bundle (R495). -/
def Mach.sender (m : Mach) (l : LinkId) : Option LinkId :=
  if m.alState l.val = alActive then some l
  else if m.alState l.val ≠ alDown then none
  else
    let serial := m.getR (Reg.AL_PEER_PEER_SERIAL l.val)
    (List.finRange 32).find? fun k => serial != 0 && m.alState k.val == alActive && m.getR (Reg.AL_PEER_PEER_SERIAL k.val) == serial

/-- Messages of the chained partition wait at a port without an ACTIVE port in its bundle (R495). -/
def Mach.linkWaits (m : Mach) (p : Nat) : Bool :=
  (List.finRange 32).any fun l => (m.linksOf p).contains l.val && !(m.link l.val).outbox.isEmpty && (m.sender l).isNone
    && m.alState l.val == alDown

/-! ### Readiness at a call point (R228) -/

/-- Every member tile is in TURN. -/
def Mach.allInTurn (m : Mach) (p : Nat) : Bool := (m.members p).all fun t => (m.tile t).run == .inTurn
/-- Member tiles late for the next beat (R186). -/
def Mach.lateTiles (m : Mach) (p : Nat) : List Nat :=
  (m.members p).filter fun t =>
    let T := m.tile t
    T.beatDue == some ((m.part p).beatNow + 1) && !T.beatWait && T.run != .inTurn
/-- CHAIN_HOLD_IN as the module takes it: a chattering input counts as asserted (R245). -/
def Mach.chainAsserted (m : Mach) : Bool := m.chainIn || bits (m.getR Reg.SB_STATUS_CHATTER) 5 1 == 1
/-- The chained partition may take its boundary (R500, R501): CHAIN_HOLD_IN is deasserted; or its deassertion is latched and the
time of the boundary is reached by the end of this beat, 64 clocks after the call point. -/
def Mach.chainReady (m : Mach) (P : Part) : Bool :=
  !m.flagR Reg.SB_STATUS_CHAIN_WIRE
    && if P.chainLatched then decide ((P.chainM0 : Int) + 192 ≤ m.timeCycles + 3) else !m.chainAsserted

/-- A service hold is in force: of the Mehra controller, or a debug halt (R228). -/
def Part.inService (P : Part) : Bool := decide (0 < P.service) || (P.haltReq && !P.stepping)
/-- The first source not ready, in the order of R255 (0 none), and its lowest tile. -/
def Mach.notReady (m : Mach) (p : Nat) : Nat × Nat :=
  let P := m.part p
  let late := m.lateTiles p
  if !late.isEmpty then (1, late.headD 0)
  else if P.flagR Reg.TURN_CFG_CHAINED && (m.linkWaits p || (m.allInTurn p && !m.chainReady P)) then (2, 0)
  else if !P.forced.isEmpty then (3, (P.forced.map (·.1)).foldl Nat.min ((P.forced.map (·.1)).headD 0))
  else if P.inService then (4, 0)
  else (0, 0)

/-- The result records of the turn have been collected, or can be (R280): a boundary is decided only then, and beats go on until it is
(log entry 69). -/
def Mach.recordsIn (m : Mach) (P : Part) : Bool :=
  P.card.all fun e => (P.collected.any fun x => x.1 == e.slot.val)
    || (P.resultAt e.slot.val).any fun at_ => (m.tile at_.1).tagFull (at_.2 / 64)

/-- CALL_POINT (R228, R232): the decision for the next beat. A partition without member tiles has no beats. -/
def Mach.callPoint (m : Mach) (p : PartId) : Mach :=
  let P := m.part p.val
  if (m.members p.val).isEmpty || P.decided then m
  else
    let src := m.notReady p.val
    let over_ := P.beatNow == 65535 && !m.allInTurn p.val
    let held := src.1 != 0 || P.abandonReq || P.abandoning || over_
    let P := if over_ then P.evt Reg.TURN_EVT_TURN_LIMIT else P
    let P := if held && !P.holding then
        (P.setR Reg.TURN_LATE_FIRST_SOURCE src.1).setR Reg.TURN_LATE_FIRST_TILE_INDEX src.2
      else P
    let P := if P.inService then P.evt Reg.TURN_EVT_SERVICE_HOLD else P
    m.setPart p.val { P with
      decided := true, chainFound := P.chainFound || m.allInTurn p.val
      nextHeld := held
      boundaryNext := !held && m.allInTurn p.val && m.recordsIn P
      holding := held
      heldSrc := src.1
      lateTile := if src.1 = 1 ∧ P.lateTile.isNone then some src.2 else P.lateTile }

/-- CALL_POINT (R228). -/
def execCallPoint (p : PartId) (s : State) : Host.Outcome State Fault Refusal := lift (fun m => m.callPoint p) s

/-! ### The end of a beat (R226, R227, R230) -/

/-- DBG_STATE HALTED follows the hold of a debug halt (R531). -/
def Part.noteHalt (P : Part) : Part := if P.haltReq && !P.stepping then P.setR Reg.DBG_STATUS_DBG_STATE 2 else P

/-- No phase, readout row or program loop of an array runs or waits (R418). -/
def Tile.leavesIdle (T : Tile) (a : Nat) : Bool :=
  !T.aq.any fun c => decide (c.op ≤ 3) && c.names.contains a && (c.stage == .loaded || c.stage == .phases || c.stage == .running)
/-- The gaps of a beat, as the array controller sees them at its end: a gap at least one slot, two beats, long is recorded at the beat it
began in (R418; log entry 101). -/
def Tile.noteGaps (T : Tile) (beat : Nat) : Tile :=
  { T with arrs := T.arrs.map fun e =>
      (e.1, if T.leavesIdle e.1 then
          { e.2 with gapRun := e.2.gapRun + 1, gaps := if e.2.gapRun = 1 then e.2.gaps ++ [beat - 1] else e.2.gaps }
        else { e.2 with gapRun := 0 }) }

/-- BEAT_BOUNDARY (R227). An abandonment that has arisen since the call point overrides a boundary, and no other decision (R239). -/
def Mach.beatBoundary (m0 : Mach) (p : PartId) : Mach :=
  let P := m0.part p.val
  if (m0.members p.val).isEmpty || !P.decided then m0
  else
    let m := m0.modTiles (m0.members p.val) fun _ T => T.noteGaps P.beatNow
    let n := m.beatUnits p.val
    if P.nextHeld || (P.boundaryNext && (P.abandonReq || P.abandoning)) then
      let P := (P.cnt Reg.TURN_HOLD_COUNT_HOLD_BEATS 1).noteHalt
      let P := if P.heldSrc = 0 then P else P.profile none (P.heldSrc + 1) 1
      m.setPart p.val { P with
        turnHeld := P.turnHeld + 1, turnUnits := P.turnUnits + n, heldBy := Map.modify 0 P.heldBy P.heldSrc (· + 1)
        forced := [], decided := false, nextHeld := false, boundaryNext := false, holding := true }
    else if P.boundaryNext then m0
    else
      let P := P.profile none 0x01 1
      m.setPart p.val { P with
        beatNow := Nat.min (P.beatNow + 1) 65535, turnUnits := P.turnUnits + n, holdUs := 0, stepping := false
        decided := false }

/-- BEAT_BOUNDARY (R227). -/
def execBeatBoundary (p : PartId) (s : State) : Host.Outcome State Fault Refusal := lift (fun m => m.beatBoundary p) s

/-! ### The chain (R244, R499 to R501) -/

/-- The module's chained partition. -/
def Mach.chained (m : Mach) : Option Nat := partIds.find? fun p => (m.part p).flagR Reg.TURN_CFG_CHAINED
/-- The chain's output follows the chained partition: asserted while it is in a turn and has not released it, and, for a chain
member without a chained partition, always (R244, R501). The bus reads asserted once the module asserts it. -/
def Mach.chainOutput (m : Mach) : Mach :=
  let o := match m.chained with
    | some p => (m.part p).inTurn && !(m.part p).chainRelease
    | none => m.flagR Reg.CHAIN_CFG_CHAIN_MEMBER
  if o then { m with chainOut := true, chainIn := m.chainIn || !m.chainOut }
  else Mach.setR { m with chainOut := false } Reg.SB_STATUS_CHAIN_WIRE 0

/-- TURN_MARK_INSTANT (R499). In a debug halt CHAIN_HOLD_OUT stays asserted (R536). -/
def execTurnMarkInstant (s : State) : Host.Outcome State Fault Refusal :=
  lift (fun m =>
    match m.chained with
    | some p =>
      let P := m.part p
      if P.inTurn && P.chainFound && !(P.haltReq && !P.stepping) then
        (m.modPart p fun P => { P with chainRelease := true }).chainOutput
      else m.chainOutput
    | none => m.chainOutput) s

/-- The turn mark, a multiple of 64 reference cycles, nearest to a time (R500). -/
def nearestMark (t : Nat) : Nat := 64 * ((t + 32) / 64)

/-- CHAIN_HOLD_IN_DEASSERT (R500): seen at `at_`, in reference cycles of module time. -/
def execChainHoldInDeassert (at_ : Nat) (s : State) : Host.Outcome State Fault Refusal :=
  lift (fun m =>
    let m := { m with chainIn := false }
    match m.chained with
    | some p => m.modPart p fun P => { P with chainLatched := true, chainM0 := nearestMark (at_ - 100) }
    | none => m) s

/-- CHAIN_WIRE (R501). -/
def execChainWire (s : State) : Host.Outcome State Fault Refusal :=
  lift (fun m => if m.chainOut then Mach.setR { m with chainIn := false } Reg.SB_STATUS_CHAIN_WIRE 1 else m) s

/-- Every active port of the chained partition sends a TURN_MARK with the new TURN_SEQ (R494). -/
def Mach.sendMarks (m : Mach) (p : Nat) : Mach :=
  ((m.linksOf p).filter fun l => m.getR (Reg.AL_STATUS_STATE l) == 5).foldl (fun m l =>
    m.modLink l fun L => { L with outbox := L.outbox ++ [⟨4, 0, BitVec.ofNat 64 (m.part p).turnSeq, []⟩] }) m

/-- The turn of a chained partition starts: it asserts CHAIN_HOLD_OUT again (R500). Where CHAINED has just taken effect, the turn
offsets of its ports are to be fixed anew (R494). -/
def Mach.chainTurn (m : Mach) (p : PartId) (was : Bool) : Mach :=
  let P := m.part p.val
  if P.flagR Reg.TURN_CFG_CHAINED then
    let m1 := if was then m else (m.linksOf p.val).foldl (fun m l => m.modLink l fun L => { L with turnOff := none }) m
    let m2 := if P.inTurn then m1.sendMarks p.val else m1
    (m2.modPart p.val fun P => { P with chainFound := false, chainRelease := false }).chainOutput
  else m

/-! ### The hold watchdog (R242, R243, R245) -/

/-- The count has reached HOLD_WD: module beats of 32/3 cycles against us. -/
def Part.wdExpired (P : Part) : Bool := decide (75 * P.getR Reg.TURN_CFG_HOLD_WD ≤ 8 * P.holdUs)

/-- Requests that end with SCHED_FAULT, and FAULTED (R243). -/
def Part.schedFault (P : Part) (c : HCtx) (slots : List Nat) : PRes :=
  (forEach slots (fun s P => P.finish c s .schedFault) (P.setR Reg.TURN_CFG_FAULTED 1, [])).andThen fun P =>
    P.event c 0x000A P.turnSeq 0

/-- HOLD_WATCHDOG_EXPIRY: HOLD_WD and, on a chained boundary, CHAIN_FAULT; then the abandonment, or the end of the requests on a
second expiry. The count starts again (log entry 23). -/
def Mach.watchdog (m : Mach) (p : PartId) : Mach :=
  let P := m.part p.val
  if (m.members p.val).isEmpty || !P.decided || !P.wdExpired then m
  else
    let chain := P.flagR Reg.TURN_CFG_CHAINED && m.allInTurn p.val && !m.chainReady P
    let m := m.modPart p.val fun P =>
      let P := P.evt Reg.TURN_EVT_HOLD_WD
      { (if chain then P.evt Reg.TURN_EVT_CHAIN_FAULT else P) with holdUs := 0 }
    let slots := P.card.map fun e => e.slot.val
    if P.abandoning || P.abandonReq then m.onPart p fun c P => P.schedFault c slots
    else if P.replay && P.wdFirst then
      (m.onPart p fun c P => P.schedFault c ((P.card.filter (·.replay)).map fun e => e.slot.val)).modPart p.val fun P =>
        { P with abandonReq := true, affectAll := true }
    else m.modPart p.val fun P => { P with abandonReq := true, affectAll := true, wdFirst := true }

/-- HOLD_WATCHDOG_EXPIRY (R243). -/
def execHoldWatchdogExpiry (p : PartId) (s : State) : Host.Outcome State Fault Refusal := lift (fun m => m.watchdog p) s

/-! ### Abandoning a turn (R239) -/

/-- Steps 1 to 3 begin: cores stop, and operations that only tile code could complete end. -/
def Mach.stopTile (m : Mach) (t : Nat) : Mach :=
  let m1 := m.dropWaiting t (m.tile t).member
  m1.modTile t fun T => { T with
    run := if T.run = .stopped then .stopped else .abandoned
    beatWait := false
    mq := T.mq.map fun o => { o with stale := true } }

def Mach.turnAbandon (m : Mach) (p : PartId) : Mach :=
  let P := m.part p.val
  if (m.members p.val).isEmpty || !P.abandonReq || P.abandoning then m
  else
    let m1 := (m.tilesOf p.val).foldl Mach.stopTile (m.modPart p.val fun P =>
      { (P.evt Reg.TURN_EVT_ABANDON).cnt Reg.TURN_ABANDON_COUNT_ABANDONS 1 with
        abandoning := true, boundaryNext := false, abandonUnit := 0, cardOut := [] })
    m1.eventTo p 0x0100 P.turnSeq P.abandonUnit

/-- TURN_ABANDON (R239). -/
def execTurnAbandon (p : PartId) (s : State) : Host.Outcome State Fault Refusal := lift (fun m => m.turnAbandon p) s

/-- A tile whose operations of step 3 have ended. -/
def Tile.drained (T : Tile) : Bool :=
  T.vq.isEmpty && T.kq.isEmpty && T.mq.isEmpty && T.aq.all fun c => !(c.fromCore && (c.op == 1 || c.op == 2))
def Mach.testRuns (m : Mach) (p : PartId) : Bool :=
  m.tests.any fun u => match u with
    | .line t _ => m.owner t == some p
    | .bank t _ => m.owner t == some p
    | .array t _ => m.owner t == some p
    | .word t _ => m.owner t == some p
    | _ => false
/-- Step 3 is over, the self-tests of the partition's tiles have ended, and no re-placement of them runs (R239, R413). -/
def Mach.drained (m : Mach) (p : PartId) : Bool :=
  ((m.tilesOf p.val).all fun t => (m.tile t).drained)
    && !(m.flight.any fun k => m.pktPart k == some p)
    && !m.testRuns p && !(m.replaces.any fun r => r.part == some p && !r.mapped)

/-- The restart state of R239: commands that continue keep their ranges and flags. -/
def Tile.restarted (T : Tile) : Tile :=
  let ids := T.aq.map (·.id)
  let flags := T.aq.filterMap fun c => if c.fromCore then c.done.map (·.val) else none
  { T with
    run := .running, pc := 0, x := [], v := [], vPoison := [], p := []
    flags := [], alloc := Map.setAll false true flags [], allAlloc := true
    cq := [], cqLost := false
    excCause := none, excPc := 0, excInfo := 0, excMore := 0
    sb := T.sb.filter fun r => ids.contains r.owner
    park := [], watch := [], beatDue := none, lastBeat := none, beatWait := false }

/-- Slots of the card that the abandonment affects, and those whose KV is lost (R412, R413). -/
def Part.isAffected (P : Part) (s : Nat) : Bool := P.affectAll || (P.slot s).affected

/-- Entries of the replay card: same values, REPLAY on affected slots, without slots that have ended or whose KV was lost. -/
def Part.replayCard (P : Part) : List CardEntry :=
  P.card.filterMap fun e =>
    let S := P.slot e.slot.val
    if S.req.isNone || S.kvLost then none
    else some { e with replay := e.replay || P.isAffected e.slot.val, bound := e.bound }

/-- Affected slots: one affected again ends with DATA_ERROR; one whose KV was lost waits for its rebuild (R413, R426). -/
def Part.settleAffected (P : Part) (c : HCtx) : PRes :=
  forEach (P.card.map fun e => e.slot.val) (fun s P =>
    let S := P.slot s
    if S.req.isNone || !P.isAffected s then (P, [])
    else if S.failedOnce then P.finish c s .dataError
    else (P.modSlot s fun S => { S with
        failedOnce := true
        rebuildTo := if S.kvLost then some S.committed else S.rebuildTo
        rebuilt := if S.kvLost then 0 else S.rebuilt
        req := S.req.map fun r => { r with replayed := true } }, [])) (P, [])

/-- The abandonment boundary (R239, R241): member tiles restart, and the replay turn begins with its slot regions, drafts and card
written again (R235, R285, R413); a chained partition takes it as a turn boundary (R233, R244, R494). Slots whose KV was lost begin their rebuild, which the event REBUILD
reports (R426, R434). -/
def Mach.abandonmentBoundary (m : Mach) (p : PartId) : Mach :=
  let P0 := m.part p.val
  if !P0.abandoning || !m.drained p then m
  else
    let m1 := m.onPart p fun c P => P.settleAffected c
    let P1 := m1.part p.val
    let card := P1.replayCard
    let P2 := P1.resetTurn card
    let P3 : Part := { P2 with
      abandonReq := false, affectAll := false, abandoning := false, replay := true
      slots := P2.slots.map fun e => (e.1, { e.2 with affected := false, kvLost := false }) }
    let dr := P3.takeDrafts (m1.hctx p) P3.turnSeq card
    let P4 := { (dr.1.1.traceTurn m.timeUs P0.turnSeq P0 true false) with turnDrafts := dr.2, tablesOut := [] }
    let lost := (P0.card.map fun e => e.slot.val).filter fun s => (P0.slot s).kvLost && (P1.slot s).req.isSome
    let m2 := { m1.setPart p.val P4 with out := m1.out ++ dr.1.2 }
    let m2 := if lost.isEmpty then m2
      else m2.eventTo p 0x0105 lost.length ((lost.map fun s => (P0.slot s).committed).foldl (· + ·) 0)
    let m3 := m2.modTiles (m2.members p.val) fun _ T => T.restarted
    ((m3.writeRegions p (card.map fun e => e.slot.val)).writeCard p).chainTurn p true

/-- ABANDONMENT_BOUNDARY (R239). -/
def execAbandonmentBoundary (p : PartId) (s : State) : Host.Outcome State Fault Refusal :=
  lift (fun m => m.abandonmentBoundary p) s

/-! ### Turn boundaries (R24, R25, R232) and results (R279 to R283) -/

/-- RESULT_COLLECT: the record of a slot of the card, in ascending order, once its line 0 is full (R280); a refusal of R219 is reported and
nothing is read. A bad record abandons the turn for that slot (R283). -/
def Mach.collect (m : Mach) (p : PartId) (s : Nat) : Mach :=
  let P := m.part p.val
  match P.card.find? fun e => e.slot.val == s, P.resultAt s with
  | some e, some at_ =>
    let T := m.tile at_.1
    let l0 := at_.2 / 64
    let before := P.card.takeWhile fun e => e.slot.val != s
    if P.collected.any (fun x => x.1 == s) || before.any (fun e => !P.collected.any fun x => x.1 == e.slot.val)
        || P.abandoning || P.abandonReq then m
    else match T.refuseAccess (64 * l0) 192 with
    | some r => m.modPart p.val fun P => P.stationRefused r.1
    | none =>
    if !T.tagFull l0 then m
    else
      let r := T.routerLines at_.1 [l0, l0 + 1, l0 + 2]
      let bytes := r.2.2.flatMap (·.1)
      let poison := r.2.2.any (·.2)
      let m1 := (m.setTile at_.1 (r.1.setTag l0 false)).sigs at_.1 r.2.1
      let tune := (P.slot s).req.any fun q => q.desc.type == .tune
      let draft := (P.turnDrafts.find? fun d => d.1 == s).map fun d => leNat d.2
      if recordOk e tune draft P.turnSeq (leNat bytes) && !poison then
        m1.modPart p.val fun P => { P with collected := P.collected ++ [(s, bytes)] }
      else m1.modPart p.val fun P =>
        { (P.evt Reg.GEN_EVT_RESULT_BAD).modSlot s (fun S => { S with affected := true }) with abandonReq := true }
  | _, _ => m

/-- RESULT_COLLECT (R280). -/
def execResultCollect (p : PartId) (slot : SlotNo) (s : State) : Host.Outcome State Fault Refusal :=
  lift (fun m => m.collect p slot.val) s

/-- The partition may take a boundary now: its last call point decided so and no abandonment overrides it. -/
def Mach.mayTurn (m : Mach) (p : PartId) : Bool :=
  let P := m.part p.val
  P.decided && P.boundaryNext && !P.abandonReq && !P.abandoning

/-- TURN_BOUNDARY (R25, R232, R280): what is left of the turn's records is collected, and its actions follow the last. -/
def execTurnBoundary (p : PartId) (s : State) : Host.Outcome State Fault Refusal :=
  lift (fun m0 =>
    let m := if m0.mayTurn p then (m0.part p.val).card.foldl (fun m e => m.collect p e.slot.val) m0 else m0
    let P := m.part p.val
    if P.isSealed && !P.card.isEmpty && m.mayTurn p
        && P.card.all (fun e => P.collected.any fun x => x.1 == e.slot.val) then
      (m.boundary p true).chainTurn p (P.flagR Reg.TURN_CFG_CHAINED)
    else m) s

/-- IDLE_BOUNDARY (R24): a boundary at which no card entry waits. A partition without member tiles takes one on each module beat; for one
that is not sealed only its commit is decided. -/
def execIdleBoundary (p : PartId) (s : State) : Host.Outcome State Fault Refusal :=
  lift (fun m0 =>
    let none_ := (m0.members p.val).isEmpty
    let onBeat := decide ((m0.part p.val).idleAt < m0.beats)
    let m := if none_ then m0.modPart p.val fun P => { P with idleAt := m0.beats } else m0
    let P := m.part p.val
    if none_ && !onBeat then m0
    else if !P.isSealed then (m.decideCommit p).1
    else if P.card.isEmpty && !P.abandoning && (none_ || m.mayTurn p) then
      (m.boundary p P.inTurn).chainTurn p (P.flagR Reg.TURN_CFG_CHAINED)
    else m) s

end Sys2Proof.Machine
end

