-- ==== Sys2Proof/Machine/Partitions.lean ====
section
/-! DEFINITION. Partitions from seal to scrub (R375 to R383, R398 to R402), the module beat (R454), parking (R462, R463), commits and
discards (R525, R526), and the host lease (R485). -/
namespace Sys2Proof.Machine

/-! ### Who may write (R481, R482, R485, R514, R522) -/

/-- BAR0 decodes in full (R513, R514). -/
def Mach.ready (m : Mach) : Bool := m.getR Reg.BOOT_STATUS_BOOT_STATE == 4
/-- The writer reaches a partition's blocks: a physical function, or the function that owns it on the port. -/
def Mach.reaches (m : Mach) (w : Writer) (p : Nat) : Bool :=
  m.ready && (w.func.val == 0 || m.funcOn p w.port.val == some w.func.val)
/-- The writer's port holds the lease, or no port does. -/
def Mach.leaseOk (m : Mach) (w : Writer) : Bool :=
  m.getR Reg.HOST_LEASE_HOLDER == 0 || m.getR Reg.HOST_LEASE_HOLDER == w.port.val + 1
/-- A write to a module-wide set-up field: from a physical function, under the lease. Another port's write is dropped with
LEASE_DROPPED; a virtual function reaches no module block. -/
def Mach.moduleWrite (m : Mach) (w : Writer) (f : Mach → Mach) : Mach :=
  if !m.ready || w.func.val != 0 then m
  else if m.leaseOk w then f m
  else m.evt Reg.HOST_EVT_LEASE_DROPPED

/-! ### Seal (R377, R378) -/

/-- The pallets of PALLET_MASK_0 to PALLET_MASK_3. -/
def Part.maskPallets (P : Part) : List Nat :=
  (List.range 120).filter fun i =>
    bits (if i < 96 then P.getR (Reg.PALLET_MASK_PALLETS (i / 32)) else P.getR Reg.PALLET_MASK_3_PALLETS) (i % 32) 1 == 1

/-- A pallet out of service for seals: WITHDRAWING or OUT (R421, R422), or with an array left FAILED or a bank whose zeroing
failed (R399, R400). -/
def Mach.palletOut (m : Mach) (i : Nat) : Bool :=
  m.getR (Reg.SPARE_STATE i) != 0
    || m.tiles.any (fun e => palletOf e.1 == i && e.2.arrs.any fun a => a.2.content == .failed)
    || m.tests.any fun u => match u with
      | .bank t _ => palletOf t == i
      | _ => false

/-- Pallets of one wall form a rectangle of pallet rows by span columns. -/
def rectangle (ps : List Nat) : Bool :=
  let rows := ps.map palRow
  let cols := ps.map palCol
  rows.all fun r => cols.all fun c => ps.any fun i => palRow i == r && palCol i == c
/-- The same, with no gap between rows or columns. -/
def solidRect (ps : List Nat) : Bool :=
  let gapless := fun (l : List Nat) => (List.range 15).all fun x =>
    l.contains x || !(l.any fun a => decide (a < x)) || !(l.any fun a => decide (x < a))
  !ps.isEmpty && rectangle ps && gapless (ps.map palRow) && gapless (ps.map palCol)
/-- Route-closed (R203). -/
def routeClosed (ps : List Nat) : Bool :=
  let w0 := ps.filter fun i => decide (i < 60)
  let w1 := ps.filter fun i => decide (60 ≤ i)
  if w0.isEmpty then solidRect w1
  else if w1.isEmpty then solidRect w0
  else solidRect w0 && solidRect w1 && (w0.map palRow).all (fun r => (w1.map palRow).contains r)
    && (w1.map palRow).all (fun r => (w0.map palRow).contains r)
    && w0.any (fun i => palCol i == 3) && w1.any fun i => palCol i == 0

/-- A route between tiles of `ps` passes one of the pallets `qs`. -/
def Mach.crossesAny (m : Mach) (ps qs : List Nat) : Bool :=
  qs.any fun q => routesCross m.tables.bridges ps (q / 60) (palRow q) (palCol q)

def Mach.sealedParts (m : Mach) : List Nat := partIds.filter fun q => (m.part q).isSealed
def Mach.sumSealed (m : Mach) (f : Fld) : Nat := (m.sealedParts.map fun q => (m.part q).getR f).foldl (· + ·) 0

/-- The rules of a seal in table order (R377). -/
def Mach.sealRule (m : Mach) (p : Nat) : Option Nat :=
  let P := m.part p
  let ps := P.maskPallets
  let lvl := P.getR Reg.PART_CFG_DEBUG_LEVEL
  firstRule
    [(0x01, ps.isEmpty),
     (0x02, ps.any fun i => (m.pallet i).owner.isSome),
     (0x03, ps.any fun i => m.palletOut i),
     (0x04, P.confidential && !routeClosed ps),
     (0x05, m.sealedParts.any fun q =>
        if P.confidential then !(m.part q).confidential && m.crossesAny (m.palletsOf q) ps
        else (m.part q).confidential && m.crossesAny ps (m.palletsOf q)),
     (0x06, (P.confidential && lvl != 0) || (lvl == 2 && m.boot.debugLock)),
     (0x07, decide (450 < m.sumSealed Reg.PART_CFG_POWER_SHARE + P.getR Reg.PART_CFG_POWER_SHARE)),
     (0x08, decide (64 < m.sumSealed Reg.PART_CFG_DMA_SLOTS + P.getR Reg.PART_CFG_DMA_SLOTS)),
     (0x09, P.confidential && P.getR Reg.PART_CFG_DMA_SLOTS == 0),
     (0x0B, P.getR Reg.PART_CFG_POWER_SHARE == 0)]

/-- The budget of a partition, W, and the fast limit of its pallets (R459, R461). -/
def Mach.setBudget (m : Mach) (p b : Nat) : Mach :=
  let ps := m.palletsOf p
  let lim := if ps.isEmpty then 0 else Nat.min 300 (2 * b / ps.length)
  ps.foldl (fun m i => m.setR (Reg.PALLET_LIMIT i) lim) (m.modPart p fun P => P.setR Reg.PART_POWER_BUDGET b)

/-- The lowest-numbered slots of the 64-slot frames that no partition holds (R382). -/
def Mach.freeDmaSlots (m : Mach) (n : Nat) : List Nat :=
  ((List.range 64).filter fun s => !(partIds.any fun q => (m.part q).dmaSlots.contains s)).take n

/-- A partition becomes SEALED (R378); DETOUR where the route tables already hold a detour for it (R224). -/
def Mach.sealNow (m : Mach) (p : PartId) : Mach :=
  let P := m.part p.val
  let ps := P.maskPallets
  let m1 := m.modPart p.val fun P =>
    { (P.setR Reg.PART_STATUS_STATE stSealed).setR Reg.KEY_EPOCH 0 with
      sealPending := false
      sealCount := P.sealCount + 1
      keys := { session := some (Config.keyPair m.ctr) }
      dmaSlots := m.freeDmaSlots (P.getR Reg.PART_CFG_DMA_SLOTS) }
  let m2 := ps.foldl (fun m i => m.modPallet i fun q => { q with owner := some p }) { m1 with ctr := m1.ctr + 1 }
  (m2.setBudget p.val (50 * P.getR Reg.PART_CFG_POWER_SHARE)).noteDetour p.val

/-- Unparking of parked pallets begins (R463). -/
def Mach.unpark (m : Mach) (ps : List Nat) : Mach :=
  (ps.filter fun i => (m.pallet i).parked).foldl (fun m i => m.modPallet i fun q => { q with unparking := true }) m

/-- A seal that was asked for is decided at a module beat: refused with its rule, or put off until its parked pallets have been
unparked, or done (R377, R463). -/
def Mach.decideSeal (m : Mach) (p : PartId) : Mach :=
  let P := m.part p.val
  if !P.sealPending then m
  else match m.sealRule p.val with
    | some r => m.modPart p.val fun P =>
        { (P.setR Reg.PART_STATUS_SEAL_RULE r).evt Reg.PART_EVT_SEAL_REFUSED with sealPending := false }
    | none =>
      if P.maskPallets.any fun i => (m.pallet i).parked then m.unpark P.maskPallets
      else m.sealNow p

/-! ### Teardown and kill (R379 to R381) -/

/-- An OP that the state does not take (R379). -/
def Part.lockViolation (P : Part) : Part := P.evt Reg.PART_EVT_LOCK_VIOLATION

/-- SEAL written to OP. In SEALED it asks for nothing. -/
def Mach.sealOp (m : Mach) (p : PartId) : Mach :=
  m.modPart p.val fun P =>
    if P.state = stFree then { P with sealPending := true }
    else if P.isSealed then P
    else P.lockViolation

/-- TEARDOWN of a SEALED partition: accepted while it is idle. -/
def Part.teardown (P : Part) : Part :=
  if !P.usedSlots.isEmpty || !P.holdQueue.isEmpty || P.loadOp.isSome then
    (P.setR Reg.PART_STATUS_SEAL_RULE 0x0A).evt Reg.PART_EVT_SEAL_REFUSED
  else { P with teardownPending := true }

/-- KILL (R380): the turn is abandoned, loads end, every request ends with KILLED, and the scrub begins. -/
def Mach.killNow (m : Mach) (p : PartId) : Mach :=
  let m1 := (m.tilesOf p.val).foldl Mach.stopTile m
  let m2 := if (m.part p.val).inTurn && !(m.part p.val).abandoning then m1.eventTo p 0x0100 (m.part p.val).turnSeq 0 else m1
  let m3 := (m2.failLoad p 0x0F).onPart p fun c P => P.killAll c
  { m3.beginScrub p with
    routeHolds := m3.routeHolds.filter (· != p.val), feedHold := m3.feedHold.filter (· != p.val) }

/-- TEARDOWN (2) or KILL (3) written to OP; during a handover they wait for the first module beat after it (R381). -/
def Mach.endOp (m : Mach) (p : PartId) (op : Nat) : Mach :=
  let P := m.part p.val
  if !P.isSealed then m.modPart p.val Part.lockViolation
  else if m.boot.inHold then { m with boot := { m.boot with ctrlWaits := m.boot.ctrlWaits ++ [(p, op)] } }
  else if op = 2 then m.modPart p.val Part.teardown
  else m.killNow p

/-- Operations that waited for the end of a handover. -/
def Mach.endWaits (m : Mach) : Mach :=
  if m.boot.inHold then m
  else m.boot.ctrlWaits.foldl (fun m x => m.endOp x.1 x.2) { m with boot := { m.boot with ctrlWaits := [] } }

/-- SEAL (R377). -/
def execSeal (w : Writer) (p : PartId) (s : State) : Host.Outcome State Fault Refusal :=
  lift (fun m => if m.reaches w p.val then m.sealOp p else m) s
/-- TEARDOWN (R379). -/
def execTeardown (w : Writer) (p : PartId) (s : State) : Host.Outcome State Fault Refusal :=
  lift (fun m => if m.reaches w p.val then m.endOp p 2 else m) s
/-- KILL (R380). -/
def execKill (w : Writer) (p : PartId) (s : State) : Host.Outcome State Fault Refusal :=
  lift (fun m => if m.reaches w p.val then m.endOp p 3 else m) s

/-! ### The end of a scrub (R398, R399) -/

/-- Arrays of a list of (tile, array) in one tile. -/
def arrsOf (l : List (Nat × Nat)) (t : Nat) : List Nat := (l.filter fun x => x.1 == t).map (·.2)
/-- A tile as its scrub ends: zero, its arrays EMPTY and OFF, but for arrays whose erase failed twice and banks whose zeroing is
under test. -/
def Tile.scrubDone (T : Tile) (bad banks : List Nat) : Tile :=
  { banks := banks.map fun b => (b, Bank.fresh)
    arrs := bad.map fun a => (a, { T.arr a with content := .failed, power := .standby }) }
def Mach.banksInTest (m : Mach) (t : Nat) : List Nat :=
  (List.range 24).filter fun b => m.tests.contains (.bank t b)

/-- A fresh partition: every register at its reset value, COMPAT_G1 at the level of COMPAT_STRAP (R14). -/
def Mach.freshPart (m : Mach) (sealCount : Nat) : Part :=
  ({ sealCount := sealCount } : Part).setR Reg.TILE_ISA_CFG_COMPAT_G1 (m.getR Reg.SB_STATUS_STRAP_IN)

/-- A pallet that leaves its partition. -/
def Mach.freePallet (m : Mach) (i : Nat) : Mach :=
  ((m.modPallet i fun q => { q with owner := none, fast := false, pendingStep := false }).setR (Reg.PALLET_LIMIT i) 0).setR
    (Reg.PALLET_STEP i) 0

/-- SCRUB_DONE (R398): once the last record is written, the partition is FREE and its pallets are free. An array that is not EMPTY after its second erase is FAILED
and enters its self-test (R399). -/
def execScrubDone (p : PartId) (eraseFail : List (Nat × Nat)) (s : State) : Host.Outcome State Fault Refusal :=
  lift (fun m =>
    let P := m.part p.val
    if P.state ≠ stScrubbing || P.recordsWait then m
    else
      let ts := m.tilesOf p.val
      let bad := eraseFail.filter fun x => ts.contains x.1 && decide (x.2 < 64)
      let m1 := m.modTiles ts fun t T => T.scrubDone (arrsOf bad t).dedup (m.banksInTest t)
      let m2 := bad.foldl (fun m x => m.startTest (.array x.1 x.2)) m1
      let m3 := (m2.palletsOf p.val).foldl Mach.freePallet m2
      m3.setPart p.val ((m.freshPart P.sealCount).evt Reg.PART_EVT_SCRUB_DONE)) s

/-! ### Parking (R462, R463) -/

/-- A running load names the pallet. -/
def Mach.loadNames (m : Mach) (i : Nat) : Bool :=
  partIds.any fun q =>
    match (m.part q).loadOp with
    | some L =>
      let pl := (m.part q).place L.place.val
      match pl.header with
      | some h => ((h.rect pl.target).getD []).contains i
      | none => false
    | none => false
/-- A seal that is asked for includes the pallet. -/
def Mach.sealNames (m : Mach) (i : Nat) : Bool :=
  partIds.any fun q => (m.part q).sealPending && (m.part q).maskPallets.contains i

/-- The conditions of R462 at a module beat. -/
def Mach.parks (m : Mach) (i : Nat) : Bool :=
  (m.pallet i).powered && !(m.pallet i).parked && !m.loadNames i && !m.sealNames i
    && m.tiles.all fun e => palletOf e.1 != i || (!e.2.member && e.2.arrs.all fun a => a.2.content == .empty)

/-- A pallet is parked: its tiles hold nothing, banks and arrays are OFF. -/
def Mach.parkPallet (m : Mach) (i : Nat) : Mach :=
  { m.modPallet i (fun q => { q with parked := true, unparking := false }) with
    tiles := m.tiles.filter fun e => palletOf e.1 != i }

/-- Parking at a module beat; with PARK_EN clear, unparking begins. -/
def Mach.parking (m : Mach) : Mach :=
  if m.flagR Reg.PWR_CFG_PARK_EN then
    (List.range 120).foldl (fun m i => if m.parks i then m.parkPallet i else m) m
  else m.unpark (List.range 120)

/-- UNPARK_DONE (R463): the pallet's rails have risen and its banks have zeroed; its tiles take their bank profiles. -/
def execUnparkDone (pal : PalletId) (s : State) : Host.Outcome State Fault Refusal :=
  lift (fun m =>
    if !(m.pallet pal.val).parked || !(m.pallet pal.val).unparking then m
    else
      let m1 := m.modPallet pal.val fun q => { q with parked := false, unparking := false }
      match (m1.pallet pal.val).owner with
      | some p => m1.modTiles (tilesOfPallet pal.val) fun t T => T.bindProfile (m.part p.val) t
      | none => m1) s

/-! ### The module beat (R454) -/

/-- The hold watchdog counts while a hold is in progress that no service hold, debug halt or forced slot takes part in (R242). -/
def Part.countHold (P : Part) : Part :=
  if P.holding && P.service == 0 && P.forced.isEmpty && !(P.haltReq && !P.stepping) then { P with holdUs := P.holdUs + 1 } else P
/-- Time halted, in ms (R531, R535). -/
def Part.countHalt (P : Part) : Part :=
  if P.getR Reg.DBG_STATUS_DBG_STATE = 2 then
    let n := P.haltBeats + 1
    { P with haltBeats := n }.setR Reg.HALT_MS (Nat.min (n * 32 / 300000) 0xFFFFFFFF)
  else P
/-- A debug halt ends. -/
def Part.resume (P : Part) : Part :=
  { P with haltReq := false, stepping := false }.setR Reg.DBG_STATUS_DBG_STATE 0

/-- Fixed-slot operation and the module debug lock follow the SEALED CONFIDENTIAL partitions (R382, R402); a partition that is halted
as the lock sets is resumed (R530). -/
def Mach.slotsAndLock (m : Mach) : Mach :=
  let on := m.sealedParts.any fun q => (m.part q).confidential
  let m1 := if on && !m.boot.debugLock then m.modParts (fun P => P.haltReq) Part.resume else m
  { m1 with boot := { m1.boot with debugLock := on, fixedSlots := on } }

/-- The holds of a feed transfer end (R431). -/
def Mach.endFeedHold (m : Mach) : Mach :=
  m.feedHold.foldl (fun m p => m.modPart p fun P => { P with service := P.service - 1 }) { m with feedHold := [] }

/-! ### Whose work a time-shared unit serves (R382, R383) -/

/-- The partition that a slot of the 64-slot frames is allocated to. -/
def Mach.slotOwner (m : Mach) (slot : Nat) : Option PartId := (List.finRange 16).find? fun q => (m.part q.val).dmaSlots.contains slot
/-- The partition that a unit serves in a slot, of those with work in their order of arrival: outside fixed-slot operation the first; else
the slot's owner, and where a STANDARD owner leaves it or nobody owns it, the first STANDARD one (R383). -/
def Mach.slotServes (m : Mach) (slot : Nat) (work : List PartId) : Option PartId :=
  let standard := work.find? fun q => !(m.part q.val).confidential
  if !m.boot.fixedSlots then work.head?
  else match m.slotOwner slot with
    | none => standard
    | some q => if work.contains q then some q else if (m.part q.val).confidential then none else standard
/-- When the oldest host read that a partition waits for was asked for. -/
def Part.readSince (P : Part) : Option Nat :=
  let l := (P.fetching.filter fun f => f.data.isNone).map (·.bellUs) ++ P.reads.map (·.bellUs)
    ++ P.slots.filterMap fun e => e.2.req.bind fun r => if r.promptRead then none else some r.acceptUs
  l.foldl (fun a t => some (match a with | some b => Nat.min b t | none => t)) none
/-- Insertion by time of arrival. -/
def insertBy (x : PartId × Nat) : List (PartId × Nat) → List (PartId × Nat)
  | [] => [x]
  | y :: ys => if x.2 < y.2 then x :: y :: ys else y :: insertBy x ys
/-- Partitions with work for the DMA engine of a port, in order of arrival. -/
def Mach.dmaWork (m : Mach) (port : Nat) : List PartId :=
  (((List.finRange 16).filterMap fun q =>
    if (m.part q.val).getR Reg.SERVE_CFG_PORT = port then (m.part q.val).readSince.map fun t => (q, t) else none).foldl
      (fun l x => insertBy x l) []).map (·.1)
/-- The DMA engines go on to the slot of the time, of 1 us each (R382; log entry 105). -/
def Mach.serveDma (m : Mach) : Mach :=
  [0, 1].foldl (fun m port => m.modHostPort port fun H => { H with serving := m.slotServes (m.timeUs % 64) (m.dmaWork port) }) m

/-- MODULE_BEAT (R454): module commits, waiting operations, seals, parking, fixed-slot operation and the DMA engines, in this order. -/
def Mach.moduleBeat (m : Mach) : Mach :=
  if !m.boot.moduleUp then m
  else
    let m1 := { m with beats := m.beats + 1 }.endFeedHold
    let m2 := m1.modParts (fun P => P.isSealed) fun P => P.countHold.countHalt
    let m3 := m2.decideModuleCommit.endWaits
    let m4 := if m3.boot.inHold then m3 else (List.finRange 16).foldl Mach.decideSeal m3
    m4.parking.slotsAndLock.serveDma

/-- MODULE_BEAT (R454). -/
def execModuleBeat (s : State) : Host.Outcome State Fault Refusal := lift Mach.moduleBeat s

/-! ### Commit and discard (R525, R526) -/

def Part.commitOp (P : Part) : Part := P.setR Reg.COMMIT_STATUS_STATE 1
def Part.discardOp (P : Part) : Part := { P with staged := [] }.setR Reg.COMMIT_STATUS_RESULT 3

/-- COMMIT: pending until decided at a boundary, or, for the module, at a module beat; a second one is ignored. -/
def execCommit (w : Writer) (scope : Option PartId) (s : State) : Host.Outcome State Fault Refusal :=
  lift (fun m => match scope with
    | some p => if m.reaches w p.val then m.modPart p.val Part.commitOp else m
    | none => m.moduleWrite w fun m => m.setR Reg.COMMIT_STATUS_STATE 1) s
/-- DISCARD. -/
def execDiscard (w : Writer) (scope : Option PartId) (s : State) : Host.Outcome State Fault Refusal :=
  lift (fun m => match scope with
    | some p => if m.reaches w p.val then m.modPart p.val Part.discardOp else m
    | none => m.moduleWrite w fun m => Mach.setR { m with staged := [] } Reg.COMMIT_STATUS_RESULT 3) s

/-! ### The host lease (R485) -/

/-- CLAIM: takes the lease, or renews it. -/
def execClaim (w : Writer) (s : State) : Host.Outcome State Fault Refusal :=
  lift (fun m => m.moduleWrite w fun m => Mach.setR { m with leaseAt := m.timeUs } Reg.HOST_LEASE_HOLDER (w.port.val + 1)) s
/-- The lease lapses. -/
def Mach.lapse (m : Mach) : Mach := (m.setR Reg.HOST_LEASE_HOLDER 0).evt Reg.HOST_EVT_LEASE_LAPSED
/-- RELEASE: by the holder. -/
def execRelease (w : Writer) (s : State) : Host.Outcome State Fault Refusal :=
  lift (fun m => m.moduleWrite w fun m => if m.getR Reg.HOST_LEASE_HOLDER = w.port.val + 1 then m.lapse else m) s
/-- LEASE_LAPSE: not renewed for LEASE_MS. -/
def execLeaseLapse (s : State) : Host.Outcome State Fault Refusal :=
  lift (fun m =>
    if m.getR Reg.HOST_LEASE_HOLDER ≠ 0 ∧ m.leaseAt + 1000 * m.getR Reg.HOST_LEASE_LEASE_MS ≤ m.timeUs then m.lapse else m) s

end Sys2Proof.Machine
end

