-- ==== Sys2Proof/Machine/Faults.lean ====
section
/-! DEFINITION. Faults and their service (R411 to R428, R433 to R438): self-tests and their classification, spares and the bond
map, re-placement, patrol and the power changes of banks. -/
namespace Sys2Proof.Machine

/-! ### Units, events and alerts (R411, R434, R435) -/

/-- Pallet of the coordinates in a unit code. -/
def unitPallet (u : Nat) : Nat := 60 * bits u 48 1 + 4 * (bits u 40 8 / 12) + bits u 32 8 / 41

/-- Unit code of a unit under test. A lane is named with the north-west tile of its port's pallet, a bridge link with the tile
beside its end in WALL_0. -/
def Mach.unitOf (m : Mach) : TestUnit → W64
  | .line t l => m.tileUnit t 1 (l / 1024) (l % 1024)
  | .bank t b => m.tileUnit t 2 b 0xFFFF
  | .array t a => m.tileUnit t 3 a 0xFFFF
  | .word t w => m.tileUnit t 4 0 w
  | .link (.mesh q d) => unitCode 6 q.w.val q.pc.val q.pk.val d.val 0xFFFF
  | .link (.bridge pc) => unitCode 7 0 pc.val 163 0 0xFFFF
  | .router q => unitCode 5 q.w.val q.pc.val q.pk.val 0 0xFFFF
  | .lane l n => let i := linkPallet l; unitCode 8 (i / 60) (12 * (i % 60 / 4)) (41 * (i % 4)) l n

/-- The test of a unit, in the order of R415. -/
def testNo : TestUnit → Nat
  | .line _ _ => 1
  | .bank _ _ => 2
  | .word _ _ => 3
  | .array _ _ => 4
  | .link _ => 5
  | .router _ => 6
  | .lane _ _ => 7

/-- A service alert (R435): ALERT, SERVICE_ALERT, and a PLDM event. Alerts of a unit go to the partition that owns its pallet,
alerts of the module to every SEALED partition. -/
def Mach.alert (m : Mach) (code : Nat) (unit : W64) : Mach :=
  let m1 : Mach := { m.evt Reg.SVC_EVT_ALERT with out := m.out ++ [.alert code unit] }
  if code ≤ 3 then m1.eventPallet (unitPallet unit.toNat) 0x010D code unit.toNat else m1.eventAll 0x010D code unit.toNat

/-- A hitch is counted, and the longest kept (R433). -/
def Mach.noteHitch (m : Mach) (ms : Nat) : Mach :=
  let m1 := m.cnt Reg.SVC_HITCH_COUNT_HITCHES 1
  m1.setR Reg.SVC_HITCH_MAX_MS (Nat.max (m1.getR Reg.SVC_HITCH_MAX_MS) (Nat.min ms 0xFFFFFFFF))

/-! ### Classification (R416) -/

def Mach.hour (m : Mach) : Nat := m.timeUs / 3600000000

/-- A transient classification counted in the wear record; whether it is the LASTING_N-th of its unit within LASTING_WINDOW. -/
def Mach.noteTransient (m : Mach) (u : TestUnit) : Mach × Bool :=
  let unit := m.unitOf u
  let l := m.wear.transients ++ [(unit, m.hour)]
  let n := (l.filter fun e => e.1 == unit && decide (m.hour < e.2 + m.getR Reg.SVC_CFG_LASTING_WINDOW)).length
  let m1 : Mach := { m with wear := { m.wear with transients := l } }
  (((m1.evt Reg.SVC_EVT_TRANSIENT).cnt Reg.SVC_TRANSIENT_COUNT_TRANSIENTS 1).eventPallet (unitPallet unit.toNat) 0x0101
    unit.toNat (testNo u), decide (m.getR Reg.SVC_CFG_LASTING_N ≤ n))

/-- A lasting fault is counted and named. -/
def Mach.noteLasting (m : Mach) (u : TestUnit) : Mach :=
  let unit := m.unitOf u
  let m1 := ((m.evt Reg.SVC_EVT_LASTING).cnt Reg.SVC_LASTING_COUNT_LASTINGS 1).setR Reg.SVC_LAST_UNIT_LO_UNIT
    (unit.toNat % 2 ^ 32)
  (m1.setR Reg.SVC_LAST_UNIT_HI_UNIT (unit.toNat / 2 ^ 32)).eventPallet (unitPallet unit.toNat) 0x0102 unit.toNat (testNo u)

/-- The logical tile of a unit that lies in one. -/
def tileOfUnit : TestUnit → Option Nat
  | .line t _ => some t
  | .bank t _ => some t
  | .word t _ => some t
  | .array t _ => some t
  | _ => none
/-- A lasting fault in a handover hold abandons the turn; the rest waits (R428). -/
def Mach.abandonUnder (m : Mach) (u : TestUnit) : Mach :=
  match (tileOfUnit u).bind m.owner with
  | some p => m.modPart p.val fun P => { P with abandonReq := P.abandonReq || P.inTurn }
  | none => m

/-- The end of a self-test (R415, R416): classification, then what a finding of its kind leads to. In a handover hold the
classification waits (R428). -/
def Mach.endTest (m : Mach) (u : TestUnit) (fault : Bool) (onTransient onLasting : Mach → Mach) : Mach :=
  if !m.tests.contains u then m
  else if m.boot.inHold then if fault then m.abandonUnder u else m
  else
    let m1 : Mach := { m with tests := m.tests.erase u }
    let m2 := if m.diag = some u then Mach.setR { m1 with diag := none } Reg.DIAG_STATUS_RESULT (if fault then 3 else 2) else m1
    if fault then onLasting (m2.noteLasting u)
    else
      let r := m2.noteTransient u
      if r.2 then onLasting ((onTransient r.1).noteLasting u) else onTransient r.1

/-! ### Content that did not read back (R413, R425) -/

/-- A line of zeros with its tag empty. -/
def Tile.zeroLine (T : Tile) (line : Nat) : Tile := (T.storeLine line (leBytes 64 0) false).setTag line false

/-- The steering record that covers a byte of a tile: the entry's index in the steering map, and the record's address. -/
def Place.steerRecAt (pl : Place) (size t addr : Nat) : Option (Nat × Nat) :=
  pl.steerMap.findSome? fun e =>
    if e.2.1 = t ∧ e.2.2 ≤ addr ∧ addr < e.2.2 + size then some (e.1, e.2.2) else none

/-- What a line of a STATE-class bank is restored from: of a steering record, its entry, its address and the other copy's. -/
inductive LineHome where
  | kv (page : Nat)
  | steer (n base : Nat) (other : Option (Nat × Nat))
  | region
  | none
deriving DecidableEq, Repr, Inhabited

/-- The line lies in a slot region or a card region of a dispatch tile. -/
def Part.inRegion (P : Part) (t addr : Nat) : Bool :=
  P.headers.any fun h =>
    (List.range h.dispatch.length).any fun i =>
      let d := h.dispatch.getD i (0, 0, 0)
      let n := (P.slotCount + h.dispatch.length - 1 - i) / h.dispatch.length
      d.1 == t && ((decide (d.2.2 ≤ addr) && decide (addr < d.2.2 + 65 * 64))
        || (decide (h.slotBase ≤ addr) && decide (addr < h.slotBase + 4416 * n)))

def Part.lineHome (P : Part) (t addr : Nat) : LineHome :=
  match P.kvPage t addr with
  | some p => .kv p
  | none =>
    match P.residentPlaces.findSome? fun e => (e.2.steerRecAt (e.2.header.getD {}).steerRec t addr).map fun x => (e.2, x) with
    | some (pl, key, base) => .steer (key / 2 / (pl.header.getD {}).steerLayers) base (Map.find pl.steerMap (if key % 2 = 0 then key + 1 else key - 1))
    | none => if P.inRegion t addr then .region else .none

/-- Both copies of a steering record are lost (R425): the entry is EMPTY, and every request that names it ends with DATA_ERROR, a bound
one at the next boundary. -/
def Mach.steerLost (m : Mach) (p : PartId) (n : Nat) : Mach :=
  m.onPart p fun c P =>
    let P := { P with
      steers := Map.modify {} P.steers n fun t => { t with state := .empty }
      slots := P.slots.map fun e => (e.1, { e.2 with req := e.2.req.map fun r =>
        if r.desc.steer = n ∧ r.ending.isNone then { r with ending := some .dataError } else r }) }
    forEach (P.holdQueue.filter fun r => r.desc.steer == n) (fun r P => P.finishHeld c r .dataError 0 0) (P, [])

/-- The line holds entries of an outlier list. -/
def Tile.inList (T : Tile) (line : Nat) : Bool :=
  T.grout.any fun e =>
    let d := e.2.toNat
    decide (bits d 16 15 ≤ line) && decide (64 * line < 64 * bits d 16 15 + 4 * bits d 0 9)

/-- An unreadable line is restored as R425 gives for its kind; of a STATE-class line that is none of these the table says
nothing, and it stays as it is. -/
def Mach.restoreLine (m : Mach) (t line : Nat) : Mach :=
  let T := m.tile t
  if T.found line != .bad then m
  else
    let clean := fun (m : Mach) => m.modTile t fun T => (T.clearErr line).setPoison line false
    match (T.bankAt (64 * line)).code with
    | .weight => clean m
    | .scratch => m.modTile t fun T => T.zeroLine line
    | .state =>
      match m.owner t with
      | none => m
      | some p =>
        match (m.part p.val).lineHome t (64 * line) with
        | .kv page => clean (m.modPart p.val fun P => match P.pageOwner page with
          | some s => P.modSlot s fun S => { S with affected := true, kvLost := true }
          | none => P)
        | .steer n base other =>
          match other with
          | none => m.steerLost p n
          | some o =>
            if (m.tile o.1).found ((o.2 + (64 * line - base)) / 64) == .bad then m.steerLost p n
            else m.modTile t fun T => T.storeLine line ((m.tile o.1).readBytes (o.2 + (64 * line - base)) 64) false
        | .region => clean m
        | .none => if T.inList line then clean m else m

/-- Lines of a tile that do not read back. -/
def Tile.badLines (T : Tile) : List Nat :=
  let ls : List Nat := T.wordErr.map (fun (e : Nat × List Nat) => e.1 / 8) ++ T.poison.map (fun (e : Nat × Bool) => e.1)
  ls.dedup.filter fun l => T.found l == Found.bad

/-- The failed tile's content restored as it moves: lines, and words of its store from its shards. -/
def Mach.restoreTile (m : Mach) (t : Nat) : Mach :=
  ((m.tile t).badLines.foldl (fun m l => m.restoreLine t l) m).modTile t fun T => { T with istoreErr := [] }

/-- Before a replay turn starts, content classed as transient is restored (R413). -/
def Mach.awaitsReplay (m : Mach) (t : Nat) : Bool :=
  match m.owner t with
  | some p => (m.part p.val).abandonReq || (m.part p.val).abandoning
  | none => false

/-! ### Outlier lists (R98, R102, R359, R424) -/

/-- The outlier entry of a stuck cell (R102): the high cell of a W8 pair counts 16 times. -/
def stuckEntry (w8 : Bool) (s : Stuck) : List Byte :=
  let d : Int := (s.target : Int) - s.sensed
  let corr := if w8 && s.col % 2 == 0 then 16 * d else d
  let o := if w8 then s.col / 2 else s.col
  leBytes 2 (s.row * 128 + o % 128) ++ leBytes 2 (o / 128 * 16384 + (corr % 16384).toNat)

/-- Entries appended to an array's list after its first `n`; none where they do not fit in 256. -/
def Tile.appendList (T : Tile) (a n : Nat) (ss : List Stuck) : Option Tile :=
  if 256 < n + ss.length then none
  else
    let dir := (Map.get 0 T.grout a).toNat
    let base := 64 * bits dir 16 15
    let T1 := T.writeBytes (base + 4 * n) (ss.flatMap (stuckEntry (T.arr a).w8))
    some { T1 with grout := Map.set 0 T1.grout a (BitVec.ofNat 32 (2 ^ 16 * bits dir 16 15 + n + ss.length)) }

/-- Entries of an array's list. -/
def Tile.listCount (T : Tile) (a : Nat) : Nat := bits (Map.get 0 T.grout a).toNat 0 9

/-! ### Programming an array again (R417, R424) -/

/-- A row's 512 data levels. -/
def Arr.data (A : Arr) (r : Nat) : List (Fin 16) := ((Map.get [] A.rows r) ++ List.replicate 512 0).take 512
/-- Its targets: levels with the stuck cells at what they were programmed to (R538). -/
def Arr.targets (A : Arr) (r : Nat) : List (Fin 16) :=
  (A.stuck.filter fun s => s.row == r && decide (s.col < 512)).foldl (fun l s => l.set s.col (Fin.ofNat 16 s.target)) (A.data r)

/-- The array of another physical tile: what its calibration has yielded does not hold for it (log entry 90). -/
def Arr.uncalibrated (A : Arr) : Arr := { A with off := [], gain := [], calDone := none }

/-- Array `a` erased, then programmed with rows of levels, in its own place or in another; its list keeps its first `n` entries and
gains one for each new stuck cell. The second part says that it ended FAILED or that its list has no room. -/
def Tile.reprogram (T : Tile) (P : Part) (now a n : Nat) (moved : Bool) (rows : List (List (Fin 16))) (phys : ArrPhys) :
    Tile × Bool :=
  let E := (T.arr a).eraseDone now (phys.eraseFail.contains a)
  let B := { (if moved then E.uncalibrated else E) with w8 := (T.arr a).w8 }
  let A := if B.content = .failed then B else B.programmed P now a rows phys (P.getR Reg.ARR_CFG_DEFAULT_MAX_LOOPS)
  let T1 := T.modArr a fun _ => A
  if A.content = .failed then (T1, true)
  else match T1.appendList a n A.stuck with
    | some T2 => (T2, false)
    | none => (T1, true)

/-- Wear key of array a at a physical place, and a program cycle counted for it (R84). -/
def Mach.wearAt (m : Mach) (q : Nat × Nat × Nat) (a : Nat) : Mach :=
  { m with wear := { m.wear with
      cycles := Map.modify 0 m.wear.cycles (((q.1 * 180 + q.2.1) * 164 + q.2.2) * 64 + a) (· + 1) } }

/-! ### Spares (R420 to R422, R437, R438) -/

/-- The logical tile at a physical position. -/
def Mach.logicalAt (m : Mach) (q : Phys) : Option Nat :=
  (tilesOfPallet q.pallet).find? fun t => m.physOf t == (q.w.val, q.pc.val, q.pk.val)
/-- The spare tile of a span-row is free; a re-placement in progress has taken its spare. -/
def Mach.spareTileFree (m : Mach) (i row : Nat) : Bool :=
  !m.flagR (Reg.BOND_SKIP i row)
    && !m.replaces.any fun r => r.pallet.val == i && r.row == row && r.absorb == .spareTile && !r.mapped
/-- The spare span-row is free, and 40 of its tiles are good. -/
def Mach.spareRowFree (m : Mach) (i : Nat) : Bool :=
  m.getR (Reg.SPARE_ROW i) == 15
    && decide (((Map.get [] m.wear.faultRows i).filter (· == 11)).length ≤ 1)
    && !m.replaces.any fun r => r.pallet.val == i && r.absorb == .spareRow && !r.mapped

/-- A lasting tile fault counted for its pallet. -/
def Mach.countFault (m : Mach) (i row : Nat) : Mach :=
  let m1 : Mach := { m with wear := { m.wear with faultRows := Map.modify [] m.wear.faultRows i (· ++ [row]) } }
  m1.setR (Reg.SPARE_FAULTS i) (Nat.min 15 (m.getR (Reg.SPARE_FAULTS i) + 1))
/-- The third fault withdraws the pallet once it is absorbed (R421). -/
def Mach.withdraw (m : Mach) (i : Nat) : Mach :=
  if 3 ≤ m.getR (Reg.SPARE_FAULTS i) ∧ m.getR (Reg.SPARE_STATE i) = 0 then
    (((m.setR (Reg.SPARE_STATE i) 1).evt Reg.SVC_EVT_WITHDRAW).eventPallet i 0x0106 i (m.getR (Reg.SPARE_FAULTS i))).alert 1
      (palletUnit i)
  else m

/-- The bond map entry of a position that is mapped out. -/
def Mach.mapOut (m : Mach) (i row pos : Nat) : Mach :=
  let out := m.routersOut.any fun q => q.pallet == i && q.spanRow == row && q.pos == pos
  ((m.setR (Reg.BOND_SKIP i row) 1).setR (Reg.BOND_POS i row) pos).setR (Reg.BOND_ROUTER_OUT i row) (b2n out)
/-- Step 6 of R423: the entries of an absorbed fault. -/
def Mach.writeBond (m : Mach) (i row pos : Nat) : Absorb → Mach
  | .spareTile =>
    (m.mapOut i row pos).setR (Reg.SPARE_TILE i) (m.getR (Reg.SPARE_TILE i) ||| 2 ^ row)
  | .spareRow => m.setR (Reg.SPARE_ROW i) row
  | .inPlace _ => m

/-- A partition loses its placement in a pallet (R422): its turn is abandoned, every admitted request ends with DATA_ERROR, and it
is FAULTED. A load of it ends, for a logical tile has no physical one (R373). -/
def Mach.losePart (m : Mach) (p : PartId) (i : Nat) (unit : W64) : Mach :=
  let m0 := m.failLoad p 0x11
  (m0.onPart p fun c P =>
    let P := { P.setR Reg.TURN_CFG_FAULTED 1 with abandonReq := P.abandonReq || P.inTurn, affectAll := P.affectAll || P.inTurn }
    let r := P.endAll c .dataError
    let r := forEach P.holdQueue (fun q P => P.finishHeld c q .dataError 0 0) r
    (r.andThen fun P => P.event c 0x000A P.turnSeq 0).andThen fun P => P.event c 0x0107 i unit.toNat)

/-- The SEALED partition that owns a pallet. -/
def Mach.sealedOwner (m : Mach) (i : Nat) : Option PartId :=
  (m.pallet i).owner.bind fun p => if (m.part p.val).isSealed then some p else none

/-- R422: the pallet is OUT, a SEALED partition in it loses its placement, and this is a stop. -/
def Mach.placementLost (m : Mach) (i : Nat) (unit : W64) : Mach :=
  let m1 := m.setR (Reg.SPARE_STATE i) 2
  let m2 := match m.sealedOwner i with
    | some p => m1.losePart p i unit
    | none => m1
  ((m2.cnt Reg.SVC_STOP_COUNT_STOPS 1).evt Reg.SVC_EVT_PLACEMENT_LOST).alert 2 unit

/-! ### Re-placement (R423) -/

/-- REPLACE_START's argument. -/
def Absorb.code : Absorb → Nat
  | .spareTile => 1
  | .spareRow => 2
  | .inPlace _ => 3

/-- Step 1: a service hold of the partition, and the turn in flight is abandoned, which affects no slot (R413). -/
def Mach.startReplace (m : Mach) (r : Replace) : Mach :=
  let m1 : Mach := { m with replaces := m.replaces ++ [{ r with since := m.timeUs }] }
  let m2 := m1.setR Reg.SVC_STATUS_REPLACE_BUSY 1
  match r.part with
  | some p =>
    (m2.modPart p.val fun P => { P with service := P.service + 1, abandonReq := P.abandonReq || P.inTurn }).eventTo p 0x0103
      r.unit.toNat r.absorb.code
  | none => m2

/-- The logical tiles that move, in order (R423): in a span-row from its east end back to the failed tile; for the spare
span-row, the 40 tiles of the failed one. -/
def movesOf (t : Nat) : Absorb → List Nat
  | .spareTile => (List.range (40 - t % 40)).map fun j => t + (39 - t % 40) - j
  | .spareRow => (List.range 40).map fun j => t - t % 40 + (39 - j)
  | .inPlace _ => [t]

/-- In a pallet of no SEALED partition nothing is programmed again: each logical tile that moves finds what its new physical tile
holds, which is that of the tile beside it, and nothing in the spare. -/
def Mach.shiftTiles (m : Mach) : List Nat → Mach
  | [] => m
  | t :: ts => ((t :: ts).foldl (fun (x : Mach × Tile) k => (x.1.setTile k x.2, m.tile k)) (m, m.blankAt t)).1
/-- The tiles that an absorbed fault moves there; the spare span-row holds nothing. -/
def Mach.shiftBy (m : Mach) (t : Nat) : Absorb → Mach
  | .spareTile => m.shiftTiles (movesOf t .spareTile)
  | .spareRow => (movesOf t .spareRow).foldl (fun m k => m.setTile k (m.blankAt k)) m
  | .inPlace _ => m

/-- A lasting fault of a physical tile that serves logical tile `t` is absorbed by the first spare of R420. -/
def Mach.absorb (m : Mach) (i : PalletId) (row pos t : Nat) (unit : W64) : Mach :=
  let m1 := m.countFault i.val row
  let how := if m.spareTileFree i.val row then some Absorb.spareTile
    else if row ≠ 11 ∧ m.spareRowFree i.val then some .spareRow
    else none
  match how with
  | none => m1.placementLost i.val unit
  | some a =>
    match m.sealedOwner i.val with
    | none => ((m1.shiftBy t a).writeBond i.val row pos a).withdraw i.val
    | some p => m1.startReplace ⟨i, some p, row, pos, a, movesOf t a, t, unit, false, 0⟩

/-- A lasting fault of a physical tile. In an unused spare it counts and makes that spare unavailable (R420); a position already
mapped out serves nothing. -/
def Mach.tileFault (m : Mach) (q : Phys) (unit : W64) : Mach :=
  let i := q.pallet
  match m.logicalAt q with
  | some t => m.absorb (Fin.ofNat 120 i) q.spanRow q.pos t unit
  | none =>
    if (m.flagR (Reg.BOND_SKIP i q.spanRow) && m.getR (Reg.BOND_POS i q.spanRow) == q.pos)
        || m.getR (Reg.SPARE_ROW i) == q.spanRow then m
    else
      let m1 := m.countFault i q.spanRow
      (if m.flagR (Reg.BOND_SKIP i q.spanRow) then m1 else m1.mapOut i q.spanRow q.pos).withdraw i

def Mach.faultOf (m : Mach) (t : Nat) (unit : W64) : Mach := m.tileFault (m.physAt t) unit

/-- Where a move puts a logical tile. -/
def Mach.destOf (m : Mach) (r : Replace) (t : Nat) : Nat × Nat × Nat :=
  let q := m.physOf t
  match r.absorb with
  | .spareTile => (q.1, q.2.1, q.2.2 + 1)
  | .spareRow => (q.1, q.2.1 / 12 * 12 + 11, 41 * (q.2.2 / 41) + m.spanPos r.pallet.val 11 (t % 40))
  | .inPlace _ => q

/-- Arrays that a move programs in the new tile: those that hold content. -/
def Tile.contentArrs (T : Tile) : List Nat :=
  (T.arrs.filter fun e => e.2.content == .valid || e.2.content == .patched
    || (e.2.content == .failed && !e.2.rows.isEmpty)).map (·.1)

/-- One move (R424): the arrays are programmed in the new place from their levels, everything else is copied. In place, the array
is programmed again from its shards (R417). -/
def Mach.moveTile (m : Mach) (r : Replace) (t : Nat) (phys : ArrPhys) : Mach × Bool :=
  let P := m.ownerPart t
  let T := m.tile t
  let dst := m.destOf r t
  let moved := match r.absorb with
    | .inPlace _ => false
    | _ => true
  let step := fun (x : Tile × Bool) (a n : Nat) (rows : List (List (Fin 16))) =>
    let y := x.1.reprogram P m.timeUs a n moved rows phys
    (y.1, x.2 || y.2)
  let res := match r.absorb with
    | .inPlace a => step (T, false) a (T.listCount a - (T.arr a).stuck.length) ((List.range 512).map (T.arr a).targets)
    | _ => T.contentArrs.foldl (fun x a => step x a (T.listCount a) ((List.range 512).map (T.arr a).data)) (T, false)
  let used := match r.absorb with
    | .inPlace a => [a]
    | _ => T.contentArrs
  (used.foldl (fun m a => m.wearAt dst a) (m.setTile t res.1), res.2)

/-- TILE_MOVE_DONE (R424): the next move follows; a new place that fails is a lasting fault of its own (R427). -/
def Mach.tileMoveDone (m : Mach) (t : Nat) (phys : ArrPhys) : Mach :=
  match m.replaces.find? fun r => r.moves.head? == some t with
  | none => m
  | some r =>
    if m.boot.inHold then m
    else
      let dst := m.destOf r t
      let x := m.moveTile r t phys
      let put := fun (m : Mach) (r' : Replace) => { m with replaces := m.replaces.map fun s => if s = r then r' else s }
      if x.2 then
        match r.absorb with
        | .inPlace _ =>
          let m1 : Mach := { x.1 with replaces := x.1.replaces.filter (· != r) }
          let m2 := match r.part with
            | some p => m1.modPart p.val fun P => { P with service := P.service - 1 }
            | none => m1
          m2.faultOf t r.unit
        | _ => (put x.1 { r with moves := [] }).absorb r.pallet r.row (dst.2.2 % 41) t
            (unitCode 0x0A dst.1 dst.2.1 dst.2.2 0 0xFFFF)
      else
        let m1 := if t = r.failed then x.1.restoreTile t else x.1
        put m1 { r with moves := r.moves.drop 1 }

/-- TILE_MOVE_DONE (R424). -/
def execTileMoveDone (t : TileId) (phys : ArrPhys) (s : State) : Host.Outcome State Fault Refusal :=
  lift (fun m => m.tileMoveDone t.val phys) s

/-- A slot of the partition waits for its rebuild or rebuilds (R426). -/
def Part.rebuilding (P : Part) : Bool := P.slots.any fun e => e.2.req.isSome && (e.2.rebuildTo.isSome || e.2.kvLost)

/-- Step 6 of a re-placement whose moves have ended. -/
def Mach.endMoves (m : Mach) (r : Replace) : Mach :=
  let m1 := m.writeBond r.pallet.val r.row r.pos r.absorb
  let m2 := match r.part with
    | some p => m1.modPart p.val fun P => { P with service := P.service - 1 }
    | none => m1
  match r.absorb with
  | .inPlace _ => m2
  | _ => m2.withdraw r.pallet.val

/-- Step 7: REPLACE_DONE is written. -/
def Mach.closeReplace (m : Mach) (pal hitchMs : Nat) (rs : List Replace) : Mach :=
  let m1 := rs.foldl (fun m r => m.eventPallet pal 0x0104 r.unit.toNat hitchMs) { m with
    replaces := m.replaces.filter fun r => !rs.contains r }
  let m2 := (m1.evt Reg.SVC_EVT_REPLACED).noteHitch hitchMs
  m2.setR Reg.SVC_STATUS_REPLACE_BUSY (b2n !m2.replaces.isEmpty)

/-- REPLACE_DONE (R423): the bond map is written, with no packet in flight and the route tables up to date (R201), and the hold released;
the event follows the rebuild of the slots whose KV was
lost, at this command or, while they rebuild, at a later one. -/
def Mach.replaceDone (m : Mach) (pal hitchMs : Nat) : Mach :=
  let mine := m.replaces.filter fun r => r.pallet.val == pal && r.moves.isEmpty
  let fresh := mine.any fun r => !r.mapped
  if mine.isEmpty || m.boot.inHold || (fresh && !(m.flight.isEmpty && m.routesStale.isEmpty)) then m
  else
    let m1 := (mine.filter fun r => !r.mapped).foldl Mach.endMoves m
    let m2 : Mach := { m1 with replaces := m1.replaces.map fun r =>
      if r.pallet.val = pal ∧ r.moves.isEmpty then { r with mapped := true } else r }
    if mine.any fun r => r.part.any fun p => (m2.part p.val).rebuilding then m2
    else m2.closeReplace pal hitchMs (m2.replaces.filter fun r => r.pallet.val == pal && r.mapped)

/-- REPLACE_DONE (R423). -/
def execReplaceDone (pal : PalletId) (hitchMs : Nat) (s : State) : Host.Outcome State Fault Refusal :=
  lift (fun m => m.replaceDone pal.val hitchMs) s

/-- REPLACEMENT_HOLD_LIMIT (R427): the re-placements of the pallet that have held their partition for 2.8 s end under R422. -/
def execReplacementHoldLimit (pal : PalletId) (s : State) : Host.Outcome State Fault Refusal :=
  lift (fun m =>
    let mine := m.replaces.filter fun r => r.pallet == pal && !r.mapped && decide (r.since + 2800000 ≤ m.timeUs)
    match mine with
    | [] => m
    | r :: _ =>
      let m1 := mine.foldl (fun (m : Mach) r => match r.part with
        | some p => m.modPart p.val fun P => { P with service := P.service - 1 }
        | none => m) { m with replaces := m.replaces.filter fun r => !mine.contains r }
      (m1.setR Reg.SVC_STATUS_REPLACE_BUSY (b2n !m1.replaces.isEmpty)).placementLost pal.val r.unit) s

/-! ### The end of each self-test (R415, R417) -/

/-- T_LINE (R415). -/
def execTLine (t : TileId) (line : Fin 24576) (fault : Bool) (s : State) : Host.Outcome State Fault Refusal :=
  lift (fun m => m.endTest (.line t.val line.val) fault
    (fun m => if m.awaitsReplay t.val then m.restoreLine t.val line.val else m)
    (fun m => m.faultOf t.val (m.unitOf (.line t.val line.val)))) s
/-- T_BANK (R415): after a transient finding the bank may zero again. -/
def execTBank (t : TileId) (bank : Fin 24) (fault : Bool) (s : State) : Host.Outcome State Fault Refusal :=
  lift (fun m => m.endTest (.bank t.val bank.val) fault id
    (fun m => m.faultOf t.val (m.unitOf (.bank t.val bank.val)))) s
/-- T_WORD (R415): after a transient finding the word is rewritten from the tile's shards (R413). -/
def execTWord (t : TileId) (word : Fin 18432) (fault : Bool) (s : State) : Host.Outcome State Fault Refusal :=
  lift (fun m => m.endTest (.word t.val word.val) fault
    (fun m => if m.awaitsReplay t.val then m.modTile t.val fun T => T.clearStoreErr word.val else m)
    (fun m => m.faultOf t.val (m.unitOf (.word t.val word.val)))) s
/-- T_ARRAY (R415, R416, R417): a pass clears the suspect flag; a lasting fault is repaired in place, or, in a pallet that no
SEALED partition owns and whose arrays have no shards, is a lasting fault of the tile. -/
def execTArray (t : TileId) (a : ArrId) (fault : Bool) (s : State) : Host.Outcome State Fault Refusal :=
  lift (fun m => m.endTest (.array t.val a.val) fault
    (fun m => m.modTile t.val fun T => T.modArr a.val fun A => { A with suspect := false })
    (fun m =>
      let unit := m.unitOf (.array t.val a.val)
      let i := palletOf t.val
      let q := m.physAt t.val
      match m.sealedOwner i with
      | some p => m.startReplace ⟨Fin.ofNat 120 i, some p, q.spanRow, q.pos, .inPlace a.val, [t.val], t.val, unit, false, 0⟩
      | none => m.faultOf t.val unit)) s

/-- A router leaves transit service and its tile is retired (R198, R417). -/
def Mach.routerOut (m : Mach) (q : Phys) (unit : W64) : Mach :=
  if m.routersOut.contains q then m
  else
    let m1 := Mach.changeRoutes { m with routersOut := m.routersOut ++ [q] } [q]
    let m2 := if m1.flagR (Reg.BOND_SKIP q.pallet q.spanRow) && m1.getR (Reg.BOND_POS q.pallet q.spanRow) == q.pos then
        m1.setR (Reg.BOND_ROUTER_OUT q.pallet q.spanRow) 1
      else m1
    m2.tileFault q unit

/-- A lasting fault of a link (R417): of a mesh link, the router that drives it; a second one starts its T_ROUTER (R415). -/
def Mach.linkOut (m : Mach) (u : LinkUnit) : Mach :=
  let unit := m.unitOf (.link u)
  let m1 : Mach := { m with linksOut := if m.linksOut.contains u then m.linksOut else m.linksOut ++ [u] }
  match u with
  | .mesh q _ =>
    let n := (m1.linksOut.filter fun v => match v with
      | .mesh r _ => r == q
      | .bridge _ => false).length
    let m2 := m1.routerOut q unit
    if 2 ≤ n then m2.startTest (.router q) else m2
  | .bridge pc =>
    if m.bridgesOut.contains pc.val then m1
    else ({ m1 with bridgesOut := m1.bridgesOut ++ [pc.val] }.changeRoutes [⟨0, pc, 163⟩]).alert 7 unit

/-- T_LINK (R415). -/
def execTLink (link : LinkUnit) (fault : Bool) (s : State) : Host.Outcome State Fault Refusal :=
  lift (fun m => m.endTest (.link link) fault id fun m => m.linkOut link) s
/-- T_ROUTER (R415). -/
def execTRouter (at_ : Phys) (fault : Bool) (s : State) : Host.Outcome State Fault Refusal :=
  lift (fun m => m.endTest (.router at_) fault id fun m => m.routerOut at_ (m.unitOf (.router at_))) s

/-! ### Patrol and banks (R137, R147, R150) -/

/-- Bits of a tile's stores flip, each upset with a free value of its own. -/
def Tile.upsets (T : Tile) (ctr : Nat) : List Upset → Tile
  | [] => T
  | u :: us => (T.upset (BitVec.ofNat 64 (Config.freeValue ctr)) u).upsets (ctr + 1) us

/-- Patrol does not read a line of a SCRATCH-class bank, of a bank that is not ON, or one under test. -/
def Mach.patrols (m : Mach) (t line : Nat) : Bool :=
  let k := (m.tile t).bankAt (64 * line)
  k.prot != .scratch && k.pwr == .on && !k.changing && !k.held && !k.scrub && !m.testing t line

/-- Patrol reads a line (R137): a finding poisons nothing. A line read later than PATROL_PERIOD after the time before leaves its bank's
patrol behind. -/
def Tile.patrol (T : Tile) (t line now period : Nat) : TRes :=
  let q := T.senseLine t line
  let late := decide (Map.get 0 T.patrolAt line + 1000000 * period < now)
  ({ q.1 with
      patrolAt := Map.set 0 q.1.patrolAt line now
      banks := Map.modify {} q.1.banks (line / 1024) fun k => { k with patrolLate := late } }, q.2.1)

/-- PATROL (R137), with the bits of the tile's stores that have flipped since the last one (R133; log entry 91). -/
def execPatrol (t : TileId) (line : Fin 24576) (upsets : List Upset) (s : State) : Host.Outcome State Fault Refusal :=
  lift (fun m =>
    let m1 := { m.modTile t.val fun T => T.upsets m.ctr upsets with ctr := m.ctr + upsets.length }
    if m1.patrols t.val line.val then
      m1.act t.val fun T => T.patrol t.val line.val m.timeUs ((m.ownerPart t.val).getR Reg.TILE_CFG_PATROL_PERIOD)
    else m1) s

/-- ZEROING_PASS_DONE (R150): of a bank that is ON and pending-scrub. -/
def execZeroingPassDone (t : TileId) (bank : Fin 24) (readBackOk : Bool) (s : State) : Host.Outcome State Fault Refusal :=
  lift (fun m =>
    let k := (m.tile t.val).bank bank.val
    if !k.scrub || k.pwr != .on || k.changing || m.tests.contains (.bank t.val bank.val) then m
    else if readBackOk then m.modTile t.val fun T => T.zeroBank bank.val
    else m.startTest (.bank t.val bank.val)) s

/-- BANK_POWER_CHANGE_DONE (R147, R156): a change that waits starts once the earlier operations have ended, and one of power then takes
its own time, which a second BANK_POWER_CHANGE_DONE ends. -/
def Tile.changeDone (T : Tile) (b : Nat) : Tile :=
  let k := T.bank b
  if k.held then
    if T.busyOps k.heldAt then T
    else
      let T1 := T.setBank b { k with held := false, scrubNext := false }
      if k.scrubNext then T1.scrubBank b else T1
  else if k.changing then T.setBank b { k with changing := false }
  else T

/-- BANK_POWER_CHANGE_DONE (R147). -/
def execBankPowerChangeDone (t : TileId) (bank : Fin 24) (s : State) : Host.Outcome State Fault Refusal :=
  lift (fun m => m.modTile t.val fun T => T.changeDone bank.val) s

end Sys2Proof.Machine
end

