-- ==== Sys2Proof/Machine/Background.lean ====
section
/-! DEFINITION. Background work of the arrays (R83, R84, R88 to R92, R105 to R112, R119): refresh, calibration, outlier
verification and the accuracy status. -/
namespace Sys2Proof.Machine

/-! ### Refresh (R105 to R110) -/

/-- Refresh period in us at a junction temperature (R105). -/
def periodAt (t : Int) : Nat :=
  if t ≤ 45 then 64000
  else if t ≤ 85 then (64000 - 1200 * (t - 45)).toNat
  else if t ≤ 105 then (16000 - 400 * (t - 85)).toNat
  else 8000

/-- REFRESH_PERIOD_UPDATE (R106). -/
def execRefreshPeriodUpdate (t : TileId) (s : State) : Host.Outcome State Fault Refusal :=
  lift (fun m => m.modTile t.val fun T => { T with period := periodAt (m.tileTj t.val) }) s

/-- A phase, a readout, an ERASE or a POWER of the array is running, or a PROG that does not give way (R70, R79). -/
def Tile.arrRuns (T : Tile) (a : Nat) (betweenLoops : Bool) : Bool :=
  T.aq.any fun c => c.names.contains a && match c.stage with
    | .phases => true
    | .running => !(betweenLoops && c.op == 3)
    | _ => false

/-- A row has reached its target, 7/8 of the period after its last refresh, or is due for a second slot (R107, R109). -/
def Tile.rowDue (T : Tile) (a row now : Nat) : Bool :=
  match Map.find (T.arr a).rowTime row with
  | none => false
  | some at_ => decide (8 * at_ + 7 * T.period ≤ 8 * now) || (T.arr a).retryRows.contains row
/-- Some row of the array is due for refresh. -/
def Tile.refreshDue (T : Tile) (a now : Nat) : Bool :=
  (T.arr a).refreshes && (T.arr a).rowTime.any fun e => T.rowDue a e.1 now

/-- ROW_REFRESH_SLOT: the engine refreshes a due row of a VALID, PATCHED or LOADING array, in a gap of the array or between the
row loops of its PROG (R71, R79, R107). -/
def Tile.refreshSlot (T : Tile) (t a row now : Nat) (cells : List CellSense) : TRes :=
  if (T.arr a).refreshes && (T.arr a).power != .off && T.rowDue a row now && !T.arrRuns a true then T.rowSlot t a row now cells
  else (T, [])

/-- ROW_REFRESH_SLOT (R108): the cells of data and check columns that are not exactly at their levels. -/
def execRowRefreshSlot (t : TileId) (a : ArrId) (row : Fin 512) (data checks : List CellSense) (s : State) :
    Host.Outcome State Fault Refusal :=
  lift (fun m => m.act t.val fun T => T.refreshSlot t.val a.val row.val m.timeUs (data ++ checks)) s

/-- REFRESH_OVERDUE (R110, R412): a row that is still to be refreshed. -/
def execRefreshOverdue (t : TileId) (a : ArrId) (row : Fin 512) (s : State) : Host.Outcome State Fault Refusal :=
  lift (fun m => m.act t.val fun T => if (T.arr a.val).refreshes then T.noteLate a.val row.val m.timeUs else (T, [])) s

/-! ### Forced slots (R418, R419) -/

/-- An array has a non-empty list or PATCHED content (R111). -/
def Tile.verifiable (T : Tile) (a : Nat) : Bool :=
  (T.arr a).content == .patched || ((T.arr a).content == .valid && T.listCount a != 0)
/-- Gaps of the array that remain before a deadline: later ones of the turn, and those of the whole turns before it (R418). -/
def Arr.gapsLeft (A : Arr) (P : Part) (now deadline : Nat) : Nat :=
  (A.lastGaps.filter fun b => decide (P.beatNow < b)).length
    + A.lastGaps.length * ((deadline - now) / P.getR Reg.TURN_MEAN_TURN_US)
/-- An item of the array is forced (R419): a due row with fewer than two gaps left, an escalated calibration, a verification at its 60 s,
or a self-test. -/
def Mach.forcedItem (m : Mach) (t a : Nat) : Bool :=
  let T := m.tile t
  let A := T.arr a
  (A.refreshes && A.rowTime.any fun e => T.rowDue a e.1 m.timeUs
      && decide (A.gapsLeft (m.ownerPart t) m.timeUs (e.2 + T.period) < 2))
    || (A.calDue.isSome && A.calEscalated) || (T.verifiable a && decide (A.verifyAt + 60000000 ≤ m.timeUs))
    || m.tests.contains (.array t a)
/-- FORCED_SLOT_DUE (R419): the array controller of a member tile asks for one held beat; in a service hold the item needs none of its own
(R428). -/
def execForcedSlotDue (t : TileId) (a : ArrId) (s : State) : Host.Outcome State Fault Refusal :=
  lift (fun m => if (m.tile t.val).member && m.forcedItem t.val a.val && !(m.ownerPart t.val).inService then m.sig t.val (.forced a.val) else m) s

/-! ### Calibration (R88 to R92) -/

/-- CALIBRATION_DUE (R88): by period, or by temperature; PROG and ERASE set it themselves. -/
def execCalibrationDue (t : TileId) (a : ArrId) (s : State) : Host.Outcome State Fault Refusal :=
  lift (fun m =>
    let A := (m.tile t.val).arr a.val
    let P := m.ownerPart t.val
    let far := decide (P.getR Reg.ARR_CAL_CFG_CAL_DELTA_T ≤ (m.tileTj t.val - A.calTemp).natAbs)
    let old := decide (A.calBegan + 1000 * P.getR Reg.ARR_CAL_CFG_CAL_PERIOD ≤ m.timeUs)
    if A.power == .off || A.calDue.isSome || !(far || old) then m
    else m.modTile t.val fun T => T.modArr a.val fun A => { A with calDue := some m.timeUs, calEscalated := false }) s

/-- CAL_ESCALATE (R88): to forced slots. -/
def execCalEscalate (t : TileId) (a : ArrId) (s : State) : Host.Outcome State Fault Refusal :=
  lift (fun m =>
    let A := (m.tile t.val).arr a.val
    let P := m.ownerPart t.val
    let late := A.calDue.any fun d => decide (d + 1000 * P.getR Reg.ARR_CAL_CFG_CAL_GRACE ≤ m.timeUs)
    let far := decide (8 ≤ (m.tileTj t.val - A.calTemp).natAbs)
    if A.calDue.isNone || A.calEscalated || !(late || far) then m
    else (m.modTile t.val fun T => T.modArr a.val fun A => { A with calEscalated := true }).sigs t.val
      [.evt Reg.ARR_ACC_EVT_CAL_LATE, .forced a.val]) s

/-- A calibration starts again from OFFSET: what it has gathered is discarded (R90). -/
def Arr.calReset (A : Arr) : Arr := { A with calStep := none, calOff := [], calK := [], calGain := [] }

/-- CAL_RESTART (R90). -/
def execCalRestart (t : TileId) (a : ArrId) (s : State) : Host.Outcome State Fault Refusal :=
  lift (fun m =>
    let A := (m.tile t.val).arr a.val
    if A.calStep.isSome && decide (A.calBegan + 5000 < m.timeUs) then m.modTile t.val fun T => T.modArr a.val Arr.calReset
    else m) s

/-- Codes of check column CKk in a GAIN group: 4 conversions. -/
def gainCodes (group : List Int) (k : Nat) : List Int := (group.drop (4 * k)).take 4
/-- Code sum of a check column over every conversion of the GAIN steps. -/
def Arr.gainSum (A : Arr) (k : Nat) : Int := sumInt (A.calGain.map fun g => sumInt (gainCodes g k))

/-- Charge gain γ as a fraction, from the codes of CK1 (column 513) and CK2 (column 514) over 4 conversions in each of n groups: after
offset and k correction, the difference over its ideal of 240 codes (R89). -/
def Arr.gamma (A : Arr) : Int × Int :=
  let n : Int := A.calGain.length
  let k1 := Map.get 0 A.calK 513
  let k2 := Map.get 0 A.calK 514
  let a1 := 16 * A.gainSum 1 - 4 * n * Map.get 0 A.calOff 513
  let a2 := 16 * A.gainSum 2 - 4 * n * Map.get 0 A.calOff 514
  (a1 * k2 - a2 * k1, 5 * n * k1 * k2)

/-- g_c of a column in Q2.14. The spec does not say how it is rounded: a free value chooses between its neighbours where it is not
exact. -/
def Arr.newGain (A : Arr) (round c : Nat) : Int :=
  let g := A.gamma
  let num := 16384 * 3072 * g.2
  let den := Map.get 0 A.calK c * g.1
  if num % den = 0 then num / den else num / den + (round % 2 : Nat)

/-- The array with the calibration that its steps have yielded. -/
def Arr.recalibrated (A : Arr) (round : Nat) : Arr :=
  let gs : List (Nat × Nat) := (List.range 520).map fun c => (c, (A.newGain round c).toNat)
  let os : List (Nat × Int) := (List.range 520).map fun c => (c, Map.get 0 A.calOff c)
  { A with off := os.filter (·.2 != 0), gain := gs.filter (·.2 != 16384) }

/-- The mean code of a check column in a group, calibrated with the new values, exceeds a limit in magnitude (R92; log entry 83). -/
def Arr.refBad (A : Arr) (round k limit : Nat) : Bool :=
  let B := A.recalibrated round
  A.calGain.any fun g => decide (4 * limit < (sumInt ((gainCodes g k).map fun d => B.calibrated (512 + k) d)).natAbs)

/-- The calibration fails (R92). -/
def Arr.calFails (A : Arr) (round : Nat) : Bool :=
  let g := A.gamma
  A.refBad round 0 2 || A.refBad round 3 4 || decide (20 * g.1 < 17 * g.2) || decide (23 * g.2 < 20 * g.1)
    || (List.range 520).any fun c =>
      let k := Map.get 0 A.calK c
      let n := A.newGain round c
      decide (256 < (Map.get 0 A.calOff c).natAbs) || decide (5 * k < 4 * 3072) || decide (6 * 3072 < 5 * k)
        || decide (n < 12288) || decide (20480 < n)

/-- The last step has run: the new values take effect together, or the array keeps the old ones and becomes suspect. -/
def Arr.calEnd (A : Arr) (now round : Nat) : Arr × Bool :=
  if A.calFails round then
    ({ A.calReset with calDue := none, calEscalated := false, suspect := true }, false)
  else
    ({ (A.recalibrated round).calReset with
        calDone := some now, doneTemp := A.calTemp, calDue := none, calEscalated := false }, true)

/-- A list as a store with default 0. -/
def mapOfList (l : List Int) : Map Int := ((List.range l.length).zip l).filter fun e => e.2 != 0

/-- The groups of a GAIN step: 16 codes each. -/
def groupsOf : Nat → List Int → List (List Int)
  | 0, _ => []
  | n + 1, l => l.take 16 :: groupsOf n (l.drop 16)

/-- One step (R89), with what it senses: OFFSET the sum of 16 codes of each column, INJECT Σd⁺ − Σd⁻ of each column, GAIN the codes of
CK0 to CK3 in each group of the step, 4 conversions each. -/
def Tile.calibrate (T : Tile) (t a : Nat) (P : Part) (now round : Nat) (tj : Int) (sums diffs codes : List Int) : TRes :=
  let A := T.arr a
  let put := fun (A : Arr) => T.modArr a fun _ => A
  match A.calStep with
  | none => (put { A.calReset with calStep := some .inject, calBegan := now, calTemp := tj, calOff := mapOfList sums }, [])
  | some .offset => (put { A.calReset with calStep := some .inject, calBegan := now, calTemp := tj, calOff := mapOfList sums }, [])
  | some .inject => (put { A with calStep := some (.gain 0), calK := mapOfList diffs }, [])
  | some (.gain g) =>
    let total := 512 / P.getR Reg.ARR_CFG_ROW_GROUP_LIMIT
    let A1 := { A with calGain := A.calGain ++ groupsOf (Nat.min 4 (total - g)) codes, calStep := some (.gain (g + 4)) }
    if g + 4 < total then (put A1, [])
    else if A.calBegan + 5000 < now then (put A.calReset, [])
    else
      let r := A1.calEnd now round
      (put r.1, .free :: if r.2 then [] else [.evt Reg.ARR_ACC_EVT_CAL_FAIL, .test (.array t a)])

/-- A PASS waits for the array's phases (R88). -/
def Tile.passWaits (T : Tile) (a : Nat) : Bool := T.aq.any fun c => c.stage == .loaded && c.names.contains a
/-- A calibration step runs in a gap of a due array, yielding to a PASS that waits unless it is escalated, and to a row that is due
(R88, R89, R111). -/
def Tile.mayCalibrate (T : Tile) (a now : Nat) : Bool :=
  (T.arr a).calDue.isSome && (T.arr a).power != .off && !T.arrRuns a false && !T.refreshDue a now
    && ((T.arr a).calEscalated || !T.passWaits a)

/-- CALIBRATION_STEP (R89). -/
def execCalibrationStep (t : TileId) (a : ArrId) (sums diffs codes : List Int) (s : State) : Host.Outcome State Fault Refusal :=
  lift (fun m => m.act t.val fun T =>
    if T.mayCalibrate a.val m.timeUs then
      T.calibrate t.val a.val (m.ownerPart t.val) m.timeUs (Config.freeValue m.ctr) (m.tileTj t.val) sums diffs codes
    else (T, [])) s

/-! ### Outlier verification (R111, R112) -/

/-- It is verified in a gap once 30 s have passed since the last time; a running READ gives way between rows (R79, R111). A suspect
array takes no pass (R97). -/
def Tile.mayVerify (T : Tile) (auto : Bool) (a now : Nat) : Bool :=
  T.verifiable a && !(T.arr a).suspect && ((T.arr a).power == .active || ((T.arr a).power == .standby && auto))
    && decide ((T.arr a).verifyAt + 30000000 ≤ now) && !T.refreshDue a now
    && !(T.aq.any fun c => c.op != 2 && c.names.contains a && (c.stage == .phases || c.stage == .running))

/-- The test segment of a verification (R112). -/
def verifySegment (t a n : Nat) : List Int := (List.range 512).map fun r => (Config.verifyInput t a n r).toInt

/-- Does the verification pass agree with the exact outputs on every output (R112)? A pass or readout that its checks end with CHECK
does not. -/
def Arr.verified (A : Arr) (P : Part) (x : ConvCtx) (G : Nat) (xs : List Int) (es : List (Nat × Nat × Int))
    (senses : List RowSense) : Bool :=
  let read := (List.range 512).map fun r => A.senseRow senses x.arr r
  let w := phaseWeight (rowGroups G false (activeRows false xs)) (rowGroups G false (activeRows true xs))
  let tol := (P.getR Reg.ARR_CHECK_CFG_REF_TOL : Int) * x.u * w
  read.all (·.2) &&
    match A.passOutputs P x G false true xs es senses with
    | .error _ => false
    | .ok o => (List.range A.outputs).all fun i =>
        decide ((o.1.vals.getD i 0 - (exactOf A.w8 (read.map (·.1)) xs i + groutTerm es xs i)).natAbs ≤ tol.toNat)

/-- OUTLIER_VERIFICATION of an array (R112): the list is read, the pass runs and is compared. A list that cannot be read ends it without
a result (log entry 82). -/
def Tile.verify (x : ACtx) (T : Tile) (a : Nat) (senses : List RowSense) : TRes :=
  let P := x.part
  let G := P.getR Reg.ARR_CFG_ROW_GROUP_LIMIT
  let dir := Map.get 0 T.grout a
  if !T.mayVerify (P.flagR Reg.ARR_CFG_AUTO_WAKE) a x.m.timeUs || T.listGate dir == .wait then (T, [])
  else
    let late := if x.m.arrInBound x.t a (T.arr a) then [] else [Sig.evt Reg.ARR_ACC_EVT_BEYOND_BOUND]
    let q := T.readList x.t T.nextId (T.arr a).w8 dir
    let T1 := (q.1.wakeArrs [a]).modArr a fun A => { A with verifyAt := x.m.timeUs, verifyCount := A.verifyCount + 1 }
    match q.2.2 with
    | .error _ => (T1, q.2.1 ++ late ++ [.free])
    | .ok es =>
      if (T.arr a).verified P (x.m.convCtx x.t a G (T.arr a)) G (verifySegment x.t a (T.arr a).verifyCount) es senses then
        (T1, q.2.1 ++ late ++ [.free])
      else
        (T1.modArr a fun A => { A with suspect := true },
         q.2.1 ++ late ++ [.free, .evt Reg.ARR_ACC_EVT_VERIFY_FAIL, .test (.array x.t a)])

/-- OUTLIER_VERIFICATION (R112): `phys` says what the readout sensed. -/
def execOutlierVerification (t : TileId) (a : ArrId) (phys : ArrPhys) (s : State) : Host.Outcome State Fault Refusal :=
  lift (fun m => m.act t.val fun T => T.verify ⟨m, t.val⟩ a.val phys.senses) s

/-! ### Accuracy status (R84, R119) -/

/-- Programmed arrays of a partition: (tile, array). Those of content VALID or PATCHED (log entry 84). -/
def Mach.programmedArrs (m : Mach) (p : Nat) : List (Nat × Nat) :=
  (m.tilesOf p).flatMap fun t =>
    (((m.tile t).arrs.filter fun e => e.2.content == .valid || e.2.content == .patched).map fun e => (t, e.1))

/-- Unit code of a physical array, by its key in the wear record. -/
def wearUnit (k : Nat) : W64 := unitCode 3 (k / 64 / 164 / 180) (k / 64 / 164 % 180) (k / 64 % 164) (k % 64) 0xFFFF
/-- Arrays in age class Beyond (R84), whatever they hold and whoever owns them: by years every array, else by program cycles. -/
def Mach.beyondKeys (m : Mach) : List Nat :=
  if 7 < Config.years m.timeUs then List.range (2 * 180 * 164 * 64)
  else (m.wear.cycles.filter fun e => decide (30000 < e.2)).map (·.1)
/-- Alert 0x03 for every array that has come into age class Beyond (R84, R435). -/
def Mach.alertBeyond (m : Mach) : Mach :=
  m.beyondKeys.foldl (fun m k =>
    if m.wear.beyond.contains (wearUnit k) then m
    else { m with wear := { m.wear with beyond := m.wear.beyond ++ [wearUnit k] } }.alert 3 (wearUnit k)) m

/-- The fields of ARR_ACC_STATUS (R119), and BEYOND_BOUND where IN_BOUND is clear (R115). A TJ_MAX below 0 °C reads 0 (log entry 84). -/
def Mach.accStatus (m : Mach) (p : Nat) : Mach :=
  let l := m.programmedArrs p
  let tj := ((m.palletsOf p).map fun i => (m.pallet i).tj).foldl max 0
  let suspect := ((m.tilesOf p).filter fun t => (m.tile t).arrs.any fun e => e.2.suspect).length
  let age := (l.map fun x => m.ageClass x.1 x.2).foldl Nat.max 0
  let inb := l.all fun x => m.arrInBound x.1 x.2 ((m.tile x.1).arr x.2)
  m.modPart p fun P =>
    let P1 := ((((P.setR Reg.ARR_ACC_STATUS_TJ_MAX tj.toNat).setR Reg.ARR_ACC_STATUS_SUSPECT_TILES (Nat.min suspect 255)).setR
      Reg.ARR_ACC_STATUS_AGE_CLASS age).setR Reg.ARR_ACC_STATUS_DIGITAL_ACTIVE (P.getR Reg.ARR_MODE_DIGITAL)).setR
      Reg.ARR_ACC_STATUS_IN_BOUND (b2n inb)
    if inb then P1 else P1.evt Reg.ARR_ACC_EVT_BEYOND_BOUND

/-- ACC_STATUS_UPDATE (R119): of a SEALED partition the status (log entry 84), and the service alerts of R84 in every case. -/
def execAccStatusUpdate (p : PartId) (s : State) : Host.Outcome State Fault Refusal :=
  lift (fun m => (if (m.part p.val).isSealed then m.accStatus p.val else m).alertBeyond) s

end Sys2Proof.Machine
end

