-- ==== Sys2Proof/Machine/Boot.lean ====
section
/-! DEFINITION. Start-up, the firmware image and the live handover (R432, R513 to R520). -/
namespace Sys2Proof.Machine

/-- BOOT_STATE (R520). -/
def bsWait : Nat := 1
def bsCheck : Nat := 2
def bsBringUp : Nat := 3
def bsReady : Nat := 4
def bsError : Nat := 5
def Mach.bootState (m : Mach) : Nat := m.getR Reg.BOOT_STATUS_BOOT_STATE
def Mach.setBoot (m : Mach) (b : Nat) : Mach := m.setR Reg.BOOT_STATUS_BOOT_STATE b
def Mach.bootErr (m : Mach) (e : Nat) : Mach := m.setR Reg.BOOT_STATUS_BOOT_ERR e
def Mach.modBoot (m : Mach) (f : Boot → Boot) : Mach := { m with boot := f m.boot }

/-! ### Power-on (R513) -/

/-- FEED_A or FEED_B of PWR_STATUS, and its bit of SVC_STATUS. -/
def Mach.setFeed (m : Mach) (feed : FeedId) (v : Nat) : Mach :=
  if feed = 0 then (m.setR Reg.PWR_STATUS_FEED_A v).setR Reg.SVC_STATUS_FEED_A_OK (b2n (v == 1))
  else (m.setR Reg.PWR_STATUS_FEED_B v).setR Reg.SVC_STATUS_FEED_B_OK (b2n (v == 1))
def Mach.feed (m : Mach) (i : Nat) : Feed := Map.get {} m.feeds i
def Mach.modFeed (m : Mach) (i : Nat) (f : Feed → Feed) : Mach :=
  { m with feeds := Map.set {} m.feeds i (f (m.feed i)) }

/-- Every partition at its reset values under the sampled COMPAT_STRAP (R14, R514). -/
def Mach.resetParts (m : Mach) : Mach := { m with parts := partIds.foldl (fun l p => Map.set {} l p (m.freshPart 0)) [] }

/-- The sequence of R513 up to WAIT_FW, or to ERROR after a failed known-answer test (R408). The feed is in range, at a voltage that
the command does not give. -/
def Mach.powerOn (m : Mach) (feed : FeedId) (strap kat : Bool) : Mach :=
  if m.boot.moduleUp then m
  else
    let m1 := { m with beats := 0, timeAdj := 0 }.modBoot fun b => { b with moduleUp := true }
    let mv := 11400 + Config.freeValue m.ctr % 1201
    let m2 := (({ m1 with ctr := m.ctr + 1 }.modFeed feed.val fun f => { f with mv := mv, share := 100 }).setFeed feed 1).setR
      Reg.MODULE_POWER_CAP (Nat.min 24000 (2 * mv))
    let m3 := (m2.setR Reg.SB_STATUS_STRAP_IN (b2n strap)).setR Reg.PWR_STATUS_TRIPPED_LAST (b2n m.wear.tripped)
    let m4 := { m3 with wear := { m3.wear with tripped := false } }.resetParts
    if kat then m4.setBoot bsWait else ((m4.setBoot bsError).bootErr 6).alert 4 0

/-- POWER_ON (R513). -/
def execPowerOn (feed : FeedId) (strap kat : Bool) (s : State) : Host.Outcome State Fault Refusal :=
  lift (fun m => m.powerOn feed strap kat) s

/-! ### Firmware loads (R516, R517, R519) -/

def Mach.bootBusy (m : Mach) : Mach := m.evt Reg.BOOT_EVT_BOOT_BUSY
/-- A write to BOOT_CTRL OP: by a physical function of a powered module, in READY under the lease (R514, R522). -/
def Mach.bootOp (m : Mach) (w : Writer) (f : Mach → Mach) : Mach :=
  if m.ready then m.moduleWrite w f
  else if m.boot.moduleUp && w.func.val == 0 then f m
  else m

/-- The read of the image through the writer's port. -/
def Mach.fetchImage (m : Mach) (w : Writer) : Mach :=
  let a := 64 * m.getR Reg.BOOT_IMG_LO_ADDR + 2 ^ 32 * m.getR Reg.BOOT_IMG_HI_ADDR
  let m1 : Mach := { m with out := m.out ++ [.hostRead none w.port (BitVec.ofNat 64 a) (m.getR Reg.BOOT_LEN)] }
  m1.modBoot fun b => { b with fetching := some w, viaPldm := none }
/-- An image is being fetched, checked, or held for a handover. -/
def Boot.stageBusy (b : Boot) : Bool := b.staging || b.staged.isSome

/-- BOOT_LOAD (R517). -/
def execBootLoad (w : Writer) (s : State) : Host.Outcome State Fault Refusal :=
  lift (fun m => m.bootOp w fun m =>
    if m.bootState = bsWait then (m.setBoot bsCheck).fetchImage w else m.bootBusy) s
/-- STAGE (R519). -/
def execStage (w : Writer) (s : State) : Host.Outcome State Fault Refusal :=
  lift (fun m => m.bootOp w fun m =>
    if !m.ready || m.boot.stageBusy then m.bootBusy else (m.modBoot fun b => { b with staging := true }).fetchImage w) s
/-- BOOT_ABORT (R519): before the quiet point. -/
def execBootAbort (w : Writer) (s : State) : Host.Outcome State Fault Refusal :=
  lift (fun m => m.bootOp w fun m =>
    if !m.ready || !m.boot.stageBusy || m.boot.inHold then m.bootBusy
    else (m.modBoot fun b => { b with staging := false, staged := none, fetching := none, viaPldm := none }).setR
      Reg.SVC_STATUS_HANDOVER 0) s
/-- PLDM_FW_ACTIVATE (R517, R519): a live handover in READY. -/
def execPldmFwActivate (img : FwImage) (s : State) : Host.Outcome State Fault Refusal :=
  lift (fun m =>
    let take := fun (m : Mach) => m.modBoot fun b => { b with fetching := none, viaPldm := some img }
    if !m.boot.moduleUp then m
    else if m.bootState = bsWait then take (m.setBoot bsCheck)
    else if m.ready && !m.boot.stageBusy then take (m.modBoot fun b => { b with staging := true })
    else m.bootBusy) s

/-- The checks of an image in the order of the error codes (R516, R517, R519); `len` is BOOT_LEN of a load from a host. -/
def fwError (img : Option FwImage) (len : Option Nat) (floor : Nat) : Option Nat :=
  match img with
  | none => some 1
  | some i =>
    if i.magic.toNat ≠ 0x5248454D ∨ i.format.toNat ≠ 1 ∨ !i.zeros ∨ i.codeLen % 64 ≠ 0 ∨ i.bytes ≠ 192 + i.codeLen
        ∨ 8388608 < i.bytes ∨ (len.any fun n => n != i.bytes) then some 2
    else if !i.sigOk then some 3
    else if i.svn.toNat < floor then some 4
    else if !i.selfOk then some 5
    else none

/-- FW_CHECK (R517, R519). -/
def Mach.fwCheck (m : Mach) (img : Option FwImage) : Mach :=
  let staging := m.boot.staging
  if m.bootState ≠ bsCheck ∧ !staging then m
  else
    let i := match m.boot.viaPldm with
      | some i => some i
      | none => img
    let len := if m.boot.viaPldm.isSome then none else some (m.getR Reg.BOOT_LEN)
    let run := match m.boot.running with
      | some r => if staging then r.svn.toNat else 0
      | none => 0
    let m1 := m.modBoot fun b => { b with fetching := none, viaPldm := none, staging := false }
    match fwError i len (Nat.max (m.getR Reg.SVN_FLOOR) run) with
    | some e =>
      let m2 := (m1.bootErr e).evt Reg.BOOT_EVT_FW_REFUSED
      if staging then m2 else m2.setBoot bsWait
    | none =>
      if staging then (m1.modBoot fun b => { b with staged := i }).setR Reg.SVC_STATUS_HANDOVER 1
      else (m1.modBoot fun b => { b with running := i }).setBoot bsBringUp

/-- FW_CHECK (R517). An image that could not be read from a host is logged through AER (R486). -/
def execFwCheck (img : Option FwImage) (s : State) : Host.Outcome State Fault Refusal :=
  lift (fun m =>
    let failed := img.isNone && m.boot.viaPldm.isNone && (m.bootState == bsCheck || m.boot.staging)
    let m1 := m.fwCheck img
    { m1 with out := m1.out ++ (match m.boot.fetching with
      | some w => if failed then [.aer w.port] else []
      | none => []) }) s

/-! ### Bring-up (R513 to R515) -/

/-- A firmware image begins to run: its identity, its alias key (R384), and its hours (R518). -/
def Mach.runImage (m : Mach) : Mach :=
  let r := m.boot.running.getD default
  let m1 := { m with ctr := m.ctr + 1 }.modBoot fun b => { b with aliasKey := some (Config.keyPair m.ctr), runSince := m.timeUs }
  (m1.setR Reg.ID_FW_SVN r.svn.toNat).setR Reg.ID_FW_VER_VERSION r.version.toNat

/-- Pallets come up, but for those that the wear record marks OUT, and those that fail, which are marked OUT (R513, R515). The routers of a pallet OUT for want of a spare forward (R202). -/
def Mach.raisePallets (m : Mach) (out : List PalletId) : Mach :=
  (List.range 120).foldl (fun m i =>
    if (out.any fun o => o.val == i) || m.getR (Reg.SPARE_STATE i) == 2 then (m.setR (Reg.SPARE_STATE i) 2).modPallet i fun q => { q with dark := true }
    else m.modPallet i fun q => { q with powered := true }) m

/-- BRING_UP (R513). At READY every RW field holds its reset value, those of BOOT included (R514). -/
def Mach.bringUp (m : Mach) (out : List PalletId) (eraseFail : List (Nat × Nat)) (linkFaults : List LinkUnit) : Mach :=
  if m.bootState ≠ bsBringUp then m
  else
    let m1 := m.raisePallets out
    if (List.range 120).all fun i => !(m1.pallet i).powered then (m1.setBoot bsError).bootErr 7
    else
      let m2 : Mach := { m1 with zeroed := true, tiles := [], walls := [(0, { powered := true }), (1, { powered := true })] }
      let bad := eraseFail.filter fun x => decide (x.1 < 52800) && decide (x.2 < 64)
      let m3 := bad.foldl (fun m x =>
        (m.modTile x.1 fun T => T.modArr x.2 fun A => { A with content := .failed, power := .standby }).startTest (.array x.1 x.2)) m2
      let m4 := linkFaults.foldl (fun m u => (m.noteLasting (.link u)).linkOut u) m3
      let m5 := [Reg.BOOT_IMG_LO_ADDR, Reg.BOOT_IMG_HI_ADDR, Reg.BOOT_LEN].foldl (fun m f => m.setR f 0) m4
      ({ m5 with routesStale := [], routeHolds := [], tables := m5.transit }.runImage).setBoot bsReady

/-- BRING_UP (R513). -/
def execBringUp (out : List PalletId) (eraseFail : List (Nat × Nat)) (linkFaults : List LinkUnit) (s : State) :
    Host.Outcome State Fault Refusal := lift (fun m => m.bringUp out eraseFail linkFaults) s

/-- SVN_FLOOR_RAISE (R518): after 24 h. The floor never falls. -/
def execSvnFloorRaise (s : State) : Host.Outcome State Fault Refusal :=
  lift (fun m =>
    match m.boot.running with
    | some r =>
      if m.ready && decide (m.boot.runSince + 86400000000 ≤ m.timeUs) then
        m.setR Reg.SVN_FLOOR (Nat.max (m.getR Reg.SVN_FLOOR) r.svn.toNat)
      else m
    | none => m) s

/-! ### Live handover (R432) -/

/-- The end of a handover: the event with the image's security version, and the hitch. -/
def Mach.endHandover (m : Mach) (svn holdUs : Nat) (failed : Bool) : Mach :=
  ((m.evt Reg.SVC_EVT_FW_HANDOVER).eventAll 0x010C svn (holdUs + 2 ^ 63 * b2n failed)).noteHitch (holdUs / 1000)

/-- HANDOVER_HOLD at a quiet point, unless a re-placement or rebuild runs (R428). A take-over within 20 ms completes here; else the
hold lasts until HANDOVER_TIMEOUT. -/
def Mach.handover (m : Mach) (digestOk : Bool) (holdUs : Nat) : Mach :=
  match m.boot.staged with
  | none => m
  | some i =>
    if m.boot.inHold || !m.replaces.isEmpty || partIds.any fun p => (m.part p).rebuilding then m
    else if digestOk ∧ holdUs ≤ 20000 then
      ((m.modBoot fun b => { b with running := some i, staged := none }).runImage.setR Reg.SVC_STATUS_HANDOVER 0).endHandover
        i.svn.toNat holdUs false
    else
      let ps := (List.finRange 16).filter fun p => (m.part p.val).isSealed
      let m1 := ps.foldl (fun m p => m.modPart p.val fun P => { P with service := P.service + 1 }) m
      (m1.modBoot fun b => { b with inHold := true, partsHeld := ps }).setR Reg.SVC_STATUS_HANDOVER 2

/-- HANDOVER_HOLD (R432). -/
def execHandoverHold (digestOk : Bool) (holdUs : Nat) (s : State) : Host.Outcome State Fault Refusal :=
  lift (fun m => m.handover digestOk holdUs) s

/-- The old firmware resumes: the holds end and the staged image is gone. -/
def Mach.failHandover (m : Mach) : Mach :=
  if !m.boot.inHold then m
  else
    let svn := match m.boot.staged with
      | some i => i.svn.toNat
      | none => 0
    let m1 := m.boot.partsHeld.foldl (fun m p => m.modPart p.val fun P => { P with service := P.service - 1 }) m
    ((m1.modBoot fun b => { b with inHold := false, partsHeld := [], staged := none }).setR Reg.SVC_STATUS_HANDOVER 3).endHandover
      svn 20000 true

/-- HANDOVER_TIMEOUT (R432). -/
def execHandoverTimeout (s : State) : Host.Outcome State Fault Refusal := lift Mach.failHandover s

end Sys2Proof.Machine
end

