-- ==== Sys2Proof/Machine/Scalar.lean ====
section
/-! DEFINITION. Scalar instructions: ALU, immediates, jumps and branches, loads and stores, controller registers (R162 to
R169). -/
namespace Sys2Proof.Machine

/-! ### Arithmetic -/

/-- An instruction that computes xd from xa and xb. -/
def aluR (t : TileId) (d a b : RegNo) (f : W64 → W64 → W64) : State → Host.Outcome State Fault Refusal :=
  lift fun m => m.act t.val fun T => T.issue t.val [d.val, a.val, b.val] fun T =>
    ((T.setX d.val (f (T.getX a.val) (T.getX b.val))).advance, [])

/-- An instruction that computes xd from xa. -/
def aluI (t : TileId) (d a : RegNo) (f : W64 → W64) : State → Host.Outcome State Fault Refusal :=
  lift fun m => m.act t.val fun T => T.issue t.val [d.val, a.val] fun T =>
    ((T.setX d.val (f (T.getX a.val))).advance, [])

/-- As `aluI` for a function whose b field must be x0, else the word is ILLEGAL (R162). -/
def aluU (t : TileId) (d a b : RegNo) (fn : Nat) (f : W64 → W64) : State → Host.Outcome State Fault Refusal :=
  lift fun m => m.act t.val fun T => T.issue t.val [d.val, a.val] fun T =>
    if b.val ≠ 0 then T.raiseAt .illegal (encR 0x01 d.val a.val b.val fn)
    else ((T.setX d.val (f (T.getX a.val))).advance, [])

/-- A division or remainder: with COMPAT_G1 set a zero divisor raises DIV_ZERO and writes nothing (R193); its EXC_INFO is not
stated and is a free value (log entry 1). -/
def divOp (t : TileId) (d a b : RegNo) (f : W64 → W64 → W64) : State → Host.Outcome State Fault Refusal :=
  lift fun m => m.act t.val fun T => T.issue t.val [d.val, a.val, b.val] fun T =>
    if T.getX b.val = 0 ∧ (m.ownerPart t.val).compat then
      let r := T.raiseAt .divZero (BitVec.ofNat 64 (Config.freeValue m.ctr))
      (r.1, .free :: r.2)
    else ((T.setX d.val (f (T.getX a.val) (T.getX b.val))).advance, [])

def boolW (b : Bool) : W64 := if b then 1 else 0
def shl64 (a b : W64) : W64 := a <<< (b.toNat % 64)
def shr64 (a b : W64) : W64 := a >>> (b.toNat % 64)
def sar64 (a b : W64) : W64 := a.sshiftRight (b.toNat % 64)
def mulhs64 (a b : W64) : W64 := BitVec.ofInt 64 (a.toInt * b.toInt / 2 ^ 64)
def mulhu64 (a b : W64) : W64 := BitVec.ofNat 64 (a.toNat * b.toNat / 2 ^ 64)
/-- Results by zero and of −2^63 by −1 (R164). -/
def div64 (a b : W64) : W64 := if b = 0 then BitVec.allOnes 64 else BitVec.sdiv a b
def divu64 (a b : W64) : W64 := if b = 0 then BitVec.allOnes 64 else a / b
def rem64 (a b : W64) : W64 := if b = 0 then a else BitVec.srem a b
def remu64 (a b : W64) : W64 := if b = 0 then a else a % b
def clz64 (a : W64) : W64 := if a = 0 then 64 else BitVec.ofNat 64 (63 - Nat.log2 a.toNat)
def popc64 (a : W64) : W64 := BitVec.ofNat 64 (((List.range 64).filter fun i => a.getLsbD i).length)

/-- ADD (R162). -/
def execAdd (t : TileId) (d a b : RegNo) (s : State) : Host.Outcome State Fault Refusal :=
  aluR t d a b (fun a b => a + b) s
/-- SUB (R162). -/
def execSub (t : TileId) (d a b : RegNo) (s : State) : Host.Outcome State Fault Refusal :=
  aluR t d a b (fun a b => a - b) s
/-- AND (R162). -/
def execAnd (t : TileId) (d a b : RegNo) (s : State) : Host.Outcome State Fault Refusal :=
  aluR t d a b (fun a b => a &&& b) s
/-- OR (R162). -/
def execOr (t : TileId) (d a b : RegNo) (s : State) : Host.Outcome State Fault Refusal :=
  aluR t d a b (fun a b => a ||| b) s
/-- XOR (R162). -/
def execXor (t : TileId) (d a b : RegNo) (s : State) : Host.Outcome State Fault Refusal :=
  aluR t d a b (fun a b => a ^^^ b) s
/-- SHL (R162). -/
def execShl (t : TileId) (d a b : RegNo) (s : State) : Host.Outcome State Fault Refusal :=
  aluR t d a b (fun a b => shl64 a b) s
/-- SHR (R162). -/
def execShr (t : TileId) (d a b : RegNo) (s : State) : Host.Outcome State Fault Refusal :=
  aluR t d a b (fun a b => shr64 a b) s
/-- SAR (R162). -/
def execSar (t : TileId) (d a b : RegNo) (s : State) : Host.Outcome State Fault Refusal :=
  aluR t d a b (fun a b => sar64 a b) s
/-- SLT (R162). -/
def execSlt (t : TileId) (d a b : RegNo) (s : State) : Host.Outcome State Fault Refusal :=
  aluR t d a b (fun a b => boolW (a.slt b)) s
/-- SLTU (R162). -/
def execSltu (t : TileId) (d a b : RegNo) (s : State) : Host.Outcome State Fault Refusal :=
  aluR t d a b (fun a b => boolW (a.ult b)) s
/-- MIN (R162). -/
def execMin (t : TileId) (d a b : RegNo) (s : State) : Host.Outcome State Fault Refusal :=
  aluR t d a b (fun a b => if a.slt b then a else b) s
/-- MAX (R162). -/
def execMax (t : TileId) (d a b : RegNo) (s : State) : Host.Outcome State Fault Refusal :=
  aluR t d a b (fun a b => if a.slt b then b else a) s
/-- MINU (R162). -/
def execMinu (t : TileId) (d a b : RegNo) (s : State) : Host.Outcome State Fault Refusal :=
  aluR t d a b (fun a b => if a.ult b then a else b) s
/-- MAXU (R162). -/
def execMaxu (t : TileId) (d a b : RegNo) (s : State) : Host.Outcome State Fault Refusal :=
  aluR t d a b (fun a b => if a.ult b then b else a) s
/-- MUL (R162). -/
def execMul (t : TileId) (d a b : RegNo) (s : State) : Host.Outcome State Fault Refusal :=
  aluR t d a b (fun a b => a * b) s
/-- MULHS (R162). -/
def execMulhs (t : TileId) (d a b : RegNo) (s : State) : Host.Outcome State Fault Refusal :=
  aluR t d a b (fun a b => mulhs64 a b) s
/-- MULHU (R162). -/
def execMulhu (t : TileId) (d a b : RegNo) (s : State) : Host.Outcome State Fault Refusal :=
  aluR t d a b (fun a b => mulhu64 a b) s
/-- DIV (R162, R164). -/
def execDiv (t : TileId) (d a b : RegNo) (s : State) : Host.Outcome State Fault Refusal :=
  divOp t d a b div64 s
/-- DIVU (R162, R164). -/
def execDivu (t : TileId) (d a b : RegNo) (s : State) : Host.Outcome State Fault Refusal :=
  divOp t d a b divu64 s
/-- REM (R162, R164). -/
def execRem (t : TileId) (d a b : RegNo) (s : State) : Host.Outcome State Fault Refusal :=
  divOp t d a b rem64 s
/-- REMU (R162, R164). -/
def execRemu (t : TileId) (d a b : RegNo) (s : State) : Host.Outcome State Fault Refusal :=
  divOp t d a b remu64 s
/-- CLZ (R162). -/
def execClz (t : TileId) (d a b : RegNo) (s : State) : Host.Outcome State Fault Refusal :=
  aluU t d a b 0x018 clz64 s
/-- POPC (R162). -/
def execPopc (t : TileId) (d a b : RegNo) (s : State) : Host.Outcome State Fault Refusal :=
  aluU t d a b 0x019 popc64 s

/-! ### Immediates (R163) -/

/-- ADDI (R163). -/
def execAddi (t : TileId) (d a : RegNo) (imm : W16) (s : State) : Host.Outcome State Fault Refusal :=
  aluI t d a (fun a => a + sx imm) s
/-- ANDI (R163). -/
def execAndi (t : TileId) (d a : RegNo) (imm : W16) (s : State) : Host.Outcome State Fault Refusal :=
  aluI t d a (fun a => a &&& imm.setWidth 64) s
/-- ORI (R163). -/
def execOri (t : TileId) (d a : RegNo) (imm : W16) (s : State) : Host.Outcome State Fault Refusal :=
  aluI t d a (fun a => a ||| imm.setWidth 64) s
/-- XORI (R163). -/
def execXori (t : TileId) (d a : RegNo) (imm : W16) (s : State) : Host.Outcome State Fault Refusal :=
  aluI t d a (fun a => a ^^^ imm.setWidth 64) s
/-- SLTI (R163). -/
def execSlti (t : TileId) (d a : RegNo) (imm : W16) (s : State) : Host.Outcome State Fault Refusal :=
  aluI t d a (fun a => boolW (a.slt (sx imm))) s
/-- SLTIU (R163). -/
def execSltiu (t : TileId) (d a : RegNo) (imm : W16) (s : State) : Host.Outcome State Fault Refusal :=
  aluI t d a (fun a => boolW (a.ult (sx imm))) s
/-- SHI of kind SHL (R163). -/
def execShiShl (t : TileId) (d a : RegNo) (amt : BitVec 6) (s : State) : Host.Outcome State Fault Refusal :=
  aluI t d a (fun a => shl64 a (amt.setWidth 64)) s
/-- SHI of kind SHR (R163). -/
def execShiShr (t : TileId) (d a : RegNo) (amt : BitVec 6) (s : State) : Host.Outcome State Fault Refusal :=
  aluI t d a (fun a => shr64 a (amt.setWidth 64)) s
/-- SHI of kind SAR (R163). -/
def execShiSar (t : TileId) (d a : RegNo) (amt : BitVec 6) (s : State) : Host.Outcome State Fault Refusal :=
  aluI t d a (fun a => sar64 a (amt.setWidth 64)) s
/-- `v` with its 16-bit field p replaced. -/
def limmField (v : W64) (p : Nat) (imm : W16) : W64 :=
  (v &&& ~~~((0xFFFF : W64) <<< (16 * p))) ||| (imm.setWidth 64 <<< (16 * p))
/-- LIMM (R163): a[1:0] selects the field of xd, a[4:2] is zero. -/
def execLimm (t : TileId) (d a : RegNo) (imm : W16) (s : State) : Host.Outcome State Fault Refusal :=
  lift (fun m => m.act t.val fun T => T.issue t.val [d.val] fun T =>
    if 4 ≤ a.val then T.raiseAt .illegal (encI 0x09 d.val a.val imm.toNat)
    else ((T.setX d.val (limmField (T.getX d.val) a.val imm)).advance, [])) s

/-! ### Control transfer (R166) -/

/-- Transfer to a target: outside 0x0000 to 0xFFFC is ILLEGAL, which comes before MISALIGN (R191), of a target that is no multiple of
4. `link` is written first. -/
def Tile.jump (T : Tile) (word : W64) (link : Option Nat) (target : Int) : TRes :=
  if target < 0 ∨ 0xFFFC < target then T.raiseAt .illegal word
  else if target % 4 ≠ 0 then T.raiseAt .misalign (BitVec.ofInt 64 target)
  else
    let T' := match link with
      | some d => T.setX d (BitVec.ofNat 64 (T.pc + 4))
      | none => T
    ({ T' with pc := target.toNat }, [])

/-- JAL (R166). -/
def execJal (t : TileId) (d : RegNo) (off : BitVec 21) (s : State) : Host.Outcome State Fault Refusal :=
  lift (fun m => m.act t.val fun T => T.issue t.val [d.val] fun T =>
    T.jump (encJ 0x0A d.val off.toNat) (some d.val) ((T.pc : Int) + 4 * off.toInt)) s

/-- JALR (R166). The target xa + imm16 is a 64-bit sum. -/
def execJalr (t : TileId) (d a : RegNo) (imm : W16) (s : State) : Host.Outcome State Fault Refusal :=
  lift (fun m => m.act t.val fun T => T.issue t.val [d.val, a.val] fun T =>
    T.jump (encI 0x0B d.val a.val imm.toNat) (some d.val) (((T.getX a.val + sx imm).toNat : Nat) : Int)) s

/-- A branch: to its own address + 4 × offset when the condition holds. -/
def branch (major : Nat) (t : TileId) (a b : RegNo) (off : W16) (cond : W64 → W64 → Bool) :
    State → Host.Outcome State Fault Refusal :=
  lift fun m => m.act t.val fun T => T.issue t.val [a.val, b.val] fun T =>
    if cond (T.getX a.val) (T.getX b.val) then
      T.jump (encI major a.val b.val off.toNat) none ((T.pc : Int) + 4 * off.toInt)
    else (T.advance, [])

/-- BEQ (R166). -/
def execBeq (t : TileId) (a b : RegNo) (off : W16) (s : State) : Host.Outcome State Fault Refusal :=
  branch 0x0C t a b off (fun a b => a == b) s
/-- BNE (R166). -/
def execBne (t : TileId) (a b : RegNo) (off : W16) (s : State) : Host.Outcome State Fault Refusal :=
  branch 0x0D t a b off (fun a b => a != b) s
/-- BLT (R166). -/
def execBlt (t : TileId) (a b : RegNo) (off : W16) (s : State) : Host.Outcome State Fault Refusal :=
  branch 0x0E t a b off (fun a b => a.slt b) s
/-- BGE (R166). -/
def execBge (t : TileId) (a b : RegNo) (off : W16) (s : State) : Host.Outcome State Fault Refusal :=
  branch 0x0F t a b off (fun a b => !a.slt b) s
/-- BLTU (R166). -/
def execBltu (t : TileId) (a b : RegNo) (off : W16) (s : State) : Host.Outcome State Fault Refusal :=
  branch 0x10 t a b off (fun a b => a.ult b) s
/-- BGEU (R166). -/
def execBgeu (t : TileId) (a b : RegNo) (off : W16) (s : State) : Host.Outcome State Fault Refusal :=
  branch 0x11 t a b off (fun a b => !a.ult b) s

/-! ### Loads and stores (R165) -/

/-- The checks of a scalar access at issue: alignment, range, port class, then what makes the core wait. `none` lets it go on. -/
def Tile.scalarCheck (T : Tile) (compat testing : Bool) (addr : W64) (n : Nat) (write : Bool) : Option TRes :=
  let a := addr.toNat
  if (if compat then a % n ≠ 0 else 64 < a % 64 + n) then some (T.raiseAt .misalign addr)
  else match T.check coreAllow a n with
    | .range _ => some (T.raiseAt .range addr)
    | .port _ => some (T.raiseAt .portClass addr)
    | .wait => some (T, [])
    | .ok => if testing || T.sbStall [lineRange a n write] then some (T, []) else none

/-- A load of n bytes; `ext` extends them. An uncorrectable error raises UE_LOCAL and writes no register. -/
def loadOp (t : TileId) (d a : RegNo) (imm : W16) (n : Nat) (ext : Nat → W64) :
    State → Host.Outcome State Fault Refusal :=
  lift fun m => m.act t.val fun T => T.issue t.val [d.val, a.val] fun T =>
    let addr := T.getX a.val + sx imm
    match T.scalarCheck (m.ownerPart t.val).compat (m.testing t.val (addr.toNat / 64)) addr n false with
    | some r => r
    | none =>
      let q := T.senseLine t.val (addr.toNat / 64)
      if q.2.2 then (q.1.recordExc .ueLocal T.pc addr, q.2.1 ++ [.exc .ueLocal (some (addr.toNat / 64))])
      else ((q.1.setX d.val (ext (leNat (q.1.readBytes addr.toNat n)))).advance, q.2.1)

/-- A store of the low n bytes. -/
def storeOp (t : TileId) (v a : RegNo) (imm : W16) (n : Nat) : State → Host.Outcome State Fault Refusal :=
  lift fun m => m.act t.val fun T => T.issue t.val [v.val, a.val] fun T =>
    let addr := T.getX a.val + sx imm
    match T.scalarCheck (m.ownerPart t.val).compat (m.testing t.val (addr.toNat / 64)) addr n true with
    | some r => r
    | none => ((T.writeBytes addr.toNat (leBytes n (T.getX v.val).toNat)).advance, [])

def zext (v : Nat) : W64 := BitVec.ofNat 64 v
def sext (w v : Nat) : W64 := (BitVec.ofNat w v).signExtend 64

/-- LDB (R165). -/
def execLdb (t : TileId) (d a : RegNo) (imm : W16) (s : State) : Host.Outcome State Fault Refusal :=
  loadOp t d a imm 1 (sext 8) s
/-- LDBU (R165). -/
def execLdbu (t : TileId) (d a : RegNo) (imm : W16) (s : State) : Host.Outcome State Fault Refusal :=
  loadOp t d a imm 1 zext s
/-- LDH (R165). -/
def execLdh (t : TileId) (d a : RegNo) (imm : W16) (s : State) : Host.Outcome State Fault Refusal :=
  loadOp t d a imm 2 (sext 16) s
/-- LDHU (R165). -/
def execLdhu (t : TileId) (d a : RegNo) (imm : W16) (s : State) : Host.Outcome State Fault Refusal :=
  loadOp t d a imm 2 zext s
/-- LDW (R165). -/
def execLdw (t : TileId) (d a : RegNo) (imm : W16) (s : State) : Host.Outcome State Fault Refusal :=
  loadOp t d a imm 4 (sext 32) s
/-- LDWU (R165). -/
def execLdwu (t : TileId) (d a : RegNo) (imm : W16) (s : State) : Host.Outcome State Fault Refusal :=
  loadOp t d a imm 4 zext s
/-- LDD (R165). -/
def execLdd (t : TileId) (d a : RegNo) (imm : W16) (s : State) : Host.Outcome State Fault Refusal :=
  loadOp t d a imm 8 zext s
/-- STB (R165). -/
def execStb (t : TileId) (s0 a : RegNo) (imm : W16) (s : State) : Host.Outcome State Fault Refusal :=
  storeOp t s0 a imm 1 s
/-- STH (R165). -/
def execSth (t : TileId) (s0 a : RegNo) (imm : W16) (s : State) : Host.Outcome State Fault Refusal :=
  storeOp t s0 a imm 2 s
/-- STW (R165). -/
def execStw (t : TileId) (s0 a : RegNo) (imm : W16) (s : State) : Host.Outcome State Fault Refusal :=
  storeOp t s0 a imm 4 s
/-- STD (R165). -/
def execStd (t : TileId) (s0 a : RegNo) (imm : W16) (s : State) : Host.Outcome State Fault Refusal :=
  storeOp t s0 a imm 8 s

/-! ### Controller registers (R167 to R169) -/

/-- 64 flags of a store as a word. -/
def flagWord (f : Map Bool) (i : Nat) : W64 :=
  BitVec.ofNat 64 ((List.range 64).foldl (fun v j => if Map.get false f (64 * i + j) then v + 2 ^ j else v) 0)

/-- A queue descriptor as read: PARK_BUSY shows whether its park entry holds a fill (R145). -/
def Tile.queueWord (T : Tile) (q : Nat) : Nat :=
  (Map.get 0 T.qdesc q).toNat + (if (Map.get none T.park q).isSome then 2 ^ 15 else 0)

/-- SLOT_ACTIVE_i: the slots the current turn carries. -/
def Part.slotActive (P : Part) (i : Nat) : W64 :=
  BitVec.ofNat 64 ((List.range 64).foldl
    (fun v j => if P.card.any fun e => e.slot.val == 64 * i + j then v + 2 ^ j else v) 0)

/-- What controller register n reads as; none for a number not in the map. CYCLE is a free value (log entry 15). -/
def crRead (m : Mach) (t : Nat) (T : Tile) (n : Nat) : Option W64 :=
  let P := m.ownerPart t
  if n < 0x40 then some ((Map.get 0 T.grout n).setWidth 64)
  else if n < 0x80 then some (BitVec.ofNat 64 (T.queueWord (n - 0x40)))
  else if n = 0x80 then some (BitVec.ofNat 64 (2 ^ 32 * t + 2 ^ 16 * (t / 26400) + 2 ^ 8 * (t % 26400 / 160) + t % 160))
  else if n = 0x81 then some (BitVec.ofNat 64 P.turnSeq)
  else if n = 0x82 then some (BitVec.ofNat 64 P.beatNow)
  else if n = 0x83 then some (match T.beatDue with | some k => BitVec.ofNat 64 (2 ^ 16 + k % 2 ^ 16) | none => 0)
  else if n < 0x88 then some (P.slotActive (n - 0x84))
  else if n = 0x88 then some (BitVec.ofNat 64 (P.getR Reg.ARR_MODE_DIGITAL + 2 * P.getR Reg.TILE_ISA_CFG_COMPAT_G1))
  else if n = 0x89 then some (BitVec.ofNat 64 (T.cq.length + (if T.cqLost then 256 else 0)))
  else if n = 0x8A then some (BitVec.ofNat 64 (Config.freeValue m.ctr))
  else if n = 0x90 then some (BitVec.ofNat 64 (match T.excCause with | some c => c.code | none => 0))
  else if n = 0x91 then some (BitVec.ofNat 64 T.excPc)
  else if n = 0x92 then some T.excInfo
  else if n = 0x93 then some (BitVec.ofNat 64 T.excMore)
  else if 0xA0 ≤ n ∧ n < 0xA4 then some (flagWord T.flags (n - 0xA0))
  else if 0xA4 ≤ n ∧ n < 0xA8 then some (if T.allAlloc then BitVec.allOnes 64 else flagWord T.alloc (n - 0xA4))
  else none

/-- A number of the map. -/
def crKnown (n : Nat) : Bool :=
  decide (n ≤ 0x8A) || (decide (0x90 ≤ n) && decide (n ≤ 0x93)) || (decide (0xA0 ≤ n) && decide (n < 0xA8))

/-- A write of register n: none where the number is not in the map or a field would take a reserved encoding (R167). -/
def crWrite (T : Tile) (n : Nat) (v : W64) : Option Tile :=
  let w := v.toNat % 2 ^ 32
  if n < 0x40 then
    if 256 < bits w 0 9 then none
    else some { T with grout := Map.set 0 T.grout n (BitVec.ofNat 32 (2 ^ 16 * bits w 16 15 + bits w 0 9)) }
  else if n < 0x80 then
    if 4095 < bits w 0 13 then none
    else
      let q := BitVec.ofNat 32 (2 ^ 31 * bits w 31 1 + 2 ^ 16 * bits w 16 15 + bits w 0 13)
      some { T with qdesc := Map.set 0 T.qdesc (n - 0x40) q, qdescErr := Map.erase T.qdescErr (n - 0x40) }
  else if n = 0x89 then some (if bits w 8 1 = 1 then { T with cqLost := false } else T)
  else if crKnown n then some T
  else none

/-- Register n is a queue descriptor with an uncorrectable error (R136). -/
def Tile.descBad (T : Tile) (n : Nat) : Bool := decide (0x40 ≤ n) && decide (n < 0x80) && Map.get false T.qdescErr (n - 0x40)

/-- CRR (R167); of a queue descriptor with an uncorrectable error it raises UE_LOCAL, with the register's number (R136; log entry 85). -/
def execCrr (t : TileId) (x : RegNo) (n : BitVec 12) (s : State) : Host.Outcome State Fault Refusal :=
  lift (fun m => m.act t.val fun T => T.issue t.val [x.val] fun T =>
    if T.descBad n.toNat then
      let r := T.raiseAt .ueLocal (n.setWidth 64)
      (r.1, r.2 ++ [.count Reg.TILE_UE_COUNT 1, .evt Reg.TILE_EVT_UE_SEEN])
    else match crRead m t.val T n.toNat with
    | none => T.raiseAt .illegal (encCr x.val 0 n.toNat)
    | some v => ((T.setX x.val v).advance, if n.toNat = 0x8A then [.free] else [])) s

/-- CRW (R167). -/
def execCrw (t : TileId) (x : RegNo) (n : BitVec 12) (s : State) : Host.Outcome State Fault Refusal :=
  lift (fun m => m.act t.val fun T => T.issue t.val [x.val] fun T =>
    match crWrite T n.toNat (T.getX x.val) with
    | none => T.raiseAt .illegal (encCr x.val 1 n.toNat)
    | some T' => (T'.advance, [])) s

end Sys2Proof.Machine
end

