-- ==== Sys2Proof/Machine/Loader.lean ====
section
/-! DEFINITION. The loading service (R250 to R252, R339 to R374, R541): manifests, shards and their application, program commands,
overflow feeding, removal, and the chain relay. -/
namespace Sys2Proof.Machine

/-! ### Patches (R252, R352) -/

/-- The value of a patched 64-bit remote address. -/
def patchRemote (r : Reloc) (v : Nat) : Nat := r.remote v

/-- The bytes of a list from `at_` on replaced. -/
def setBytes (l : List Byte) (at_ : Nat) (bs : List Byte) : List Byte := l.take at_ ++ bs ++ l.drop (at_ + bs.length)

/-- A patch of lines: `off` is its place in the bytes. -/
def patchLine (r : Reloc) (place : Nat) (kind off : Nat) (l : List Byte) : List Byte :=
  match kind with
  | 1 => setBytes l off (leBytes 8 (r.remote (leAt l off 8)))
  | 3 => setBytes l off (leBytes 2 (r.tile (leAt l off 2)))
  | 4 => setBytes l off (leBytes 1 place)
  | _ => l
def patchLen (kind : Nat) : Nat := if kind = 1 then 8 else if kind = 3 then 2 else 1

/-- Field A of a LIMM word says which 16 bits of the value its immediate gives (R163). -/
def limmPart (w : Nat) : Nat := bits w 16 5 % 4
/-- Four LIMM words patched together: the remote address that their immediates build. -/
def patchLimm (r : Reloc) (ws : List Nat) : List Nat :=
  let v := (ws.map fun w => bits w 0 16 * 2 ^ (16 * limmPart w)).foldl (· + ·) 0
  let u := r.remote v
  ws.map fun w => w - bits w 0 16 + bits u (16 * limmPart w) 16
/-- A patch of code words: `off` is its place in the words. -/
def patchCode (r : Reloc) (place : Nat) (kind off : Nat) (l : List Nat) : List Nat :=
  match kind with
  | 2 => l.take off ++ patchLimm r ((l.drop off).take 4) ++ l.drop (off + 4)
  | 4 => l.take off ++ ((l.drop off).take 1).map (fun w => w - bits w 0 8 + place) ++ l.drop (off + 1)
  | _ => l

def parsePatch (tile : Nat) (b : List Byte) : Option Patch :=
  let k := leAt b 0 1
  let sp := leAt b 1 1
  if 1 ≤ k ∧ k ≤ 4 ∧ sp < 2 ∧ zeroAt b 2 2 ∧ (k = 4 ∨ (k = 2 ↔ sp = 1)) then some ⟨tile, k, sp, leAt b 4 4⟩ else none

/-! ### What a load knows of itself -/

def Part.modLoad (P : Part) (f : Load → Load) : Part := { P with loadOp := P.loadOp.map f }
def Part.hop (P : Part) : Nat := P.getR Reg.RELAY_CFG_HOP
def Part.loadManifest (P : Part) (L : Load) : Option Manifest := (P.place L.place.val).manifest
def Part.loadHeader (P : Part) (L : Load) : ImgHeader := ((P.place L.place.val).header).getD {}
/-- The relocation of the image being loaded (R251). -/
def Part.loadReloc (P : Part) (L : Load) : Reloc := (P.loadHeader L).reloc (P.place L.place.val).target
/-- A shard is for this module; a shard is for a hop below that is still in the forward set (R361, R365). -/
def Part.ownShard (P : Part) (e : ShardEnt) : Bool := e.hops.getLsbD P.hop
def Load.forwards (L : Load) (e : ShardEnt) : Bool := L.forward.any fun h => e.hops.getLsbD h
/-- Own shards, by index. -/
def Part.ownIdx (P : Part) (mf : Manifest) : List Nat :=
  ((List.range mf.shards.length).zip mf.shards).filterMap fun x => if P.ownShard x.2 then some x.1 else none
/-- Shards that the load takes at all. -/
def Part.takenIdx (P : Part) (L : Load) (mf : Manifest) : List Nat :=
  ((List.range mf.shards.length).zip mf.shards).filterMap fun x => if P.ownShard x.2 || L.forwards x.2 then some x.1 else none
/-- The part of the shard store that the load may use (R355). -/
def Mach.storeRoom (m : Mach) (p : Nat) : Nat :=
  if (m.part p).confidential then 2 ^ 26
  else 2 ^ 30 - 2 ^ 26 * (m.sealedParts.filter fun q => (m.part q).confidential).length
/-- Bytes of the store that loads of STANDARD partitions, or a CONFIDENTIAL partition's own load, hold. -/
def Part.storeHeld (P : Part) : Nat :=
  match P.loadOp with
  | none => 0
  | some L =>
    let mf := P.loadManifest L
    let len := fun (i : Nat) => ((mf.bind fun f => f.shards[i]?).map fun e => e.len).getD 0
    ((L.keptShards.map fun e => e.2.length) ++ L.inFlight.map len).foldl (· + ·) 0
/-- Bytes of the store that the overflow shards of resident images hold: rows that wait for slots, and shards asked for (R369). -/
def Part.ovfHeld (P : Part) : Nat :=
  (P.residentPlaces.map fun e =>
    let len := fun (i : Nat) => ((e.2.manifest.bind fun f => f.shards[i]?).map fun s => s.len).getD 0
    ((e.2.ovfRows.map fun w => w.2.2.length) ++ e.2.ovfAsked.map len).foldl (· + ·) 0).foldl (· + ·) 0
/-- Bytes of the store that a partition holds. -/
def Part.storeBytes (P : Part) : Nat := P.storeHeld + P.ovfHeld
def Mach.storeUsed (m : Mach) (p : Nat) : Nat :=
  if (m.part p).confidential then (m.part p).storeBytes
  else ((partIds.filter fun q => !(m.part q).confidential).map fun q => (m.part q).storeBytes).foldl (· + ·) 0

/-! ### Reads from a host (R355, R366, R393) -/

/-- The port that supplies shard `i`: even and odd indices with both ports named, else the one that is named and not down. -/
def Mach.shardPort (m : Mach) (p i : Nat) : Option PortId :=
  let P := m.part p
  let u0 := P.flagR Reg.LOAD_SRC_SRC_PE0 && (m.hostPort 0).up
  let u1 := P.flagR Reg.LOAD_SRC_SRC_PE1 && (m.hostPort 1).up
  if u0 && u1 then some (Fin.ofNat 2 i) else if u0 then some 0 else if u1 then some 1 else none
/-- The read of shard `i`: at the image base of its port plus its offset, or its envelope's (R393). -/
def Mach.readShard (m : Mach) (p : PartId) (i : Nat) (e : ShardEnt) : List Out :=
  match m.shardPort p.val i with
  | none => []
  | some port =>
    let P := m.part p.val
    let base := 64 * P.getR (Reg.IMAGE_BASE_LO_BASE port.val) + 2 ^ 32 * P.getR (Reg.IMAGE_BASE_HI_BASE port.val)
    if P.confidential then [.hostRead (some p) port (BitVec.ofNat 64 (base + e.off + 64 * (i + 1))) (e.len + 32)]
    else [.hostRead (some p) port (BitVec.ofNat 64 (base + e.off)) e.len]

def Mach.send (m : Mach) (os : List Out) : Mach := { m with out := m.out ++ os }

/-- Relay messages (R362), by TYPE: 1 MANIFEST, 2 SHARD, 3 ACK, 4 NACK, 5 FAIL, 6 HELD, 7 RESUME, 8 DROP. -/
def Part.relayUp (P : Part) (type index arg : Nat) : List Out :=
  if P.hop = 0 then [] else [.relay (Fin.ofNat 32 (P.getR Reg.RELAY_CFG_UP_PORT)) type index arg]
def Part.relayDown (P : Part) (type index arg : Nat) : List Out :=
  if P.flagR Reg.RELAY_CFG_DOWN_EN then [.relay (Fin.ofNat 32 (P.getR Reg.RELAY_CFG_DOWN_PORT)) type index arg] else []

/-! ### Failures of a shard (R364, R365) -/

/-- The place of the manifest among the shards, as R393 numbers it: its read counts as a shard's (R395). -/
def manifestIx : Nat := 0xFFFFFFFF
/-- A shard, or the manifest, asked for again. -/
def Mach.askAgain (m : Mach) (p : PartId) (L : Load) (i up reason : Nat) : List Out :=
  let P := m.part p.val
  if i = manifestIx then P.askManifest p
  else match (P.loadManifest L).bind fun f => f.shards[i]? with
    | some e => if P.fromUp then P.relayUp up i reason else m.readShard p i e
    | none => []

/-- One failure of a shard: it is read or asked for again, and the eighth holds the load. -/
def Mach.shardFailed (m : Mach) (p : PartId) (i reason : Nat) : Mach :=
  match (m.part p.val).loadOp with
  | none => m
  | some L =>
    let n := Map.get 0 L.failures i + 1
    let P0 := m.part p.val
    let again := m.askAgain p L i 4 reason
    let read := !P0.fromUp && i != manifestIx && !L.inFlight.contains i
    m.onPart p fun c P =>
      let P1 := (P.modLoad fun L => { L with failures := Map.set 0 L.failures i n }).cnt Reg.LOAD_RETRY_COUNT_RETRIES 1
      let r := P1.loadEvt c Reg.LOAD_EVT_SHARD_RETRY
      if n < 8 then (r.1.modLoad fun L => { L with inFlight := if read then L.inFlight ++ [i] else L.inFlight }, r.2 ++ again)
      else
        let Q := (((r.1.modLoad fun L => { L with held := true, failedShard := some i, inFlight := L.inFlight.erase i }).setR
          Reg.LOAD_STATUS_STATE 4).setR Reg.LOAD_STATUS_REASON 0x0D).setR Reg.LOAD_FAIL_SHARD_INDEX i
        let q := ((Q.setR Reg.LOAD_FAIL_HOP P0.hop).setR Reg.LOAD_FAIL_HOP_ATTEMPTS 8).loadEvt c Reg.LOAD_EVT_FAILED
        (q.1, r.2 ++ q.2 ++ P0.relayUp 5 i (P0.hop * 16 + 8) ++ P0.relayDown 6 i 0)

/-! ### The order of R345, as shards are applied -/

/-- Kinds seen: 0 an OVERFLOW shard, 1 a per-tile shard, 2 + 2 t CODE or LINES of tile t, 3 + 2 t OUTLIER of tile t. -/
def orderOk (seen : List Nat) (h : Shard) : Bool :=
  let ovf := bits h.flags 1 1 == 1
  (ovf || !seen.contains 0)
    && match h.kind with
      | 2 => !seen.contains 1
      | 8 => !seen.contains 1
      | 9 => !seen.contains 1
      | 10 => !seen.contains 1
      | 7 => !seen.contains (2 + 2 * h.tile)
      | 5 => ovf || !seen.contains (3 + 2 * h.tile)
      | _ => true
def seenOf (h : Shard) : List Nat :=
  if h.kind = 5 ∧ bits h.flags 1 1 = 1 then [0]
  else match h.kind with
    | 3 => [1, 2 + 2 * h.tile]
    | 4 => [1, 2 + 2 * h.tile]
    | 5 => [1]
    | 6 => [1, 3 + 2 * h.tile]
    | 7 => [1]
    | _ => []

/-! ### Header and tables (R349, R356, R360, R373) -/

/-- What applying a shard came to. -/
inductive Applied where
  | done (m : Mach)
  | wait (m : Mach)
  | fail (reason : Nat)

/-- The resident place beside which a load runs. -/
def Part.resident1 (P : Part) : Option (Nat × Place) := P.residentPlaces.head?

/-- The HEADER shard (R348): the checks that R373 makes at the header. -/
def Mach.applyHeader (m : Mach) (p : PartId) (L : Load) (bs : List Byte) : Applied :=
  let P := m.part p.val
  match parseHeader bs with
  | none => .fail 0x03
  | some h =>
    let tgt := if P.flagR Reg.LOAD_ORIGIN_ORIGIN_SET then P.getR Reg.LOAD_ORIGIN else h.origin
    let mine := m.palletsOf p.val
    let fits := match h.rect tgt with
      | some ps => ps.all fun i => mine.contains i
      | none => false
    let others := P.residentPlaces
    let mf := P.loadManifest L
    if !fits then .fail 0x07
    else if h.overflow && (P.flagR Reg.LOAD_SRC_SRC_UP || (mf.any fun f => f.hopCount != 1)) then .fail 0x10
    else if !L.registerOnly && h.overflow && !others.isEmpty then .fail 0x10
    else if !L.registerOnly && decide (2 ≤ others.length) then .fail 0x08
    else if !L.registerOnly && others.any (fun e => e.2.header.any fun g => g.overflow) then .fail 0x10
    else if !L.registerOnly && others.any (fun e => e.2.header.any fun g => !h.companions.contains g.imageId) then .fail 0x0B
    else
      let used := P.residentPlaces.flatMap fun e => e.2.soloPage.toList ++ e.2.jointPage.toList
      let cur := P.entryPage.toList
      let free := [(0 : Fin 3), 1, 2].filter fun g => !(if others.isEmpty then used else cur).contains g
      let joint := if others.isEmpty then none else free[0]?
      let solo := if others.isEmpty then free[0]? else free[1]?
      let img := (mf.map fun f => f.imageId).getD 0
      .done (m.modPart p.val fun P => P.modPlace L.place.val fun pl => { pl with
        header := some ({ h with imageId := img }.relocated (h.reloc tgt)), target := tgt, soloPage := solo, jointPage := joint
        tiles := [], leafMap := [], steerMap := [], leafDigest := 0, hotArrs := [], poolArrs := [], ovf := [], ovfNext := 0, ovfAsked := []
        ovfRows := [] })

/-- The first staging bank of a tile: the lowest of four consecutive banks of STAGE_BANKS (R357). -/
def stageBank (sb : BitVec 24) : Option Nat :=
  (List.range 21).find? fun b => [0, 1, 2, 3].all fun i => sb.getLsbD (b + i)

/-- The bank profiles and selections that an image asks for. -/
def Load.selections (L : Load) (pl : Place) : List (Fld × Nat) :=
  L.profiles ++ pl.tiles.map fun x => (Reg.TILE_PROF x.tile, x.prof)

/-- The rules of R373 that the tile table decides. -/
def Mach.tableRule (m : Mach) (p : PartId) (L : Load) : Option Nat :=
  let P := m.part p.val
  let pl := P.place L.place.val
  let others := P.residentPlaces
  let resUse := fun (t : Nat) => others.flatMap fun e => e.2.tiles.filter fun x => x.tile == t
  let Q : Part := { P with regs := P.regs.withStaged (L.selections pl) }
  firstRule
    [(0x08, pl.tiles.any fun x => (List.range 64).any fun a => x.arrUse.getLsbD a && ((m.tile x.tile).arr a).content != .empty),
     (0x09, pl.tiles.any fun x => x.codeWords != 0 &&
        (decide (x.codeBase < 1024) || decide (16384 < x.codeBase + x.codeWords)
          || (resUse x.tile).any fun y => y.codeWords != 0 && decide (x.codeBase < y.codeBase + y.codeWords)
            && decide (y.codeBase < x.codeBase + x.codeWords))),
     (0x0A, pl.tiles.any fun x => x.arrUse != 0 &&
        match stageBank x.stageBanks with
        | none => true
        | some b => [0, 1, 2, 3].any fun i => Q.bankPort x.tile (b + i) != 2
            || (resUse x.tile).any fun y => y.bankUse.getLsbD (b + i)),
     (0x0B, !others.isEmpty && (L.selections pl).any fun x => P.getR x.1 != x.2)]

/-- Before the first per-tile shard: removals have ended and parked pallets are up (R463), the tables are checked, and with no
other version resident they wait for a boundary; then the arrays of ARR_USE go to STANDBY. -/
def Mach.tablesStep (m : Mach) (p : PartId) (L : Load) : Applied :=
  let P := m.part p.val
  let pl := P.place L.place.val
  let ps := ((P.loadHeader L).rect pl.target).getD []
  if P.places.any (fun e => e.2.state == .removing) then .wait m
  else if ps.any fun i => (m.pallet i).parked then .wait (m.unpark ps)
  else match m.tableRule p L with
    | some r => .fail r
    | none =>
      if P.residentPlaces.isEmpty then
        .wait (m.modPart p.val fun P => (P.modLoad fun L => { L with profiles := L.selections pl, tablesDue := true }).setR
          Reg.LOAD_STATUS_STATE 3)
      else .done (m.modPart p.val fun P => P.modLoad fun L => { L with tablesDone := true })

/-- The arrays of the image's ARR_USE are moved to STANDBY (R356, step 4). -/
def Mach.standby (m : Mach) (p : PartId) (L : Load) : Mach :=
  ((m.part p.val).place L.place.val).tiles.foldl (fun m x => m.modTile x.tile fun T =>
    (List.range 64).foldl (fun T a => if x.arrUse.getLsbD a && (T.arr a).power == .off then
      T.modArr a fun A => { A with power := .standby } else T) T) m

/-! ### Shards of the whole image -/

/-- TILE_TABLE (R347, R349): every tile of the image lies in its rectangle. -/
def Mach.applyTable (m : Mach) (p : PartId) (L : Load) (h : Shard) : Applied :=
  let P := m.part p.val
  let r := P.loadReloc L
  let first := leAt h.param 0 4
  let body := if first = 0 then h.payload.drop 192 else h.payload
  let ents := (chunksOf 24 (body.length / 24) body).map (parseTileEnt r)
  let bytesOk := first != 0 || (decide (192 ≤ h.payload.length) && (h.payload.take 192).all fun b => bankByteOk b.toNat)
  let ps := ((P.loadHeader L).rect (P.place L.place.val).target).getD []
  if body.length % 24 ≠ 0 ∨ (ents.any fun e => e.any fun x => !ps.contains (palletOf x.tile)) ∨ !bytesOk ∨ first ≠ (P.place L.place.val).tiles.length ∨ ents.any (·.isNone) then .fail 0x03
  else
    let es := ents.filterMap id
    .done (m.modPart p.val fun P =>
      let P := if first = 0 then P.modLoad fun L => { L with profiles := profileFields h.payload } else P
      P.modPlace L.place.val fun pl => { pl with tiles := pl.tiles ++ es })

/-- The payload of a map is whole entries whose two reserved bytes are zero (R353); KV_SCALE holds two FP32 scales for each layer and
KV head (R347). -/
def mapOk (h : Shard) (layers kvHeads : Nat) : Bool :=
  if h.kind = 9 then h.payload.length == 8 * layers * kvHeads
  else h.payload.length % 8 == 0 && (chunksOf 8 (h.payload.length / 8) h.payload).all fun b => zeroAt b 2 2

/-- LEAF_MAP, KV_SCALE and STEER_MAP (R347, R353, R541). -/
def Mach.applyMap (m : Mach) (p : PartId) (L : Load) (h : Shard) (bs : List Byte) : Applied :=
  let r := (m.part p.val).loadReloc L
  let H := (m.part p.val).loadHeader L
  if !mapOk h H.layers H.kvHeads then .fail 0x03
  else .done (m.modPart p.val fun P => P.modPlace L.place.val fun pl =>
    let first := leAt h.param 0 4
    let note := fun (pl : Place) => { pl with leafDigest := pl.leafDigest * 2 ^ (8 * bs.length) + leNat bs }
    if h.kind = 8 then note { pl with leafMap := parseMap r first pl.leafMap h.payload }
    else if h.kind = 9 then note pl
    else { pl with steerMap := parseMap r first pl.steerMap h.payload })

/-! ### Per-tile shards -/

/-- PATCH (R352): its records wait for the content they name. -/
def Mach.applyPatch (m : Mach) (p : PartId) (t : Nat) (h : Shard) : Applied :=
  let rs := (chunksOf 8 (h.payload.length / 8) h.payload).map (parsePatch t)
  if h.payload.length % 8 ≠ 0 ∨ rs.any (·.isNone) then .fail 0x03
  else .done (m.modPart p.val fun P => P.modLoad fun L => { L with patches := L.patches ++ rs.filterMap id })

/-- Words written to the instruction store, whose check bits are good. -/
def Tile.writeWords (T : Tile) (i : Nat) (ws : List Nat) : Tile :=
  ((List.range ws.length).zip ws).foldl (fun T x =>
    (T.writeStore (i + x.1) (BitVec.ofNat 32 x.2)).clearStoreErr (i + x.1)) T

/-- Payload words. -/
def payloadWords (bs : List Byte) : List Nat := (chunksOf 4 (bs.length / 4) bs).map leNat

/-- CODE (R350, R351): body words, or an entry page of this place; a joint entry for another companion is not used. -/
def Mach.applyCode (m : Mach) (p : PartId) (L : Load) (t : Nat) (h : Shard) : Applied :=
  let P := m.part p.val
  let pl := P.place L.place.val
  let base := leAt h.param 0 2
  let page := leAt h.param 2 1
  let n := h.payload.length / 4
  let mine := L.patches.filter fun q => q.tile == t && q.space == 1 && decide (base ≤ q.addr)
    && decide (q.addr + (if q.kind = 2 then 4 else 1) ≤ base + n)
  let ws := mine.foldl (fun ws q => patchCode (P.loadReloc L) L.place.val q.kind (q.addr - base) ws) (payloadWords h.payload)
  let ent := pl.tiles.find? fun x => x.tile == t
  let other := (P.resident1.bind fun e => e.2.header).map fun g => g.imageId
  let used := (m.modPart p.val fun P => P.modLoad fun L => { L with patches := L.patches.filter fun q => !mine.contains q })
  let inBody := ent.any fun x => decide (x.codeBase ≤ base) && decide (base + n ≤ x.codeBase + x.codeWords)
  if h.payload.length % 4 ≠ 0 ∨ 4 < page ∨ (page = 0 ∧ !inBody) ∨ (page ≠ 0 ∧ 1024 < base + n) then .fail 0x03
  else if page = 0 then .done (used.modTile t fun T => T.writeWords (base - 1024) ws)
  else
    let g := if page = 1 then pl.soloPage
      else if (P.loadHeader L).companions[page - 2]? = other ∧ other.isSome then pl.jointPage else none
    match g with
    | some g => .done (used.modTile t fun T => T.writeWords (15360 + 1024 * g.val + base) ws)
    | none => .done used

/-- LINES (R347, R351): whole lines, with their tags where FULL is set; none in a resident version's banks (R360). -/
def Mach.applyLines (m : Mach) (p : PartId) (L : Load) (t : Nat) (h : Shard) : Applied :=
  let P := m.part p.val
  let addr := leAt h.param 0 4
  let n := h.payload.length
  let mine := L.patches.filter fun q => q.tile == t && q.space == 0 && decide (addr ≤ q.addr)
    && decide (q.addr + patchLen q.kind ≤ addr + n)
  let bs := mine.foldl (fun bs q => patchLine (P.loadReloc L) L.place.val q.kind (q.addr - addr) bs) h.payload
  let busy := P.residentPlaces.any fun e => e.2.tiles.any fun x => x.tile == t && (banksOf addr n).any fun b => x.bankUse.getLsbD b
  if n = 0 ∨ n % 64 ≠ 0 ∨ addr % 64 ≠ 0 ∨ padSize < addr + n then .fail 0x03
  else if busy then .fail 0x0A
  else
    let m1 := m.modPart p.val fun P => P.modLoad fun L => { L with patches := L.patches.filter fun q => !mine.contains q }
    let full := bits h.flags 2 1 == 1
    .done (m1.modTile t fun T =>
      let T1 := T.storeLines (addr / 64) false (cutLines (n / 64) bs)
      if full then (linesOf addr n).foldl (fun T l => T.setTag l true) T1 else T1)

/-- The 32 B record of a loader's PROG (R63, R357). -/
def progRecord (mask : W64) (w8 : Bool) (ring : Nat) : Nat :=
  3 + 256 * (1 + 2 * b2n w8) + 2 ^ 16 * 0xFFFF + 2 ^ 32 * mask.toNat + 2 ^ 96 * ring + 2 ^ 128 * 15 + 2 ^ 160 * 64
    + 2 ^ 192 * (ring + 0x1E000)

/-- Rows of a run enter the ring while their slots are empty: 15 slots, filled as by S_FILL. -/
def Tile.fillRing (T : Tile) (ring m : Nat) : List (Nat × List Byte) → Tile × List (Nat × List Byte)
  | [] => (T, [])
  | x :: xs =>
    let addr := ring + x.1 % 15 * 256 * m
    let ls := linesOf addr (256 * m)
    if ls.any fun l => T.tagFull l then (T, x :: xs)
    else
      let T1 := T.storeLines (addr / 64) false (cutLines (4 * m) x.2)
      (ls.foldl (fun T l => T.setTag l true) T1).fillRing ring m xs

def maskCount (mask : W64) : Nat := (maskArrs mask.toNat).length

/-- A run's rows offered to its ring. -/
def Mach.feedRun (m : Mach) (r : ProgRun) : Mach × ProgRun :=
  let q := (m.tile r.tile).fillRing r.ring (maskCount r.mask) r.rows
  (m.setTile r.tile q.1, { r with rows := q.2 })

/-- The loader issues the PROG of a run, and counts it for the wear record (R84) as the controller starts it. -/
def Mach.issueProg (m : Mach) (r : ProgRun) : Mach × ProgRun :=
  let id := (m.tile r.tile).nextId
  (m.act r.tile fun T => (T.enqueueCmd .loader (progRecord r.mask r.w8 r.ring)).arrayKick ⟨m, r.tile⟩, { r with cmd := id })

/-- ARRAY (R347, R357): FIRST_ROW 0 starts a run, once a ring and the controller are free. -/
def Mach.applyArray (m : Mach) (p : PartId) (L : Load) (t : Nat) (h : Shard) : Applied :=
  let P := m.part p.val
  let pl := P.place L.place.val
  let mask : W64 := BitVec.ofNat 64 (leAt h.param 0 8)
  let n := maskCount mask
  let first := leAt h.param 10 2
  let rows := leAt h.param 12 2
  let rowBytes := (List.range rows).map fun i => (first + i, (h.payload.drop (256 * n * i)).take (256 * n))
  let use := (pl.tiles.find? fun x => x.tile == t).map (·.arrUse)
  let hot := if bits h.flags 0 1 = 1 then (maskArrs mask.toNat).map fun a => (t, a) else []
  let run := L.runs.find? fun r => r.tile == t && r.mask == mask
  let bad := n == 0 || decide (32 < n) || decide (1 < leAt h.param 8 1) || rows % 16 != 0 || rows == 0 || decide (128 < rows)
    || first % 16 != 0 || decide (512 < first + rows) || h.payload.length != 256 * n * rows
    || use.all fun u => (mask &&& ~~~u) != 0
  let note := fun (m : Mach) (rs : List ProgRun) => m.modPart p.val fun P =>
    (P.modLoad fun L => { L with
      runs := rs, programmed := L.programmed ++ (maskArrs mask.toNat).map fun a => (t, a) }).modPlace L.place.val fun pl =>
        { pl with hotArrs := pl.hotArrs ++ hot }
  if bad then .fail 0x03
  else match run with
    | some r =>
      if r.kept.length ≠ first then .fail 0x03
      else
        let q := m.feedRun { r with rows := r.rows ++ rowBytes, kept := r.kept ++ rowBytes }
        .done (note q.1 (L.runs.map fun s => if s = r then q.2 else s))
    | none =>
      let taken := (L.runs.filter fun r => r.tile == t).map (·.ring)
      let base := 65536 * (((pl.tiles.find? fun x => x.tile == t).bind fun x => stageBank x.stageBanks).getD 0)
      if first ≠ 0 then .fail 0x03
      else match [base, base + 0x20000].find? fun g => !taken.contains g with
        | none => .wait m
        | some g =>
          if 8 ≤ (m.tile t).aq.length then .wait m
          else
            let q := m.issueProg ⟨t, mask, leAt h.param 8 1 == 1, g, 0, rowBytes, false, false, rowBytes⟩
            let q := q.1.feedRun q.2
            .done (note q.1 (L.runs ++ [q.2]))

/-- One list of an OUTLIER shard written at its LIST_LINE with the entries of its array's stuck cells, and its directory word. -/
def Tile.putList (T : Tile) (a line n : Nat) (bs : List Byte) : Tile :=
  let T1 := T.storeLines line false (cutLines 16 (bs ++ leBytes (1024 - bs.length) 0))
  let T2 : Tile := { T1 with grout := Map.set 0 T1.grout a (BitVec.ofNat 32 (2 ^ 16 * line + n)) }
  match T2.appendList a n (T2.arr a).stuck with
  | some T3 => T3
  | none => T2

/-- OUTLIER (R347, R359, R360), once the programs of the tile have ended. -/
def Mach.applyOutlier (m : Mach) (p : PartId) (L : Load) (t : Nat) (h : Shard) : Applied :=
  let P := m.part p.val
  let use := (((P.place L.place.val).tiles.find? fun x => x.tile == t).map (·.arrUse)).getD 0
  let dirs := payloadWords (h.payload.take 256)
  let cnt := fun (a : Nat) => bits (dirs.getD a 0) 0 9
  let total := ((List.range 64).map cnt).foldl (· + ·) 0
  if h.payload.length ≠ 256 + 4 * total ∨ (dirs.any fun d => bits d 31 1 != 0 || bits d 9 7 != 0 || decide (256 < bits d 0 9)) then
    .fail 0x03
  else if (List.range 64).any fun a => decide (256 - P.getR Reg.ARR_CFG_PATCH_MAX < cnt a) then .fail 0x0C
  else if L.runs.any fun r => r.tile == t && r.kept.length != 512 then .fail 0x03
  else if L.runs.any fun r => r.tile == t then .wait m
  else
    .done (m.modTile t fun T => ((List.range 64).foldl (fun (x : Tile × List Byte) a =>
      let bs := x.2.take (4 * cnt a)
      (if use.getLsbD a then x.1.putList a (bits (dirs.getD a 0) 16 15) (cnt a) bs else x.1, x.2.drop (4 * cnt a)))
      (T, h.payload.drop 256)).1)

/-! ### Taking shards in order -/

/-- A shard that names the module applied (R356). -/
def Mach.applyShard (m : Mach) (p : PartId) (L : Load) (i kind : Nat) (bs : List Byte) : Applied :=
  let P := m.part p.val
  match parseShard i kind bs with
  | none => .fail 0x03
  | some h =>
    let t := (P.loadReloc L).tile h.tile
    let perTile := decide (3 ≤ kind) && decide (kind ≤ 7)
    if !orderOk L.seen h || (perTile && !((P.place L.place.val).tiles.any fun x => x.tile == t)) then .fail 0x03
    else if kind = 1 then m.applyHeader p L bs
    else if kind = 2 then m.applyTable p L h
    else if !perTile then m.applyMap p L h bs
    else if kind = 5 ∧ bits h.flags 1 1 = 1 then
      if (P.loadHeader L).overflow then
        let pool := (maskArrs (leAt h.param 0 8)).map fun a => (t, a)
        .done (m.modPart p.val fun P => P.modPlace L.place.val fun pl => { pl with ovf := pl.ovf ++ [i], poolArrs := pl.poolArrs ++ pool })
      else .fail 0x03
    else
      match (if L.tablesDone then Applied.done m else m.tablesStep p L) with
      | .wait m => .wait m
      | .fail r => .fail r
      | .done m =>
        let L := ((m.part p.val).loadOp).getD L
        let m := if L.seen.contains 1 then m else m.standby p L
        match kind with
        | 3 => m.applyCode p L t h
        | 4 => m.applyLines p L t h
        | 5 => m.applyArray p L t h
        | 6 => m.applyOutlier p L t h
        | _ => m.applyPatch p t h

/-- Kept shards that need no longer be kept (R363). -/
def Part.releaseShards (P : Part) : Part :=
  match P.loadOp with
  | none => P
  | some L =>
    match P.loadManifest L with
    | none => P
    | some mf =>
      P.modLoad fun L => { L with keptShards := L.keptShards.filter fun e =>
        match mf.shards[e.1]? with
        | none => false
        | some s => (P.ownShard s && !L.applied.contains e.1) || (L.forwards s && !L.acked.contains e.1) }

/-- Every own shard is applied, no run is left, and what is forwarded has been acknowledged. -/
def Part.loadEnds (P : Part) (L : Load) (mf : Manifest) : Bool :=
  (P.ownIdx mf).all (fun i => L.applied.contains i) && L.runs.isEmpty
    && ((List.range mf.shards.length).zip mf.shards).all fun x => !L.forwards x.2 || L.acked.contains x.1

/-- The end of a REGISTER, and the staging of a load's residency (R339, R356): a run of ARRAY shards that does not end at row 511 breaks
R345, a patch that found no content R352. -/
def Mach.endLoad (m : Mach) (p : PartId) (L : Load) (mf : Manifest) : Mach :=
  if L.registerOnly then
    if (m.part p.val).ownIdx mf |>.head?.any fun i => L.applied.contains i then
      m.modPart p.val fun P =>
        ({ P.modPlace L.place.val fun pl => { pl with state := .registered } with loadOp := none }).setR Reg.LOAD_STATUS_STATE 0
    else m
  else if L.staged || L.held then m
  else if ((m.part p.val).ownIdx mf).all (fun i => L.applied.contains i) && L.runs.any fun r => r.kept.length != 512 then m.failLoad p 0x03
  else if !(m.part p.val).loadEnds L mf then m
  else if !L.patches.isEmpty then m.failLoad p 0x03
  else (m.powerStaged p L.place.val).modPart p.val fun P => (P.modLoad fun L => { L with staged := true }).setR Reg.LOAD_STATUS_STATE 3

/-- Own shards are applied in manifest order while the next one is held and nothing keeps it back. -/
def Mach.pump (m : Mach) (p : PartId) : Nat → Mach
  | 0 => m
  | fuel + 1 =>
    match (m.part p.val).loadOp with
    | none => m
    | some L =>
      match (m.part p.val).loadManifest L with
      | none => m
      | some mf =>
        if L.held || L.tablesDue || L.staged then m
        else match ((m.part p.val).ownIdx mf).find? fun i => !L.applied.contains i with
          | none => m.endLoad p L mf
          | some i =>
            match Map.find L.keptShards i, mf.shards[i]? with
            | some bs, some e =>
              match m.applyShard p L i e.kind.toNat bs with
              | .wait m1 => m1
              | .fail r => m.failLoad p r
              | .done m1 =>
                let h := (parseShard i e.kind.toNat bs).getD ⟨0, 0, 0, [], []⟩
                let m2 := m1.modPart p.val fun P =>
                  ((P.modLoad fun L => { L with applied := L.applied ++ [i], seen := L.seen ++ seenOf h }).setR
                    Reg.LOAD_DONE_SHARDS_DONE (L.applied.length + 1)).releaseShards
                (match (m2.part p.val).loadOp with
                  | some L => m2.endLoad p L mf
                  | none => m2).pump p fuel
            | _, _ => m

/-- Shards sent on to the module below, in manifest order (R361, R365). -/
def Mach.forwardShard (m : Mach) (p : PartId) (i : Nat) : Mach :=
  let P := m.part p.val
  match P.loadOp with
  | none => m
  | some L =>
    match (P.loadManifest L).bind fun f => f.shards[i]? with
    | some e => if L.forwards e && !(L.stopAt.any fun n => decide (n ≤ i)) then m.send (P.relayDown 2 i 0) else m
    | none => m

/-- A shard has arrived whole with its digest: it is kept, acknowledged, forwarded and applied in its turn. -/
def Mach.takeShard (m : Mach) (p : PartId) (i : Nat) (bs : List Byte) : Mach :=
  let m1 := m.modPart p.val fun P => P.modLoad fun L => { L with
    inFlight := L.inFlight.erase i, keptShards := Map.insert L.keptShards i bs, next := Nat.max L.next (i + 1) }
  ((m1.send ((m.part p.val).relayUp 3 i 0)).forwardShard p i).pump p 4096

/-! ### Runs of program commands (R357, R358) -/

/-- A loader's PROG has ended: the run is over, or is programmed again from the kept rows, or its arrays are tested. -/
def Mach.progEnded (m : Mach) (p : PartId) (t id st : Nat) : Mach :=
  match (m.part p.val).loadOp with
  | none => m
  | some L =>
    match L.runs.find? fun r => r.tile == t && r.cmd == id with
    | none => m
    | some r =>
      let bad := (maskArrs r.mask.toNat).filter fun a => ((m.tile t).arr a).content == .failed
      let put := fun (m : Mach) (rs : List ProgRun) => m.modPart p.val fun P => P.modLoad fun L => { L with runs := rs }
      if bad.isEmpty && st == stOk then put m (L.runs.filter (· != r))
      else if !r.again then
        let m1 := m.loaderErase t (maskArrs r.mask.toNat)
        let q := m1.issueProg { r with again := true, rows := r.kept }
        let q := q.1.feedRun q.2
        put q.1 (L.runs.map fun s => if s = r then q.2 else s)
      else
        let m1 := bad.foldl (fun m a => m.startTest (.array t a)) m
        put m1 (L.runs.map fun s => if s = r then { r with testing := true } else s)

/-- A run whose arrays were under test ends once they hold their levels; one whose test found nothing is programmed again, once the
queue has room (R50). -/
def Mach.retryRun (m : Mach) (r : ProgRun) : Mach × Option ProgRun :=
  let arrs := maskArrs r.mask.toNat
  if !r.testing then let q := m.feedRun r; (q.1, some q.2)
  else if arrs.any fun a => m.tests.contains (.array r.tile a) then (m, some r)
  else if m.replaces.any fun x => x.moves.contains r.tile then (m, some r)
  else if 8 ≤ (m.tile r.tile).aq.length then (m, some r)
  else if arrs.all fun a => ((m.tile r.tile).arr a).content != .failed then (m, none)
  else
    let m1 := m.loaderErase r.tile arrs
    let q := m1.issueProg { r with testing := false, rows := r.kept }
    let q := q.1.feedRun q.2
    (q.1, some q.2)

/-- Every run of a load goes on as far as it can, then the shards that waited for one. -/
def Mach.feedLoad (m : Mach) (p : PartId) : Mach :=
  match (m.part p.val).loadOp with
  | none => m
  | some L =>
    let q := L.runs.foldl (fun (x : Mach × List ProgRun) r =>
      let y := x.1.retryRun r
      (y.1, x.2 ++ y.2.toList)) (m, [])
    (q.1.modPart p.val fun P => P.modLoad fun L => { L with runs := q.2 }).pump p 4096

/-! ### Overflow feeding (R369) -/

/-- Rows of overflow shards enter ring 0 of their tiles as slots empty, in their order. -/
def Mach.feedOverflow (m : Mach) (p : PartId) : Mach :=
  ((m.part p.val).residentPlaces.filter fun e => e.2.header.any fun h => h.overflow).foldl (fun m e =>
    let q := e.2.ovfRows.foldl (fun (x : Mach × List (Nat × Nat × List Byte)) w =>
      let T := x.1.tile w.1
      let base := 65536 * (((e.2.tiles.find? fun y => y.tile == w.1).bind fun y => stageBank y.stageBanks).getD 0)
      let r := T.fillRing base (w.2.2.length / 256) [w.2]
      if x.2.any (fun v => v.1 == w.1) || !r.2.isEmpty then (x.1, x.2 ++ [w])
      else (x.1.setTile w.1 r.1, x.2)) (m, [])
    q.1.modPart p.val fun P => P.modPlace e.1 fun pl => { pl with ovfRows := q.2 }) m

/-- The next OVERFLOW shard of a resident image read. -/
def Mach.askOverflow (m : Mach) (p : PartId) : Mach :=
  match (m.part p.val).residentPlaces.find? fun e => decide (e.2.ovfNext < e.2.ovf.length) with
  | none => m
  | some e =>
    let i := e.2.ovf.getD e.2.ovfNext 0
    match e.2.manifest.bind fun f => f.shards[i]? with
    | none => m
    | some s =>
      if m.storeRoom p.val < m.storeUsed p.val + s.len then m
      else (m.modPart p.val fun P => P.modPlace e.1 fun pl =>
        { pl with ovfNext := pl.ovfNext + 1, ovfAsked := pl.ovfAsked ++ [i] }).send (m.readShard p i s)

/-- An OVERFLOW shard that arrives: its rows wait for slots, or it is read again. -/
def Mach.takeOverflow (m : Mach) (p : PartId) (i : Nat) (bs : List Byte) (ok : Bool) : Mach :=
  match (m.part p.val).residentPlaces.find? fun e => e.2.ovfAsked.contains i with
  | none => m
  | some e =>
    match e.2.manifest.bind fun f => f.shards[i]?, parseShard i 5 bs with
    | some s, some h =>
      if !ok then m.send (m.readShard p i s)
      else
        let t := ((e.2.header.getD {}).reloc e.2.target).tile h.tile
        let n := maskCount (BitVec.ofNat 64 (leAt h.param 0 8))
        let first := leAt h.param 10 2
        let rows := (List.range (leAt h.param 12 2)).map fun k => (t, first + k, (h.payload.drop (256 * n * k)).take (256 * n))
        (m.modPart p.val fun P => P.modPlace e.1 fun pl =>
          { pl with ovfAsked := pl.ovfAsked.erase i, ovfRows := pl.ovfRows ++ rows }).feedOverflow p
    | some s, none => m.send (m.readShard p i s)
    | none, _ => m

/-! ### The commands -/

/-- REGISTER (R339, R340, R373). -/
def execRegister (w : Writer) (p : PartId) (place : PlaceNo) (s : State) : Host.Outcome State Fault Refusal :=
  lift (fun m => if m.reaches w p.val then m.startLoad p place true false else m) s
/-- LOAD (R356). -/
def execLoad (w : Writer) (p : PartId) (place : PlaceNo) (s : State) : Host.Outcome State Fault Refusal :=
  lift (fun m =>
    if m.reaches w p.val then m.startLoad p place false ((m.part p.val).getR Reg.WVER_CFG_WVER_STATE == 2) else m) s

/-- ABORT (R365, R368): of the load's place; at a held module it drops its hop from the chain. -/
def execAbort (w : Writer) (p : PartId) (place : PlaceNo) (s : State) : Host.Outcome State Fault Refusal :=
  lift (fun m =>
    match (m.part p.val).loadOp with
    | some L =>
      if m.reaches w p.val && L.place == place then
        let m1 := if L.held then m.send ((m.part p.val).relayUp 8 0 (m.part p.val).hop) else m
        m1.failLoad p 0x0F
      else m
    | none => m) s

/-- RESUME (R365). -/
def execResume (w : Writer) (p : PartId) (s : State) : Host.Outcome State Fault Refusal :=
  lift (fun m =>
    match (m.part p.val).loadOp with
    | some L =>
      if !m.reaches w p.val || !L.held then m
      else
        let i := L.failedShard.getD 0
        (m.modPart p.val fun P => (P.modLoad fun L => { L with
            held := false, failedShard := none, failures := Map.set 0 L.failures i 0
            inFlight := if P.fromUp = false ∧ i ≠ manifestIx then L.inFlight ++ [i] else L.inFlight }).setR
          Reg.LOAD_STATUS_STATE (if i = manifestIx then 1 else 2)).send (m.askAgain p L i 7 0)
    | none => m) s

/-- MANIFEST_VERIFIED (R341 to R343, R356, R361, R373): a manifest that the load has taken. Where it fails verification the place is
EMPTY again, and keeps no earlier manifest either. -/
def Mach.manifestDone (m : Mach) (p : PartId) (bytes : List Byte) (sigOk : Bool) (digest : BitVec 512) : Mach :=
  let P := m.part p.val
  match P.loadOp with
  | none => m
  | some L =>
    if P.getR Reg.LOAD_STATUS_STATE ≠ 1 ∨ (P.fromUp && !L.relayed) then m
    else
      let old := P.loadManifest L
      let clear := fun (m : Mach) (r : Nat) =>
        (if old.isNone || r = 3 || r = 4 then m.modPart p.val fun P => P.modPlace L.place.val fun pl => { pl with manifest := none } else m).failLoad p r
      match (if P.getR Reg.MANIFEST_LEN = bytes.length then parseManifest bytes digest else none) with
      | none => clear m 0x03
      | some mf =>
        let offs := mf.shards.map (·.off)
        let rising := ((offs.zip (offs.drop 1)).all fun x => decide (x.1 < x.2))
        if P.confidential && !rising then clear m 0x03
        else if !sigOk || !(P.keys.image.any fun e => e.2.any fun k => k.id == mf.keyId) then clear m 0x04
        else if old.any fun o => o.digest != digest then clear m 0x05
        else if mf.hopCount ≤ P.hop then clear m 0x06
        else
          let below := if P.flagR Reg.RELAY_CFG_DOWN_EN then (List.range mf.hopCount).filter fun h => decide (P.hop < h) else []
          let m1 := m.modPart p.val fun P =>
            let Q := (P.modPlace L.place.val fun pl => { pl with manifest := some mf }).modLoad fun L => { L with forward := below }
            (Q.setR Reg.LOAD_TOTAL_SHARDS_TOTAL (P.ownIdx mf).length).setR Reg.LOAD_STATUS_STATE 2
          if below.isEmpty then m1 else m1.send (P.relayDown 1 0 0)

/-- MANIFEST_VERIFIED (R356). In a CONFIDENTIAL partition the manifest comes in its envelope; one that fails it is read again (R393 to
R395). -/
def execManifestVerified (p : PartId) (manifest : ManifestRead) (sigOk : Bool) (digest : BitVec 512) (s : State) :
    Host.Outcome State Fault Refusal :=
  lift (fun m =>
    let P := m.part p.val
    match P.loadOp with
    | some L =>
      if P.getR Reg.LOAD_STATUS_STATE ≠ 1 ∨ P.fromUp ∨ L.relayed then m.manifestDone p manifest.bytes sigOk digest
      else
        let o := P.openEnv manifest.env 0x06 L.place.val (P.keys.loads * 2 ^ 32 + manifestIx) (P.getR Reg.MANIFEST_LEN)
        let m1 := m.setPart p.val o.1
        if o.2 then m1.manifestDone p manifest.bytes sigOk digest else m1.shardFailed p manifestIx 1
    | none => m) s

/-- The next shard is asked for, once the store has room (R355). A REGISTER takes the header alone. -/
def Mach.askShard (m : Mach) (p : PartId) : Mach :=
  let P := m.part p.val
  match P.loadOp with
  | none => m.askOverflow p
  | some L =>
    match P.loadManifest L with
    | none => m
    | some mf =>
      let want := if L.registerOnly then (P.ownIdx mf).take 1 else P.takenIdx L mf
      if P.getR Reg.LOAD_STATUS_STATE = 1 ∨ L.held ∨ P.fromUp then m
      else match want.find? fun i => decide (L.next ≤ i) with
        | none => m
        | some i =>
          match mf.shards[i]? with
          | none => m
          | some e =>
            if (m.shardPort p.val i).isNone ∨ m.storeRoom p.val < m.storeUsed p.val + e.len then m
            else (m.modPart p.val fun P => P.modLoad fun L => { L with next := i + 1, inFlight := L.inFlight ++ [i] }).send
              (m.readShard p i e)

/-- LOADER_SHARD_FETCH (R355): what waits goes on, and the next shard is taken from its source. -/
def execLoaderShardFetch (p : PartId) (s : State) : Host.Outcome State Fault Refusal :=
  lift (fun m => ((m.feedLoad p).feedOverflow p).askShard p) s

/-- SHARD_ARRIVAL (R344, R356, R364, R393, R394). -/
def execShardArrival (p : PartId) (index : Nat) (shard : List Byte) (digestOk : Bool) (env : Option Envelope) (s : State) :
    Host.Outcome State Fault Refusal :=
  lift (fun m =>
    let P := m.part p.val
    let seq := P.keys.loads * 2 ^ 32 + index
    match P.loadOp with
    | some L =>
      if !L.inFlight.contains index then m
      else
        let len := (((P.loadManifest L).bind fun f => f.shards[index]?).map fun e => e.len).getD 0
        let o := P.openEnv env 0x07 L.place.val seq len
        let m1 := m.setPart p.val o.1
        if o.2 && digestOk && shard.length == len then m1.takeShard p index shard else m1.shardFailed p index 1
    | none =>
      let o := P.openEnv env 0x07 ((P.residentPlaces.find? fun e => e.2.ovfAsked.contains index).map (·.1) |>.getD 0) seq shard.length
      (m.setPart p.val o.1).takeOverflow p index shard (o.2 && digestOk)) s

/-- SHARD_MISSING_TIMEOUT (R364): while a HELD from upstream is in force the timers stand still. -/
def execShardMissingTimeout (p : PartId) (index : Nat) (s : State) : Host.Outcome State Fault Refusal :=
  lift (fun m =>
    let P := m.part p.val
    match P.loadOp with
    | some L =>
      let want := match P.loadManifest L with
        | some mf => (P.takenIdx L mf).contains index
        | none => false
      if P.getR Reg.LOAD_STATUS_STATE = 1 ∨ L.held ∨ L.heldUp ∨ !want ∨ (Map.find L.keptShards index).isSome
          ∨ L.applied.contains index ∨ (!P.fromUp ∧ !L.inFlight.contains index) then m
      else m.shardFailed p index 2
    | none => m) s

/-- REMOVAL_DONE (R367, R371): the place's arrays are erased and OFF, its code range and lines are released, and it becomes EMPTY. -/
def execRemovalDone (p : PartId) (place : PlaceNo) (s : State) : Host.Outcome State Fault Refusal :=
  lift (fun m =>
    let pl := (m.part p.val).place place.val
    if pl.state ≠ .removing then m
    else
      let m1 := (pl.tiles.foldl (fun m x =>
        let arrs := maskArrs x.arrUse.toNat
        (m.loaderErase x.tile arrs).modTile x.tile fun T => arrs.foldl (fun T a => T.modArr a Arr.switchedOff) T) m).releaseLines p
          place.val pl
      let m2 := m1.onPart p fun c P =>
        let P := P.modPlace place.val fun _ => {}
        ((if P.getR Reg.LOAD_STATUS_STATE = 6 then P.setR Reg.LOAD_STATUS_STATE 0 else P).loadEvt c Reg.LOAD_EVT_REMOVED)
      m2.powerArrays p.val) s

/-! ### The chain relay (R361 to R365) -/

/-- The partition whose load takes relay messages from upstream on a port, and the one that forwards on it. -/
def Mach.upPart (m : Mach) (l : LinkId) : Option PartId :=
  (List.finRange 16).find? fun p =>
    let P := m.part p.val
    P.loadOp.isSome && P.fromUp && P.getR Reg.RELAY_CFG_UP_PORT == l.val
def Mach.downPart (m : Mach) (l : LinkId) : Option PartId :=
  (List.finRange 16).find? fun p =>
    let P := m.part p.val
    P.loadOp.isSome && P.flagR Reg.RELAY_CFG_DOWN_EN && P.getR Reg.RELAY_CFG_DOWN_PORT == l.val

/-- RELAY_MANIFEST (R361): the module verifies it itself, which MANIFEST_VERIFIED reports. -/
def execRelayManifest (l : LinkId) (manifest : List Byte) (s : State) : Host.Outcome State Fault Refusal :=
  lift (fun m => match m.upPart l with
    | some p => if manifest.isEmpty then m else m.modPart p.val fun P => P.modLoad fun L => { L with relayed := true, heldUp := false }
    | none => m) s

/-- RELAY_SHARD (R363, R364). A shard for which the store has no room is not taken (R355). -/
def execRelayShard (l : LinkId) (index : Nat) (shard : List Byte) (digestOk : Bool) (s : State) :
    Host.Outcome State Fault Refusal :=
  lift (fun m => match m.upPart l with
    | none => m
    | some p =>
      let m1 := m.modPart p.val fun P => P.modLoad fun L => { L with heldUp := false }
      let P := m1.part p.val
      match P.loadOp with
      | none => m1
      | some L =>
        let len := (((P.loadManifest L).bind fun f => f.shards[index]?).map fun e => e.len).getD 0
        if P.getR Reg.LOAD_STATUS_STATE = 1 ∨ L.held then m1
        else if (Map.find L.keptShards index).isSome ∨ L.applied.contains index then m1.send (P.relayUp 3 index 0)
        else if m.storeRoom p.val < m.storeUsed p.val + len then m1
        else if digestOk && shard.length == len then m1.takeShard p index shard
        else m1.shardFailed p index 1) s

/-- RELAY_ACK (R363). -/
def execRelayAck (l : LinkId) (index : Nat) (s : State) : Host.Outcome State Fault Refusal :=
  lift (fun m => match m.downPart l with
    | some p => (m.modPart p.val fun P =>
        (P.modLoad fun L => { L with acked := if L.acked.contains index then L.acked else L.acked ++ [index] }).releaseShards).pump p 4096
    | none => m) s

/-- RELAY_NACK (R364): the shard is sent again from its kept copy. -/
def execRelayNack (l : LinkId) (index : Nat) (_reason : Byte) (s : State) : Host.Outcome State Fault Refusal :=
  lift (fun m => match m.downPart l with
    | some p => if (((m.part p.val).loadOp).any fun L => (Map.find L.keptShards index).isSome) then m.forwardShard p index else m
    | none => m) s

/-- RELAY_FAIL (R365, step 3). -/
def execRelayFail (l : LinkId) (index hop attempts : Nat) (s : State) : Host.Outcome State Fault Refusal :=
  lift (fun m => match m.downPart l with
    | some p => m.onPart p fun c P =>
        let Q := ((P.modLoad fun L => { L with stopAt := some index }).setR Reg.LOAD_FAIL_SHARD_INDEX index).setR Reg.LOAD_FAIL_HOP hop
        (Q.setR Reg.LOAD_FAIL_HOP_ATTEMPTS attempts).loadEvt c Reg.LOAD_EVT_RELAY_HELD
    | none => m) s

/-- RELAY_HELD (R364). -/
def execRelayHeld (l : LinkId) (_index : Nat) (s : State) : Host.Outcome State Fault Refusal :=
  lift (fun m => match m.upPart l with
    | some p => m.modPart p.val fun P => P.modLoad fun L => { L with heldUp := true }
    | none => m) s

/-- Kept shards that forwarding had stopped at, sent in order. -/
def Mach.forwardFrom (m : Mach) (p : PartId) (i : Nat) : Mach :=
  match (m.part p.val).loadOp with
  | none => m
  | some L => ((L.keptShards.map (·.1)).filter fun j => decide (i ≤ j) && !L.acked.contains j).foldl (fun m j => m.forwardShard p j) m

/-- RELAY_RESUME (R365): forwarding goes on at the held shard. -/
def execRelayResume (l : LinkId) (index : Nat) (s : State) : Host.Outcome State Fault Refusal :=
  lift (fun m => match m.downPart l with
    | some p => (m.modPart p.val fun P => P.modLoad fun L => { L with stopAt := none }).forwardFrom p index
    | none => m) s

/-- RELAY_DROP (R365): the hop and those below it leave the forward set. -/
def execRelayDrop (l : LinkId) (hop : Nat) (s : State) : Host.Outcome State Fault Refusal :=
  lift (fun m => match m.downPart l with
    | some p => (m.modPart p.val fun P => (P.modLoad fun L => { L with
        stopAt := none, forward := L.forward.filter fun h => decide (h < hop) }).releaseShards).pump p 4096
    | none => m) s

/-! ### ARRAY_CMD_COMPLETE (R52, R357) -/

/-- Commands of the loading service that a step has ended: (identity, status). -/
def loaderEnds (ss : List Sig) : List (Nat × Nat) :=
  ss.filterMap fun g => match g with
    | .loaderEnd id st => some (id, st)
    | _ => none

/-- ARRAY_CMD_COMPLETE (R52): the command completes, and a load that waits on it goes on. -/
def execArrayCmdComplete (t : TileId) (cmd : Nat) (phys : ArrPhys) (s : State) : Host.Outcome State Fault Refusal :=
  lift (fun m =>
    let r := (m.tile t.val).completeCmd ⟨m, t.val⟩ cmd phys
    let m1 := (m.setTile t.val r.1).sigs t.val r.2
    match m1.owner t.val with
    | none => m1
    | some p => (((loaderEnds r.2).foldl (fun m x => m.progEnded p t.val x.1 x.2) m1).feedLoad p).feedOverflow p) s

end Sys2Proof.Machine
end

