-- ==== Sys2Proof/Machine/HostPorts.lean ====
section
/-! DEFINITION. The host ports: ports that go down and come back, resets, and the enables of functions (R429, R483 to R485). -/
namespace Sys2Proof.Machine

/-- PEn_UP of SVC_STATUS and what the port holds. -/
def Mach.setPortUp (m : Mach) (port : PortId) (up : Bool) : Mach :=
  (m.modHostPort port.val fun h => { h with up := up }).setR
    (if port = 0 then Reg.SVC_STATUS_PE0_UP else Reg.SVC_STATUS_PE1_UP) (b2n up)

/-- Shards in flight from a port that has gone down are read again from the other (R366). -/
def Mach.rereadShards (before m : Mach) (port : PortId) : Mach :=
  (List.finRange 16).foldl (fun m p =>
    match (before.part p.val).loadOp with
    | none => m
    | some L =>
      (L.inFlight.filter fun i => before.shardPort p.val i == some port && (m.shardPort p.val i).isSome).foldl
        (fun m i => m.shardFailed p i 2) m) m

/-- A firmware fetch through the port ends with FETCH (R517). -/
def Mach.endFetch (m : Mach) (port : PortId) : Mach :=
  if (m.boot.fetching.any fun w => w.port == port) && m.boot.viaPldm.isNone then m.fwCheck none else m

/-- HOST_PORT_DOWN is written to the partitions that own rings on the other port. -/
def Mach.tellPortDown (m : Mach) (port : PortId) : Mach :=
  (List.finRange 16).foldl (fun m p =>
    if (m.part p.val).isSealed && (m.part p.val).getR Reg.SERVE_CFG_PORT != port.val then m.eventTo p 0x0108 port.val 0 else m) m

/-- A port goes down (R429): its lease lapses, and fetches through it end or move. -/
def Mach.portDown (m : Mach) (port : PortId) : Mach :=
  if !(m.hostPort port.val).up then m
  else
    let m1 := m.setPortUp port false
    let m2 := if m1.getR Reg.HOST_LEASE_HOLDER = port.val + 1 then m1.lapse else m1
    ((Mach.rereadShards m (m2.endFetch port) port).markLost).tellPortDown port

/-- HOST_PORT_DOWN (R429). -/
def execHostPortDown (port : PortId) (s : State) : Host.Outcome State Fault Refusal := lift (fun m => m.portDown port) s

/-- HOST_LINK_UP (R429): not while PERST holds the port in reset. -/
def execHostLinkUp (port : PortId) (s : State) : Host.Outcome State Fault Refusal :=
  lift (fun m =>
    if (m.hostPort port.val).perst || !m.boot.moduleUp then m else (m.setPortUp port true).takeUp m.cutOff) s

/-- The functions of a port return to their reset configuration state (R484). -/
def Mach.resetFuncs (m : Mach) (port : PortId) : Mach :=
  m.modHostPort port.val fun h => { h with vfEnable := false, numVfs := 0, funcs := [] }
/-- R484: the port goes down, its functions are reset, and RESET_PEn is set. -/
def Mach.resetPort (m : Mach) (port : PortId) : Mach :=
  (((m.portDown port).resetFuncs port).evt (if port = 0 then Reg.HOST_EVT_RESET_PE0 else Reg.HOST_EVT_RESET_PE1)).markLost

/-- A sideband level taken (R503): bit `b` of LEVEL. -/
def Mach.setLevel (m : Mach) (b : Nat) (on : Bool) : Mach :=
  let v := m.getR Reg.SB_STATUS_LEVEL
  m.setR Reg.SB_STATUS_LEVEL (if on then v ||| 2 ^ b else v - (v &&& 2 ^ b))
/-- The input is latched as chattering. -/
def Mach.chatters (m : Mach) (b : Nat) : Bool := (m.getR Reg.SB_STATUS_CHATTER).testBit b

/-- PERST as it acts on the port: a latched input counts as asserted (R504). -/
def Mach.setPerst (m : Mach) (port : PortId) (on : Bool) : Mach :=
  let was := (m.hostPort port.val).perst
  let m1 := m.modHostPort port.val fun h => { h with perst := on }
  if on && !was then m1.resetPort port else m1

/-- PERST_CHANGE (R484, R503). -/
def execPerstChange (port : PortId) (asserted : Bool) (s : State) : Host.Outcome State Fault Refusal :=
  lift (fun m => (m.setLevel port.val asserted).setPerst port (asserted || m.chatters port.val)) s

/-- PCIE_LINK_RESET (R484). -/
def execPcieLinkReset (port : PortId) (s : State) : Host.Outcome State Fault Refusal := lift (fun m => m.resetPort port) s

/-- FUNCTION_LEVEL_RESET (R483): the function is disabled until it is configured again. -/
def execFunctionLevelReset (f : Writer) (s : State) : Host.Outcome State Fault Refusal :=
  lift (fun m =>
    ((m.modHostPort f.port.val fun h => { h with funcs := Map.modify {} h.funcs f.func.val fun _ => { flr := true } }).evt
      (if f.port = 0 then Reg.HOST_EVT_FLR_PE0 else Reg.HOST_EVT_FLR_PE1)).markLost) s

/-- PCIE_CONFIG_WRITE (R479, R483): VF Enable and NumVFs belong to the PF's SR-IOV capability; NumVFs is at most 16. -/
def execPcieConfigWrite (f : Writer) (cfg : FuncCfg) (s : State) : Host.Outcome State Fault Refusal :=
  lift (fun m =>
    let was := m.cutOff
    let m1 := m.modHostPort f.port.val fun h =>
      let h1 := { h with funcs := Map.modify {} h.funcs f.func.val fun g =>
        { g with d0 := cfg.d0, busMaster := cfg.busMaster, flr := false } }
      if f.func = 0 then { h1 with vfEnable := cfg.vfEnable, numVfs := cfg.numVfs.val } else h1
    (m1.takeUp was).markLost) s

end Sys2Proof.Machine
end

