-- ==== Sys2Proof/Machine/Power.lean ====
section
/-! DEFINITION. Supply, clocks, throttle steps, temperature, coolant, telemetry and the sideband inputs (R439 to R477, R497, R498, R503,
R504). -/
namespace Sys2Proof.Machine

/-- What happens only in a powered module. -/
def Mach.whenUp (m : Mach) (f : Mach → Mach) : Mach := if m.boot.moduleUp then f m else m

/-- A quotient whose rounding the spec leaves open: exact, or one of the two neighbours. -/
def Mach.freeRound (m : Mach) (num den : Nat) : Nat :=
  if num % den = 0 then num / den else num / den + Config.freeValue m.ctr % 2
def Mach.nextFree (m : Mach) : Mach := { m with ctr := m.ctr + 1 }

/-! ### Feeds (R440 to R444, R447) -/

def feedUnit (feed : Nat) : W64 := unitCode 0x0D 0 0 0 feed 0xFFFF
def feedIds : List Nat := [0, 1]
/-- FEED_A or FEED_B. -/
def Mach.feedCode (m : Mach) (i : Nat) : Nat := if i = 0 then m.getR Reg.PWR_STATUS_FEED_A else m.getR Reg.PWR_STATUS_FEED_B

/-- The feeds the module draws from: those in range; else a withdrawn one that is in range; else every one between 10.5 V and
13.2 V. -/
def Mach.feedsInUse (m : Mach) : List Nat :=
  let good := feedIds.filter fun i => m.feedCode i == 1
  let held := feedIds.filter fun i => (m.feed i).withdrawn && decide (11000 ≤ (m.feed i).mv ∧ (m.feed i).mv ≤ 13200)
  if !good.isEmpty then good
  else if !held.isEmpty then held
  else feedIds.filter fun i => decide (10500 ≤ (m.feed i).mv ∧ (m.feed i).mv ≤ 13200)

/-- The cap less 500 W is below the sum of the shares (R443). -/
def Mach.cutNow (m : Mach) : Bool :=
  decide (m.getR Reg.MODULE_POWER_CAP - 500 < 50 * m.sumSealed Reg.PART_CFG_POWER_SHARE)
/-- SHARE_CUT is set when a supply cut begins (R443). -/
def Mach.noteCut (m : Mach) : Mach :=
  let m1 := { m with shareCut := m.cutNow }
  if m.cutNow && !m.shareCut then m1.evt Reg.PWR_EVT_SHARE_CUT else m1

/-- The power cap: the lower of 24 kW and 2,000 A at the lower voltage of the feeds in use (R442). -/
def Mach.setCap (m : Mach) : Mach :=
  match m.feedsInUse.map fun i => (m.feed i).mv with
  | [] => m
  | v :: vs => (m.setR Reg.MODULE_POWER_CAP (Nat.min 24000 (2 * vs.foldl Nat.min v))).noteCut

/-- Codes and shares follow from what is drawn from (R440, R441). -/
def Mach.settleFeeds (m : Mach) : Mach :=
  let used := m.feedsInUse
  let one := fun (m : Mach) (i : Nat) =>
    let F := m.feed i
    let on := used.contains i
    let code := if m.feedCode i = 1 then 1 else if F.withdrawn then 2 else if on then 3 else 0
    (m.setFeed (Fin.ofNat 2 i) code).modFeed i fun F => { F with share := if on then 100 / used.length else 0 }
  (feedIds.foldl one m).setCap

/-- Blades of a feed start their history anew after a connection event (R446). -/
def Mach.connectFeed (m : Mach) (feed : Nat) : Mach :=
  (List.range 8).foldl (fun m j =>
    let b := 8 * feed + j
    ({ m with blades := Map.set {} m.blades b {} }.setR (Reg.BLADE_BASE b) 0).setR (Reg.BLADE_R25 b) 0)
    (m.modFeed feed fun F => { F with withdrawn := false })

/-- A feed's voltage as seen now; a rise from below 1 V after at least 1 s is a connection event. -/
def Mach.noteMv (m : Mach) (feed mv : Nat) : Mach :=
  let F := m.feed feed
  if mv < 1000 then
    m.modFeed feed fun F => { F with mv := mv, belowSince := some (F.belowSince.getD m.timeUs) }
  else
    let m1 := m.modFeed feed fun F => { F with mv := mv, belowSince := none }
    if F.belowSince.any fun t => decide (t + 1000000 ≤ m.timeUs) then m1.connectFeed feed else m1

/-- A feed failover (R431): every SEALED partition is held until the next module beat while the input stage transfers, and
FEED_LOST is written. A handover that has not switched is abandoned (R428). -/
def Mach.feedFailover (m : Mach) (feed : Nat) : Mach :=
  let ps := m.sealedParts.filter fun p => !m.feedHold.contains p
  let m1 := ps.foldl (fun m p => m.modPart p fun P => { P with service := P.service + 1 }) { m with feedHold := m.feedHold ++ ps }
  (((m1.evt Reg.SVC_EVT_FEED_FAILOVER).eventAll 0x010A feed 0).noteHitch 0).failHandover

/-- FEED_OUT_OF_RANGE (R441): below 11.0 V or above 13.2 V. -/
def Mach.feedOut (m : Mach) (feed : FeedId) (mv : Nat) : Mach :=
  if 11000 ≤ mv ∧ mv ≤ 13200 then m
  else
    let drawn := m.feedsInUse.contains feed.val
    let m1 := m.noteMv feed.val mv
    let m2 := (if m1.feedCode feed.val = 1 then m1.setFeed feed 0 else m1).settleFeeds
    let other := 1 - feed.val
    if drawn && m2.feedsInUse == [other] && (m2.feedCode other == 1 || (m2.feed other).withdrawn) then m2.feedFailover feed.val else m2

/-- FEED_OUT_OF_RANGE (R441). -/
def execFeedOutOfRange (feed : FeedId) (mv : Nat) (s : State) : Host.Outcome State Fault Refusal :=
  lift (fun m => m.whenUp fun m => m.feedOut feed mv) s

/-- FEED_RESTORED (R441): in range for 100 ms, at a voltage between 11.4 V and 12.6 V that the command does not give. A feed
withdrawn for cracking returns only after a connection event (R447). -/
def execFeedRestored (feed : FeedId) (s : State) : Host.Outcome State Fault Refusal :=
  lift (fun m => m.whenUp fun m =>
    if m.feedCode feed.val = 1 then m
    else
      let m1 := (m.noteMv feed.val (11400 + Config.freeValue m.ctr % 1201)).nextFree
      if (m1.feed feed.val).withdrawn then m1.settleFeeds
      else
        ((m1.setFeed feed 1).modFeed feed.val fun F => { F with low := false }).settleFeeds.eventAll 0x010B feed.val 0) s

/-- FEED_LOW_ALERT (R441): lost, or low and in use, for 60 s. -/
def execFeedLowAlert (feed : FeedId) (s : State) : Host.Outcome State Fault Refusal :=
  lift (fun m => m.whenUp fun m =>
    if m.feedCode feed.val = 1 || (m.feed feed.val).low then m
    else (m.modFeed feed.val fun F => { F with low := true }).alert 6 (feedUnit feed.val)) s

/-! ### Power-down (R4, R436, R442, R466) -/

/-- Register fields kept across power cycles: counters, spares and bond map, blade resistances and the security version floor. -/
def keptKey (k : Nat) : Bool :=
  let b := k / 2097152
  let off := k % 2097152 / 32
  (b == 5 && decide (0x18 ≤ off)) || (b == 6 && decide (0x40 ≤ off ∧ off < 0x80)) || (b == 2 && off == 0x018)

/-- Both walls lose power: what the wear record keeps is left. -/
def Mach.powerDown (m : Mach) (trip : Bool) : Mach :=
  { ctr := m.ctr, out := m.out, blades := m.blades, regs := m.regs.filter fun e => keptKey e.1
    wear := { m.wear with tripped := m.wear.tripped || trip }, boot := { tampered := m.boot.tampered } }

/-- NO_FEED_TIMEOUT (R442). -/
def execNoFeedTimeout (s : State) : Host.Outcome State Fault Refusal :=
  lift (fun m => m.whenUp fun m => if m.feedsInUse.isEmpty then m.powerDown false else m) s
/-- THERMAL_TRIP (R466). -/
def execThermalTrip (s : State) : Host.Outcome State Fault Refusal := lift (fun m => m.whenUp fun m => m.powerDown true) s

/-- The records of R445 written to non-volatile storage. -/
def Mach.saveRecords (m : Mach) : Mach := { m with wear := { m.wear with saved := m.wear.saved + 1 } }.evt Reg.PWR_EVT_PWR_WARN

/-- PWR_FAIL_WARN (R445): one write per assertion; a latched input is ignored (R504). -/
def execPwrFailWarn (asserted : Bool) (s : State) : Host.Outcome State Fault Refusal :=
  lift (fun m => m.whenUp fun m =>
    let was := m.flagR Reg.PWR_STATUS_PWR_WARN_IN
    let m1 := (m.setLevel 4 asserted).setR Reg.PWR_STATUS_PWR_WARN_IN (b2n asserted)
    if asserted && !was && !m.chatters 4 then m1.saveRecords else m1) s

/-! ### Blades (R446, R447) -/

/-- r25 (R446), every step an FP32 operation, in units of 2^(-64) Ohm with what lies below them dropped; none at 100 A or less. -/
def bladeR25 (volts amps temp : W32) : Option Nat :=
  if (FVal.decode fmt32 0x42C80000).lt (FVal.decode fmt32 amps.toNat) then
    let corr := fmt32.add 0x3F800000 (fmt32.mul 0x3B7F9724 (fmt32.sub temp.toNat 0x41C80000))
    match FVal.decode fmt32 (fmt32.div (fmt32.div volts.toNat amps.toNat) corr) with
    | .fin false m e => some (m * 2 ^ (e + 64).toNat / 2 ^ (-(e + 64)).toNat)
    | _ => none
  else none

/-- The value of a sorted list in its middle: of 1,000 values, the mean of the two. -/
def median (l : List Nat) : Nat :=
  let s := l.mergeSort fun a b => decide (a ≤ b)
  (s.getD ((s.length - 1) / 2) 0 + s.getD (s.length / 2) 0) / 2

/-- One value more (R446). -/
def Blade.add (B : Blade) (r : Nat) : Blade :=
  let samples := (B.samples ++ [r]).drop (B.samples.length + 1 - 10)
  let first := if B.base = 0 then B.first ++ [r] else []
  let full := decide (1000 ≤ first.length)
  { samples := samples
    first := if full then [] else first
    base := if full then median first else B.base
    n := (B.n + 1) % 10
    means := if B.n = 9 then (B.means ++ [samples.foldl (· + ·) 0 / samples.length]).drop (B.means.length + 1 - 3) else B.means }

/-- A level, a part of BASE or micro-ohms, has held for three consecutive means (R447). -/
def Blade.atLevel (B : Blade) (percent micro : Nat) : Bool :=
  B.means.length == 3 && B.means.all fun x =>
    (B.base != 0 && decide (percent * B.base ≤ 100 * x)) || decide (micro * 2 ^ 64 ≤ 1000000 * x)

/-- A feed is withdrawn: the load moves to the other where that is in range. -/
def Mach.withdrawFeed (m : Mach) (feed : FeedId) : Mach :=
  if (m.feed feed.val).withdrawn then m
  else
    let m1 := ((m.modFeed feed.val fun F => { F with withdrawn := true }).setFeed feed 2).settleFeeds
    if m.feedCode (1 - feed.val) = 1 then m1.feedFailover feed.val else m1

/-- BLADE_RES_SAMPLE (R446, R447): the warn level is reported through PLDM when it is reached. -/
def execBladeResSample (blade : Fin 16) (volts amps temp : W32) (s : State) : Host.Outcome State Fault Refusal :=
  lift (fun m => m.whenUp fun m =>
    match bladeR25 volts amps temp with
    | none => m
    | some r =>
      let b := blade.val
      let old := Map.get {} m.blades b
      let B := old.add r
      let mean := B.samples.foldl (· + ·) 0
      let m1 := { m with blades := Map.set {} m.blades b B }
      let m2 := ((m1.setR (Reg.BLADE_R25 b) (Nat.min 65535 (m.freeRound (10000000 * mean) (2 ^ 64 * B.samples.length)))).setR (Reg.BLADE_BASE b)
        (Nat.min 65535 (m.freeRound (10000000 * B.base) (2 ^ 64)))).nextFree
      let tell := if old.atLevel 125 120 then [] else [Out.pldm (200 + b) (some (m2.getR (Reg.BLADE_R25 b)))]
      let m3 := if B.atLevel 125 120 then { m2.evt Reg.PWR_EVT_CRACK_WARN with out := m2.out ++ tell } else m2
      if B.atLevel 160 150 && !(m3.feed (b / 8)).withdrawn then (m3.evt Reg.PWR_EVT_CRACK_WITHDRAW).withdrawFeed (Fin.ofNat 2 (b / 8))
      else m3) s

/-! ### Rails (R448, R450) -/

end Sys2Proof.Machine

namespace Sys2Proof

/-- Place of a rail in the wear record's phase counts. -/
def Rail.num : Rail → Nat
  | .vmortar => 0 | .vsram => 1 | .vcore => 2 | .varrayB => 3 | .varrayA => 4 | .pll => 5
/-- The rails of the arrays. -/
def Rail.isArray : Rail → Bool
  | .varrayA => true
  | .varrayB => true
  | _ => false

end Sys2Proof

namespace Sys2Proof.Machine

/-- A tile without power: it runs nothing, and its operations are gone. -/
def Tile.dark (T : Tile) : Tile :=
  { T with run := .stopped, member := false, vq := [], kq := [], kIssued := [], aq := [], mq := [], sb := [], park := [], watch := [] }

/-- The link ports of a pallet go DOWN (R495). -/
def Mach.linksDown (m : Mach) (i : Nat) : Mach :=
  ((List.range 32).filter fun l => linkPallet l == i).foldl (fun m l => m.setR (Reg.AL_STATUS_STATE l) 0) m

/-- A pallet's regulation is lost (R450): R422 applies, its tiles are dark, its routers leave transit service. A pallet of no SEALED
partition is marked OUT, and no request is lost. -/
def Mach.regulationLost (m : Mach) (i : Nat) : Mach :=
  let m1 := if (m.sealedOwner i).isSome then m.placementLost i (palletUnit i) else m.setR (Reg.SPARE_STATE i) 2
  let m2 := m1.modPallet i fun q => { q with dark := true, powered := false }
  let m3 := ((tilesOfPallet i).filter fun t => m2.tiles.any fun e => e.1 == t).foldl (fun m t => m.modTile t Tile.dark) m2
  (m3.linksDown i).changeRoutes [⟨Fin.ofNat 2 (i / 60), Fin.ofNat 180 (12 * (i % 60 / 4)), Fin.ofNat 164 (41 * (i % 4))⟩]

/-- Every array of a pallet becomes suspect and runs its self-test. -/
def Mach.suspectPallet (m : Mach) (i : Nat) : Mach :=
  (tilesOfPallet i).foldl (fun m t =>
    (List.range 64).foldl (fun m a => (m.modTile t fun T => T.modArr a fun A => { A with suspect := true }).startTest (.array t a)) m) m

/-- RAIL_FAULT (R450). A rail that is off is not regulated (R448). -/
def execRailFault (pal : PalletId) (rail : Rail) (us : Nat) (s : State) : Host.Outcome State Fault Refusal :=
  lift (fun m => m.whenUp fun m =>
    let q := m.pallet pal.val
    if !q.powered || (q.parked && rail != .vmortar && rail != .pll) then m
    else
      let m1 := m.evt Reg.PWR_EVT_RAIL_FAULT
      if rail.isArray && decide (us ≤ 50) then m1.suspectPallet pal.val else m1.regulationLost pal.val) s

/-- REGULATOR_PHASE_FAIL (R448): counted in the wear record. -/
def execRegulatorPhaseFail (pal : PalletId) (rail : Rail) (s : State) : Host.Outcome State Fault Refusal :=
  lift (fun m => m.whenUp fun m => { m with wear := { m.wear with
    phaseFails := Map.modify 0 m.wear.phaseFails (8 * pal.val + rail.num) (· + 1) } }) s

/-! ### Reference and SYNC_IN (R451, R452, R497, R498) -/

/-- REF_SWITCH (R451). -/
def execRefSwitch (s : State) : Host.Outcome State Fault Refusal :=
  lift (fun m => m.whenUp fun m => (m.setR Reg.PWR_STATUS_REF_STANDBY 1).evt Reg.PWR_EVT_REF_EVENT) s

/-- The module steers no more, and holds the last steered frequency (R452). -/
def Mach.freeRun (m : Mach) : Mach :=
  if !m.syncValid then { m with syncLost := m.syncLost.map fun _ => none }
  else (((({ m with syncValid := false, syncStepped := false, syncLost := some none } : Mach).setR Reg.PWR_STATUS_REF_FREERUN 1).setR
    Reg.PWR_STATUS_SYNC_LOCKED 0).evt Reg.PWR_EVT_REF_EVENT)

/-- No loss of SYNC_IN is pending: none has been, or it has been valid again for 1 s (R452). -/
def Mach.mayResume (m : Mach) : Bool :=
  match m.syncLost with
  | none => true
  | some t => t.any fun t => decide (t + 1000000 ≤ m.timeUs)

/-- SYNC_IN_EDGE (R452, R498): `phase` is how far after the nearest millisecond of module time the deglitched edge fell, in reference
cycles. While no partition is SEALED, module time is stepped once, so that its millisecond falls on the edge less 1 us and less
SYNC_DELAY_NS. -/
def execSyncInEdge (phase : Int) (locked : Bool) (s : State) : Host.Outcome State Fault Refusal :=
  lift (fun m => m.whenUp fun m =>
    if m.flagR Reg.CHAIN_CFG_SYNC_SOURCE || m.chatters 2 then m
    else if !m.mayResume then { m.setLevel 2 true with syncLost := m.syncLost.map fun t => some (t.getD m.timeUs) }
    else
      let m1 := ((({ m with syncValid := true, syncLost := none } : Mach).setLevel 2 true).setR Reg.PWR_STATUS_REF_FREERUN 0).setR
        Reg.PWR_STATUS_SYNC_LOCKED (b2n locked)
      if m.syncStepped || !m.sealedParts.isEmpty then m1
      else { m1 with syncStepped := true
                     timeAdj := m1.timeAdj + (100 + ((m.getR Reg.CHAIN_CFG_SYNC_DELAY_NS / 10 : Nat) : Int) - phase) }) s

/-- SYNC_IN_ABSENT (R452). -/
def execSyncInAbsent (s : State) : Host.Outcome State Fault Refusal := lift (fun m => m.whenUp Mach.freeRun) s

/-! ### Budgets (R443, R459) -/

def Part.draw (P : Part) : Nat := P.getR Reg.PART_POWER_DRAW
/-- A partition's POWER_SHARE, W. -/
def Part.fullShare (P : Part) : Nat := 50 * P.getR Reg.PART_CFG_POWER_SHARE
/-- A partition's share: reduced under a supply cut. -/
def Mach.share (m : Mach) (p : Nat) : Nat :=
  let full := (m.part p).fullShare
  if m.cutNow then full * (m.getR Reg.MODULE_POWER_CAP - 500) / (50 * m.sumSealed Reg.PART_CFG_POWER_SHARE) else full

def Mach.standardParts (m : Mach) : List Nat := m.sealedParts.filter fun p => !(m.part p).confidential
def sumOf (l : List Nat) (f : Nat → Nat) : Nat := (l.map f).foldl (· + ·) 0

/-- BUDGET_DECISION (R459): loans end, headroom is pooled, and the pool is lent in proportion to the shares of those that draw their
budget. -/
def Mach.budgetDecision (m : Mach) : Mach :=
  let lending := m.flagR Reg.PWR_CFG_LEND_EN && !m.cutNow
  let std := if lending then m.standardParts else []
  let lenders := std.filter fun p => decide (100 * (m.part p).draw < 80 * m.share p)
  let takers := std.filter fun p => decide ((m.part p).getR Reg.PART_POWER_BUDGET ≤ (m.part p).draw)
  let spare := m.getR Reg.MODULE_POWER_CAP - 1500 - 50 * m.sumSealed Reg.PART_CFG_POWER_SHARE
  let pool := sumOf lenders (fun p => m.share p - (m.part p).draw) + spare
  let all := sumOf takers m.share
  m.sealedParts.foldl (fun n p =>
    let loan := if takers.contains p ∧ all ≠ 0 then pool * m.share p / all else 0
    let lent := if lenders.contains p ∧ !takers.isEmpty then m.share p - (m.part p).draw else 0
    (n.modPart p fun P => { P with loan := loan, lent := lent }).setBudget p (m.share p + loan)) m.noteCut

/-- BUDGET_DECISION (R459). -/
def execBudgetDecision (s : State) : Host.Outcome State Fault Refusal := lift (fun m => m.whenUp Mach.budgetDecision) s

/-- LOAN_RECALL (R459): a lender draws 90 % of its share, and what it lent leaves the loans in their proportion. -/
def execLoanRecall (p : PartId) (s : State) : Host.Outcome State Fault Refusal :=
  lift (fun m => m.whenUp fun m =>
    let P := m.part p.val
    if P.lent = 0 ∨ 100 * P.draw < 90 * m.share p.val then m
    else
      let total := sumOf m.sealedParts fun q => (m.part q).loan
      let back := fun (q : Nat) => if total = 0 then 0 else (Nat.min total P.lent * (m.part q).loan + total - 1) / total
      let n := m.modPart p.val fun P => { P with lent := 0 }
      (m.sealedParts.filter fun q => (m.part q).loan != 0).foldl (fun n q =>
        (n.modPart q fun Q => { Q with loan := Q.loan - back q }).setBudget q ((m.part q).getR Reg.PART_POWER_BUDGET - back q)) n) s

/-! ### Steps (R457 to R461) -/

/-- A rise of a step request counts in THROTTLES. -/
def Part.rise (P : Part) : Part := P.cnt Reg.PART_THROTTLE_THROTTLES 1

/-- The power step of a partition after one more millisecond at a draw (R460), and whether it fell. -/
def Part.powerStep (P : Part) (draw : Nat) : Part × Bool :=
  let budget := P.getR Reg.PART_POWER_BUDGET
  let P := P.setR Reg.PART_POWER_DRAW (Nat.min draw 65535)
  let over_ := decide (budget < draw)
  let at1 := if over_ && P.powerReq == 1 then P.overAt1 + 1 else 0
  let below := if 100 * draw < 90 * budget then P.belowMs + 1 else 0
  if over_ && P.powerReq == 0 then (({ P with powerReq := 1, overAt1 := 0, belowMs := 0 }.rise).evt Reg.PART_PWR_EVT_POWER_STEP, false)
  else if over_ && decide (10 ≤ at1) then
    (({ P with powerReq := 2, overAt1 := 0, belowMs := 0 }.rise).evt Reg.PART_PWR_EVT_POWER_STEP, false)
  else if 100 ≤ below then ({ P with powerReq := P.powerReq - 1, overAt1 := 0, belowMs := 0 }, true)
  else ({ P with overAt1 := at1, belowMs := below }, false)

/-- A partition's step asks are marked to take effect at STEP_CHANGE. -/
def Mach.askStep (m : Mach) (i : Nat) : Mach := m.modPallet i fun q => { q with pendingStep := true }

/-- POWER_STEP_DECISION (R460): `draws` is each partition's draw over the last 1 ms. A fall also ends the fast-limit step of its
pallets (R461). -/
def execPowerStepDecision (draws : List Nat) (s : State) : Host.Outcome State Fault Refusal :=
  lift (fun m => m.whenUp fun m =>
    m.sealedParts.foldl (fun n p =>
      let r := (n.part p).powerStep (draws.getD p 0)
      let n1 := n.setPart p r.1
      let n2 := if r.2 then (n1.palletsOf p).foldl (fun n i => n.modPallet i fun q => { q with fast := false }) n1 else n1
      (n2.palletsOf p).foldl Mach.askStep n2) m) s

def Mach.wall (m : Mach) (w : Nat) : Wall := Map.get {} m.walls w
def Mach.inEmergency (m : Mach) (w : Nat) : Bool :=
  if w = 0 then m.flagR Reg.PWR_STATUS_EMERG_W0 else m.flagR Reg.PWR_STATUS_EMERG_W1

/-- The step a pallet of a partition is asked to run at: the highest request (R458). -/
def Mach.stepAsked (m : Mach) (p i : Nat) : Nat :=
  let q := m.pallet i
  let power := Nat.max (m.part p).powerReq (b2n q.fast)
  Nat.max (Nat.max power q.thermal) (if m.inEmergency (i / 60) then 2 else 0)

/-- FAST_LIMIT (R461): a rise where the pallet was not yet asked to run at step 1. -/
def execFastLimit (pal : PalletId) (s : State) : Host.Outcome State Fault Refusal :=
  lift (fun m => m.whenUp fun m =>
    let q := m.pallet pal.val
    match q.owner with
    | some p =>
      if q.fast then m
      else
        let m1 := m.modPallet pal.val fun q => { q with fast := true, pendingStep := true }
        if m.stepAsked p.val pal.val = 0 then m1.modPart p.val fun P => P.rise.evt Reg.PART_PWR_EVT_POWER_STEP else m1
    | none => m) s

/-- STEP_CHANGE (R458): the asked steps take effect at one eligible boundary of the partition. -/
def execStepChange (p : PartId) (s : State) : Host.Outcome State Fault Refusal :=
  lift (fun m => m.whenUp fun m =>
    (m.palletsOf p.val).foldl (fun n i =>
      (n.modPallet i fun q => { q with pendingStep := false }).setR (Reg.PALLET_STEP i)
        (if (m.pallet i).parked then 0 else m.stepAsked p.val i)) m) s

/-! ### Temperature (R464, R465) -/

/-- A wall enters emergency (R465). -/
def Mach.enterEmergency (m : Mach) (w : Nat) : Mach :=
  let ps := (List.range 60).map (60 * w + ·)
  let m1 := (m.setR (if w = 0 then Reg.PWR_STATUS_EMERG_W0 else Reg.PWR_STATUS_EMERG_W1) 1).evt Reg.PWR_EVT_EMERGENCY
  let m2 := ps.foldl (fun m i => (m.setR (Reg.PALLET_EMERGENCY i) 1).askStep i) m1
  let m3 := m2.sealedParts.foldl (fun m p =>
    if (m.palletsOf p).any fun i => i / 60 == w then m.modPart p fun P => P.rise.evt Reg.PART_PWR_EVT_EMERGENCY_SEEN else m) m2
  { m3 with walls := Map.modify {} m3.walls w fun W => { W with changedAt := some m.timeUs } }

/-- A wall leaves emergency. -/
def Mach.leaveEmergency (m : Mach) (w : Nat) : Mach :=
  let ps := (List.range 60).map (60 * w + ·)
  let m1 := m.setR (if w = 0 then Reg.PWR_STATUS_EMERG_W0 else Reg.PWR_STATUS_EMERG_W1) 0
  let m2 := ps.foldl (fun m i => (m.setR (Reg.PALLET_EMERGENCY i) 0).askStep i) m1
  { m2 with walls := Map.modify {} m2.walls w fun W => { W with changedAt := some m.timeUs } }

/-- At least 100 ms have passed since the wall's last change (R405). -/
def Mach.wallFree (m : Mach) (w : Nat) : Bool := (m.wall w).changedAt.all fun t => decide (t + 100000 ≤ m.timeUs)
/-- Every pallet of the wall is below 95 °C. -/
def Mach.wallCool (m : Mach) (w : Nat) : Bool := (List.range 60).all fun k => decide ((m.pallet (60 * w + k)).tj < 95)

/-- Entry and exit of one wall by what holds now. -/
def Mach.checkWall (m : Mach) (w : Nat) : Mach :=
  let W := m.wall w
  if !m.wallFree w then m
  else if !m.inEmergency w && !W.causes.isEmpty then m.enterEmergency w
  else if m.inEmergency w && W.causes.isEmpty && decide (W.causesGoneAt + 100000 ≤ m.timeUs) && m.wallCool w then m.leaveEmergency w
  else m

/-- A cause of emergency of a wall comes or goes. -/
def Mach.setCause (m : Mach) (w c : Nat) (on : Bool) : Mach :=
  let W := m.wall w
  let cs := if on then (if W.causes.contains c then W.causes else W.causes ++ [c]) else W.causes.filter (· != c)
  let gone := if cs.isEmpty && !W.causes.isEmpty then m.timeUs else W.causesGoneAt
  ({ m with walls := Map.modify {} m.walls w fun W => { W with causes := cs, causesGoneAt := gone } } : Mach).checkWall w
def Mach.setCauses (m : Mach) (c : Nat) (on : Bool) : Mach := (m.setCause 0 c on).setCause 1 c on

/-- The thermal step of a pallet after a reading (R464). -/
def thermalNext (old : Nat) (tj : Int) (cool90 cool95 : Bool) : Nat :=
  if 100 ≤ tj then 2
  else if 95 ≤ tj then Nat.max 1 old
  else if cool90 then 0
  else if cool95 then Nat.min old 1
  else old

/-- THERMAL_SAMPLE (R464): `tj` is the highest reading of the last 1 ms, `cool90` and `cool95` that every reading of the last 100 ms
lay below 90 °C and 95 °C. -/
def execThermalSample (pal : PalletId) (tj : Int) (cool90 cool95 : Bool) (s : State) : Host.Outcome State Fault Refusal :=
  lift (fun m => m.whenUp fun m =>
    let i := pal.val
    let old := (m.pallet i).thermal
    let new := thermalNext old tj cool90 cool95
    let m1 := m.modPallet i fun q => { q with tj := tj, thermal := new, pendingStep := q.pendingStep || old != new }
    let m2 := match (m.pallet i).owner with
      | some p =>
        let m2 := if old = 0 ∧ 0 < new then m1.modPart p.val fun P => P.evt Reg.PART_PWR_EVT_THERMAL_STEP else m1
        if old < new then m2.modPart p.val Part.rise else m2
      | none => m1
    let w := i / 60
    m2.setCause w 0 ((List.range 60).any fun k => decide (105 ≤ (m2.pallet (60 * w + k)).tj))) s

/-- THERMAL_EMERGENCY (R465): a wall enters or leaves emergency when its conditions and the 100 ms of R405 allow. -/
def execThermalEmergency (wall : WallId) (s : State) : Host.Outcome State Fault Refusal :=
  lift (fun m => m.whenUp fun m => m.checkWall wall.val) s

/-- COOL_OK_CHANGE (R465): an input latched as chattering is ignored. -/
def execCoolOkChange (level : Bool) (s : State) : Host.Outcome State Fault Refusal :=
  lift (fun m => m.whenUp fun m =>
    let m1 := (m.setLevel 3 level).setR Reg.PWR_STATUS_COOL_OK_IN (b2n level)
    if m.chatters 3 then m1 else m1.setCauses 2 (!level)) s

/-- COOLANT_SAMPLE (R465, R467): temperatures in 0.01 °C, flow in 0.01 L/min; the three durations are those of the rule. -/
def execCoolantSample (inlet outlet : Int) (flow : Nat) (rangeFor10s lowFor2s quarterFor1s : Bool) (s : State) :
    Host.Outcome State Fault Refusal :=
  lift (fun m => m.whenUp fun m =>
    let demand := 25 * m.getR Reg.COOL_FORECAST_DEMAND
    let m1 := if rangeFor10s && decide (inlet < 1500 ∨ 4000 < inlet) then m.evt Reg.PWR_EVT_COOL_RANGE else m
    let m2 := if lowFor2s && decide (2 * flow < demand) then m1.evt Reg.PWR_EVT_COOL_FLOW_LOW else m1
    (m2.setCauses 1 (decide (6500 ≤ outlet))).setCauses 3
      (quarterFor1s && decide (4 * flow < demand) && decide (8000 < m.getR Reg.MODULE_POWER_DRAW))) s

/-- COOL_DEMAND_UPDATE (R468). The last place of DEMAND, 0.25 L/min, is rounded in a way the rule does not give. -/
def execCoolDemandUpdate (pMax1s pNow : Nat) (s : State) : Host.Outcome State Fault Refusal :=
  lift (fun m => m.whenUp fun m =>
    let waits := m.sealedParts.filter fun p => !(m.part p).prefillOrder.isEmpty || !(m.part p).holdQueue.isEmpty
    let rise : Int := (waits.map fun p => (((m.part p).getR Reg.PART_POWER_BUDGET : Int) - (m.part p).draw)).foldl (· + ·) 0
    let fc := Nat.min (Nat.max pMax1s (pNow + rise).toNat) (m.getR Reg.MODULE_POWER_CAP)
    let demand := Nat.max (4 * m.getR Reg.PWR_CFG_COOL_MIN) (Nat.min 160 (m.freeRound (534 * fc) 100000))
    ((m.setR Reg.COOL_FORECAST fc).setR Reg.COOL_FORECAST_DEMAND demand).nextFree) s

/-! ### Telemetry (R469 to R472) -/

/-- A signed value in two bytes. -/
def le2s (i : Int) : List Byte := leBytes 2 (i % 65536).toNat

/-- The module record (R471). -/
def Mach.moduleRecord (m : Mach) (x : ModSample) (seq energy : Nat) : List Byte :=
  let flags := m.getR Reg.PWR_STATUS_EMERG_W0 + 2 * m.getR Reg.PWR_STATUS_EMERG_W1 + 4 * m.getR Reg.PWR_STATUS_REF_FREERUN
    + 8 * m.getR Reg.PWR_STATUS_COOL_OK_IN + 16 * m.getR Reg.PWR_STATUS_PWR_WARN_IN
  leBytes 4 seq ++ leBytes 4 m.timeUs ++ leBytes 2 (x.feedMv.getD 0 0) ++ leBytes 2 (x.feedMv.getD 1 0)
    ++ leBytes 2 (x.feedI.getD 0 0) ++ leBytes 2 (x.feedI.getD 1 0) ++ leBytes 2 (x.busMv.getD 0 0) ++ leBytes 2 (x.busMv.getD 1 0)
    ++ le2s x.coolIn ++ le2s x.coolOut ++ leBytes 2 x.flow ++ leBytes 2 x.draw ++ leBytes 2 (m.getR Reg.COOL_FORECAST)
    ++ leBytes 1 (m.getR Reg.COOL_FORECAST_DEMAND) ++ leBytes 1 flags ++ leBytes 8 energy ++ leBytes 24 0

/-- The record of a pallet (R472); energy in 0.1 mJ. -/
def Mach.palletRecord (m : Mach) (x : PalletSample) (seq energy : Nat) : List Byte :=
  let i := x.pallet.val
  let q := m.pallet i
  let st := m.getR (Reg.PALLET_STEP i) + 4 * b2n q.parked + 8 * m.getR (Reg.PALLET_EMERGENCY i)
    + 16 * b2n (m.getR (Reg.SPARE_STATE i) == 2)
  let c := x.currents
  let v := x.volts
  leBytes 4 seq ++ leBytes 4 m.timeUs ++ leBytes 1 i ++ leBytes 1 ((q.owner.map fun p => p.val).getD 0xFF) ++ leBytes 1 st
    ++ leBytes 1 (q.tj % 256).toNat ++ ((List.range 5).flatMap fun k => leBytes 2 (c.getD k 0))
    ++ ((List.range 5).flatMap fun k => leBytes 2 (v.getD k 0)) ++ leBytes 2 x.draw ++ leBytes 2 0 ++ leBytes 4 (energy / 10)
    ++ leBytes 24 0

def Mach.publishPallet (m : Mach) (x : PalletSample) : Mach :=
  let i := x.pallet.val
  let t := m.telemetry
  let seq := (Map.get 0 t.palletSeq i + 2) % 2 ^ 32
  let e := Map.get 0 t.palletEnergy i + x.draw
  { m.setR (Reg.PALLET_DRAW i) (Nat.min x.draw 65535) with
    telemetry := { t with palletSeq := Map.set 0 t.palletSeq i seq, palletEnergy := Map.set 0 t.palletEnergy i e
                          pallets := Map.set [] t.pallets i (m.palletRecord x seq e) } }

/-- TELEMETRY_SAMPLE (R469, R470): both records are complete, and their SEQ even. -/
def execTelemetrySample (mod_ : ModSample) (pallets : List PalletSample) (s : State) : Host.Outcome State Fault Refusal :=
  lift (fun m => m.whenUp fun m =>
    let seq := (m.telemetry.seq + 2) % 2 ^ 32
    let e := m.telemetry.energy + mod_.draw
    let m1 := m.setR Reg.MODULE_POWER_DRAW (Nat.min mod_.draw 65535)
    let m2 := { m1 with telemetry := { m1.telemetry with seq := seq, energy := e, sample := mod_, modRec := m1.moduleRecord mod_ seq e } }
    let m3 := feedIds.foldl (fun m i => match mod_.feedMv[i]? with
      | some v => m.noteMv i v
      | none => m) m2
    pallets.foldl Mach.publishPallet m3.settleFeeds) s

/-! ### Chatter (R503, R504) -/

/-- SIDEBAND_CHATTER (R503, R504). -/
def execSidebandChatter (input : Fin 6) (s : State) : Host.Outcome State Fault Refusal :=
  lift (fun m => m.whenUp fun m =>
    if m.chatters input.val then m
    else
      let m1 := m.setR Reg.SB_STATUS_CHATTER (m.getR Reg.SB_STATUS_CHATTER ||| 2 ^ input.val)
      match input.val with
      | 0 => m1.setPerst 0 true
      | 1 => m1.setPerst 1 true
      | 2 => m1.freeRun
      | 3 => m1.setCauses 2 false
      | 4 => m1.saveRecords
      | _ => { m1 with chainIn := true }) s

end Sys2Proof.Machine
end

