-- ==== Sys2Proof/Machine/Links.lean ====
section
/-! DEFINITION. The Alpiun links: training, frames, credits and replay, turn marks, and lanes (R488 to R496, R508, R397). -/
namespace Sys2Proof.Machine

/-! ### Port states (R489, R511) -/

def Mach.setAl (m : Mach) (l v : Nat) : Mach := m.setR (Reg.AL_STATUS_STATE l) v

/-- Lanes of the port with a lasting fault. -/
def Mach.laneFault (m : Mach) (l k : Nat) : Bool := (m.getR (Reg.AL_STATUS_LANE_FAULT l)).testBit k
def lowHalf : List Nat := [0, 1, 2, 3]
def highHalf : List Nat := [4, 5, 6, 7]
/-- The port cannot be up: its pallet is OUT, each half has a lasting fault, or its plug-in is held in low power (R495, R508). -/
def Mach.alBarred (m : Mach) (l : Nat) : Bool :=
  (m.pallet (linkPallet l)).dark || (m.link l).lowPower
    || (lowHalf.any (fun k => m.laneFault l k) && highHalf.any fun k => m.laneFault l k)

/-- What the module sends in a control frame: credits for units freed, and a NAK (R491). -/
def Mach.sendControl (m : Mach) (l : LinkId) (nak : Option Nat) : Mach :=
  { m.modLink l.val (fun L => { L with freed := 0 }) with out := m.out ++ [.linkControl l (m.link l.val).freed nak] }

/-- A retrain: ALIGN and IDENTIFY with the stored equalisation (R489). -/
def Mach.retrain (m : Mach) (l : Nat) : Mach :=
  ((m.modLink l fun L => { L with replays := 0 }).cnt (Reg.AL_STATUS_RETRAINS l) 1).setAl l alAlign

/-- The peer is known: what its identity frame says (R491). -/
def Mach.notePeer (m : Mach) (l : Nat) (peer : PeerId) : Mach :=
  (m.setR (Reg.AL_PEER_PEER_SERIAL l) (peer.serial.toNat % 2 ^ 32)).setR (Reg.AL_STATUS_PEER_PORT l) peer.port.val

/-- Frames kept for replay from frame number `n` on are sent again, and counted (R493). -/
def Mach.replayFrom (m : Mach) (l : LinkId) (n : Nat) : Mach :=
  let fs := (m.link l.val).replayBuf.dropWhile fun f => f.seq != n
  ({ m with out := m.out ++ fs.map fun f => .linkData l f } : Mach).cnt (Reg.AL_RETRY_REPLAYS l.val) fs.length

/-- PORT_TRAINING (R489). A state whose time limit passes, and a lost link, leave the port DOWN. -/
def Mach.train (m : Mach) (l : LinkId) (ev : TrainEvent) : Mach :=
  let i := l.val
  let st := m.alState i
  match ev with
  | .powered => if st = alDown ∧ !m.alBarred i then m.setAl i alDetect else m
  | .receiverFound => if st = alDetect then m.setAl i alEqualise else m
  | .equalised => if st = alEqualise then (m.modLink i fun L => { L with trained := true }).setAl i alAlign else m
  | .aligned => if st = alAlign then (m.setAl i alIdentify).sendControl l none else m
  | .identified peer isVut =>
    if st ≠ alIdentify then m
    else
      let m1 := m.notePeer i peer
      if !isVut || peer.serial == Config.serial then m1.setAl i alPeerBad
      else
        let m2 := m1.setAl i alActive
        match (m2.link i).replayBuf.head? with
        | some f => m2.replayFrom l f.seq
        | none => m2
  | .lost => (m.modLink i fun L => { L with trained := false }).setAl i alDown
  | .retrain => if st = alActive ∧ (m.link i).trained then m.retrain i else m

/-- PORT_TRAINING (R489). -/
def execPortTraining (l : LinkId) (ev : TrainEvent) (s : State) : Host.Outcome State Fault Refusal :=
  lift (fun m => m.whenUp fun m => m.train l ev) s

/-- OSFP_PLUG_IN (R508): more than 25 W is held in low-power mode. -/
def execOsfpPlugIn (l : LinkId) (watts : Nat) (s : State) : Host.Outcome State Fault Refusal :=
  lift (fun m => m.whenUp fun m =>
    let big := decide (25 < watts)
    let m1 := m.modLink l.val fun L => { L with lowPower := big }
    if big then (m1.modLink l.val fun L => { L with trained := false }).setAl l.val alDown else m1) s

/-! ### Received frames (R490 to R494) -/

/-- Frames up to the acknowledged one are no longer kept. -/
def Link.acked (L : Link) (ack : Nat) : Link :=
  if L.replayBuf.any fun f => f.seq == ack then
    { L with replayBuf := (L.replayBuf.dropWhile fun f => f.seq != ack).drop 1, replays := 0 }
  else L

/-- The chained partition. -/
def Mach.chainPart (m : Mach) : Option PartId := (List.finRange 16).find? fun p => (m.part p.val).flagR Reg.TURN_CFG_CHAINED
/-- The chained partition encrypts its link payloads (R397). -/
def Mach.linkSecret (m : Mach) : Bool := m.chainPart.any fun p => (m.part p.val).confidential

/-- A chain fault: CHAIN_FAULT, and the turn is abandoned (R238, R494). -/
def Mach.chainFault (m : Mach) (p : PartId) : Mach :=
  m.modPart p.val fun P => { P.evt Reg.TURN_EVT_CHAIN_FAULT with abandonReq := true, affectAll := true }

/-- A PUT or FILL lies in its arrival window: its turn, corrected by the port's offset, is the receiver's current or next one; before
the first TURN_MARK no check is made. -/
def turnOk (off : Option Int) (own : Nat) (turn : Byte) : Bool :=
  match off with
  | none => true
  | some d =>
    let t := ((turn.toNat : Int) - d) % 256
    t == ((own : Int) % 256) || t == (((own : Int) + 1) % 256)

/-- Number of a link station among the port stations. -/
def linkStation (l : LinkId) : Nat := 2 + l.val

/-- One message of a data body (R492, R494). RELAY units carry the relay messages, which are commands of their own. -/
def Mach.linkMsg (m : Mach) (l : LinkId) (x : LinkMsg) : Mach :=
  match m.chainPart with
  | none => m
  | some p =>
    let own := (m.part p.val).turnSeq
    let L := m.link l.val
    match x.op.toNat with
    | 1 => if turnOk L.turnOff own x.turn then
        m.stationSend p (linkStation l) .put false x.target x.units x.units.length else m.chainFault p
    | 2 => if turnOk L.turnOff own x.turn then
        m.stationSend p (linkStation l) .putFill false x.target x.units x.units.length else m.chainFault p
    | 4 =>
      let d : Int := (x.target.toNat : Int) - own
      match L.turnOff with
      | none => m.modLink l.val fun L => { L with turnOff := some d }
      | some e => if d = e then m else m.chainFault p
    | _ => m

def isPad (x : LinkMsg) : Bool := x.op == 0
def unitsOf (xs : List LinkMsg) : Nat := (xs.map fun x => x.units.length).foldl (· + ·) 0

/-- DATA_FRAME (R493): a frame with a bad CRC or tag, or out of sequence, is answered with NAK. -/
def Mach.dataFrame (m : Mach) (l : LinkId) (seq ack : Nat) (ok : Bool) (xs : List LinkMsg) : Mach :=
  let i := l.val
  if m.alState i ≠ alActive then m
  else
    let m1 := if ok then m.modLink i fun L => L.acked ack else m
    let want := (m1.link i).expected
    if !ok || seq != want then m1.sendControl l (some want)
    else
      let body := xs.takeWhile fun x => !isPad x
      let m2 := m1.modLink i fun L => { L with
        expected := (want + 1) % 4096, lastAck := seq, freed := L.freed + unitsOf body
        rxCount := if m.linkSecret then L.rxCount + 1 else L.rxCount }
      body.foldl (fun m x => m.linkMsg l x) m2

/-- DATA_FRAME (R493). -/
def execDataFrame (l : LinkId) (seq ack : BitVec 12) (crcOk : Bool) (msgs : List LinkMsg) (s : State) :
    Host.Outcome State Fault Refusal :=
  lift (fun m => m.whenUp fun m => m.dataFrame l seq.toNat ack.toNat crcOk msgs) s

/-- A NAK: replay from its frame; after 16 consecutive replays of one frame the port retrains (R493). -/
def Mach.replay (m : Mach) (l : LinkId) (n : Nat) : Mach :=
  let m1 := (m.replayFrom l n).modLink l.val fun L => { L with replays := if L.replayBuf.any fun f => f.seq == n then L.replays + 1 else 0 }
  if 16 ≤ (m1.link l.val).replays then m1.retrain l.val else m1

/-- CONTROL_FRAME (R491, R493). -/
def execControlFrame (l : LinkId) (credits : W32) (nak : Option (BitVec 12)) (peer : PeerId) (crcOk : Bool) (ack : BitVec 12)
    (s : State) : Host.Outcome State Fault Refusal :=
  lift (fun m => m.whenUp fun m =>
    if m.alState l.val ≠ alActive then m
    else if !crcOk then m.sendControl l (some (m.link l.val).expected)
    else
      let m1 := (m.modLink l.val fun L => { L.acked ack.toNat with credits := L.credits + credits.toNat }).notePeer l.val peer
      match nak with
      | some n => m1.replay l n.toNat
      | none => m1) s

/-! ### Sent frames (R493, R495) -/

/-- Bytes of a data body that messages may fill (R488). -/
def Mach.bodyRoom (m : Mach) : Nat := if m.linkSecret then 2032 else 2048

/-- The messages that the next frame takes, in order, while body and credits last. -/
def takeMsgs : Nat → Nat → List LinkMsg → List LinkMsg
  | _, _, [] => []
  | room, credits, x :: xs =>
    let n := x.units.length
    if 16 + 64 * n ≤ room ∧ n ≤ credits then x :: takeMsgs (room - 16 - 64 * n) (credits - n) xs else []

/-- A message of tile data carries the low bits of the sender's TURN_SEQ (R492). -/
def Mach.stampMsg (m : Mach) (x : LinkMsg) : LinkMsg :=
  match m.chainPart with
  | some p => if x.op = 1 ∨ x.op = 2 then { x with turn := BitVec.ofNat 8 ((m.part p.val).turnSeq % 256) } else x
  | none => x

/-- FRAME_SEND (R493): `msgs` is what the port's station has collected from tiles since; it follows what waits. -/
def Mach.frameSend (m : Mach) (l : LinkId) (msgs : List LinkMsg) : Mach :=
  let m1 := m.modLink l.val fun L => { L with outbox := L.outbox ++ msgs.map m.stampMsg }
  match m1.sender l with
  | none => m1
  | some k =>
    let moved := (m1.link l.val).outbox
    let m2 := if k = l then m1
      else (m1.modLink l.val fun L => { L with outbox := [] }).modLink k.val fun L => { L with outbox := L.outbox ++ moved }
    let K := m2.link k.val
    let xs := takeMsgs m2.bodyRoom K.credits K.outbox
    if xs.isEmpty || decide (128 ≤ K.replayBuf.length) then m2
    else
      let f : Frame := ⟨K.nextSeq, xs⟩
      { m2.modLink k.val (fun K => { K with
          outbox := K.outbox.drop xs.length, credits := K.credits - unitsOf xs, nextSeq := (K.nextSeq + 1) % 4096
          replayBuf := K.replayBuf ++ [f], txCount := if m2.linkSecret then K.txCount + 1 else K.txCount }) with
        out := m2.out ++ [.linkData k f] }

/-- FRAME_SEND (R493). -/
def execFrameSend (l : LinkId) (msgs : List LinkMsg) (s : State) : Host.Outcome State Fault Refusal :=
  lift (fun m => m.whenUp fun m => m.frameSend l msgs) s

/-! ### Lanes (R495) -/

/-- Width of the port by its faulty lanes and those under test. -/
def Mach.settleLanes (m : Mach) (l : Nat) : Mach :=
  let bad := fun (k : Nat) => m.laneFault l k || (m.link l).lanesTest.contains k
  let lowBad := lowHalf.any bad
  let highBad := highHalf.any bad
  let half := fun (h u : Nat) => (m.setR (Reg.AL_STATUS_HALF l) h).setR (Reg.AL_STATUS_UPPER l) u
  if m.alBarred l then (m.modLink l fun L => { L with trained := false }).setAl l alDown
  else if !lowBad && !highBad then half 0 0
  else if !highBad then half 1 1
  else if !lowBad then half 1 0
  else if lowHalf.any fun k => m.laneFault l k then half 1 1
  else if highHalf.any fun k => m.laneFault l k then half 1 0
  else m

/-- LANE_SUSPECT (R495). -/
def execLaneSuspect (l : LinkId) (lane : Fin 8) (s : State) : Host.Outcome State Fault Refusal :=
  lift (fun m => m.whenUp fun m =>
    if m.laneFault l.val lane.val || (m.link l.val).lanesTest.contains lane.val then m
    else
      ((m.modLink l.val fun L => { L with lanesTest := L.lanesTest ++ [lane.val] }).settleLanes l.val).startTest
        (.lane l.val lane.val)) s

/-- T_LANE (R415, R416, R495). -/
def execTLane (l : LinkId) (lane : Fin 8) (fault : Bool) (s : State) : Host.Outcome State Fault Refusal :=
  lift (fun m =>
    let clear := fun (m : Mach) => m.modLink l.val fun L => { L with lanesTest := L.lanesTest.filter (· != lane.val) }
    m.endTest (.lane l.val lane.val) fault (fun m => (clear m).settleLanes l.val)
      (fun m => ((clear m).setR (Reg.AL_STATUS_LANE_FAULT l.val) (m.getR (Reg.AL_STATUS_LANE_FAULT l.val) ||| 2 ^ lane.val)).settleLanes
        l.val)) s

end Sys2Proof.Machine
end

