-- ==== Sys2Proof/Machine/Security.lean ====
section
/-! DEFINITION. Attestation over SPDM, key delivery, zeroise and the management endpoint's sensors (R384 to R391, R406 to R409, R487).
Digests, signatures and tags are opaque (log entry 14). -/
namespace Sys2Proof.Machine

/-! ### SPDM (R385) -/

/-- Response and error codes of SPDM 1.3 (DSP0274), which R385 names by their messages. -/
def spdmVersion : Nat := 0x04
def spdmCapabilities : Nat := 0x61
def spdmAlgorithms : Nat := 0x63
def spdmDigests : Nat := 0x01
def spdmCertificate : Nat := 0x02
def spdmChallengeAuth : Nat := 0x03
def spdmMeasurements : Nat := 0x60
def spdmVendor : Nat := 0x7E
def spdmError : Nat := 0x7F
def errInvalid : Nat := 0x01
def errBusy : Nat := 0x03
def errUnexpected : Nat := 0x04
def errUnspecified : Nat := 0x05
def errUnsupported : Nat := 0x07

def Mach.reply (m : Mach) (d : Requester) (code : Nat) (body : List Nat) : Mach := m.send [.spdm d code body]
def Mach.replyErr (m : Mach) (d : Requester) (e : Nat) : Mach := m.reply d spdmError [e]

/-- How far the requester's connection has come: 1 version, 2 capabilities, 3 algorithms. -/
def Mach.spdmState (m : Mach) : Requester → Nat
  | .doe w => ((m.hostPort w.port.val).func w.func.val).spdm
  | .mctp => m.spdmMctp
def Mach.setSpdm (m : Mach) (d : Requester) (n : Nat) : Mach :=
  match d with
  | .doe w => m.modHostPort w.port.val fun h => { h with funcs := Map.modify {} h.funcs w.func.val fun g => { g with spdm := n } }
  | .mctp => { m with spdmMctp := n }

/-- A partition that the function owns is SCRUBBING (R381). -/
def Mach.ownsScrubbing (m : Mach) (w : Writer) : Bool :=
  partIds.any fun p => (m.part p).state == stScrubbing && m.funcOn p w.port.val == some w.func.val
/-- Tenant services answer Busy in a handover hold, and for a partition in SCRUBBING (R381, R432). -/
def Mach.spdmBusy (m : Mach) : Requester → Bool
  | .doe w => m.boot.inHold || m.ownsScrubbing w
  | .mctp => false

/-- A request in its place: the responder works on a port that is up, and answers Busy until READY (R514), or over MCTP once the
firmware runs; `need` is how far the connection must have come. -/
def Mach.spdm (m : Mach) (d : Requester) (need : Nat) (f : Mach → Mach) : Mach :=
  let here := match d with
    | .doe w => (m.hostPort w.port.val).up
    | .mctp => true
  let early := !m.ready && m.boot.moduleUp && d != Requester.mctp
  if !here || (!m.ready && !early) then m
  else if early || m.spdmBusy d then m.replyErr d errBusy
  else if m.spdmState d < need then m.replyErr d errUnexpected
  else f m

/-- GET_VERSION (R385): 1.3 only; the connection begins anew. -/
def execGetVersion (d : Requester) (s : State) : Host.Outcome State Fault Refusal :=
  lift (fun m => m.spdm d 0 fun m => (m.setSpdm d 1).reply d spdmVersion [0x13]) s
/-- GET_CAPABILITIES (R385): CERT_CAP, CHAL_CAP and MEAS_CAP with signature. -/
def execGetCapabilities (d : Requester) (s : State) : Host.Outcome State Fault Refusal :=
  lift (fun m => m.spdm d 1 fun m => (m.setSpdm d (Nat.max 2 (m.spdmState d))).reply d spdmCapabilities [0x16]) s
/-- NEGOTIATE_ALGORITHMS (R385): Ed448, SHA3-512, DMTF measurements, raw bit stream. -/
def execNegotiateAlgorithms (d : Requester) (s : State) : Host.Outcome State Fault Refusal :=
  lift (fun m => m.spdm d 2 fun m => (m.setSpdm d 3).reply d spdmAlgorithms [448, 512, 1, 1]) s

/-- The module can attest: it has an alias key, and the identity key that certifies it (R409). -/
def Mach.attests (m : Mach) : Bool := m.boot.aliasKey.isSome && !m.boot.tampered
def steppingCode : Nat :=
  match Config.stepping with
  | .a1 => 0xA1
  | .b0 => 0xB0
/-- What the chain of slot 0 says of this module: serial number, stepping, firmware digest, security version, alias key (R384). -/
def Mach.certChain (m : Mach) : List Nat :=
  let r := m.boot.running.getD default
  [Config.serial.toNat, steppingCode, r.digest.toNat, r.svn.toNat, (m.boot.aliasKey.map fun k => k.1.toNat).getD 0]
/-- A response signed by the alias key. -/
def Mach.signed (m : Mach) (body : List Nat) : List Nat :=
  match m.boot.aliasKey with
  | some k => if m.boot.tampered then body ++ [0] else body ++ [Config.sign k.2 body]
  | none => body ++ [0]

/-- GET_DIGESTS (R384, R385): slot 0 alone. -/
def execGetDigests (d : Requester) (s : State) : Host.Outcome State Fault Refusal :=
  lift (fun m => m.spdm d 3 fun m =>
    if m.attests then m.reply d spdmDigests [1, (Config.digest m.certChain).toNat] else m.replyErr d errUnspecified) s
/-- GET_CERTIFICATE (R384, R385). -/
def execGetCertificate (d : Requester) (slot : Fin 8) (s : State) : Host.Outcome State Fault Refusal :=
  lift (fun m => m.spdm d 3 fun m =>
    if slot ≠ 0 then m.replyErr d errInvalid
    else if m.attests then m.reply d spdmCertificate m.certChain
    else m.replyErr d errUnspecified) s
/-- CHALLENGE (R385). -/
def execChallenge (d : Requester) (slot : Fin 8) (nonce : BitVec 256) (s : State) : Host.Outcome State Fault Refusal :=
  lift (fun m => m.spdm d 3 fun m =>
    if slot ≠ 0 then m.replyErr d errInvalid
    else if m.attests then m.reply d spdmChallengeAuth (m.signed [(Config.digest m.certChain).toNat, nonce.toNat])
    else m.replyErr d errUnspecified) s

/-! ### Measurements (R386) -/

/-- Words of BOND_MAP and SPARE_USE as they stand (R437, R438). -/
def Mach.bondWords (m : Mach) : List Nat :=
  (List.range 120).flatMap fun p =>
    (List.range 12).map (fun i => 128 * m.getR (Reg.BOND_SKIP p i) + 64 * m.getR (Reg.BOND_ROUTER_OUT p i) + m.getR (Reg.BOND_POS p i))
      ++ [m.getR (Reg.SPARE_ROW p), m.getR (Reg.SPARE_TILE p)]
def Part.cfgWord (P : Part) : Nat :=
  2 ^ 31 * P.getR Reg.PART_CFG_SEC_MODE + 2 ^ 29 * P.getR Reg.PART_CFG_DEBUG_LEVEL + 2 ^ 16 * P.getR Reg.PART_CFG_DMA_SLOTS
    + P.getR Reg.PART_CFG_POWER_SHARE

/-- A module block. -/
def Mach.moduleBlock (m : Mach) (i : Nat) : Option (List Nat) :=
  let r := m.boot.running.getD default
  match i with
  | 1 => some [Config.romDigest.toNat]
  | 2 => some [r.digest.toNat]
  | 3 => some [r.svn.toNat]
  | 4 => some [0x6120, steppingCode, Config.serial.toNat, m.getR Reg.SB_STATUS_STRAP_IN, b2n m.boot.debugLock, b2n m.boot.tampered]
  | 5 => some [(Config.digest m.bondWords).toNat]
  | _ => none


/-- A block of a partition; of a FREE one its state alone. -/
def Mach.partBlock (m : Mach) (p k : Nat) : List Nat :=
  let P := m.part p
  if P.state = stFree then (if k = 0 then [0, stFree, 0, 0, 0, 0, 0, 0] else [0])
  else match k with
    | 0 => [p, P.state, P.cfgWord] ++ (List.range 3).map (fun i => P.getR (Reg.PALLET_MASK_PALLETS i))
        ++ [P.getR Reg.PALLET_MASK_3_PALLETS, P.sealCount]
    | 1 => [(P.keys.session.map fun x => x.1.toNat).getD 0]
    | 2 => [P.getR Reg.KEY_EPOCH, P.keys.gen] ++ P.keys.image.filterMap fun e => e.2.map fun k => k.id.toNat
    | _ =>
      let pl := P.place (k - 3)
      [PlaceState.code pl.state, (pl.manifest.map fun f => f.digest.toNat).getD 0]

/-- The function owns the partition, or is a physical function, which reports every partition. -/
def Mach.reportsTo (m : Mach) (d : Requester) (p : Nat) : Bool :=
  match d with
  | .doe w => w.func.val == 0 || m.funcOn p w.port.val == some w.func.val
  | .mctp => false

/-- Block `i` for a requester. -/
def Mach.block (m : Mach) (d : Requester) (i : Nat) : Option (List Nat) :=
  if i < 0x20 then m.moduleBlock i
  else
    let p := (i - 0x20) / 8
    let k := (i - 0x20) % 8
    if p < 16 ∧ k < 7 ∧ m.reportsTo d p then some (m.partBlock p k) else none
/-- The blocks a requester is reported. -/
def Mach.blocks (m : Mach) (d : Requester) : List (Nat × List Nat) :=
  (List.range 0xA0).filterMap fun i => (m.block d i).map fun b => (i, b)

/-- GET_MEASUREMENTS (R385, R386): index 0 asks for their number, 0xFF for all. -/
def execGetMeasurements (d : Requester) (index : Byte) (nonce : BitVec 256) (s : State) : Host.Outcome State Fault Refusal :=
  lift (fun m => m.spdm d 3 fun m =>
    let i := index.toNat
    if i = 0 then m.reply d spdmMeasurements (m.signed [(m.blocks d).length, nonce.toNat])
    else if i = 0xFF then
      m.reply d spdmMeasurements (m.signed (((m.blocks d).flatMap fun x => x.1 :: x.2) ++ [nonce.toNat]))
    else match m.block d i with
      | some b => m.reply d spdmMeasurements (m.signed (i :: b ++ [nonce.toNat]))
      | none => m.replyErr d errInvalid) s

/-- SPDM_UNSUPPORTED (R385). -/
def execSpdmUnsupported (d : Requester) (_code : Byte) (s : State) : Host.Outcome State Fault Refusal :=
  lift (fun m => m.spdm d 0 fun m => m.replyErr d errUnsupported) s

/-! ### Key delivery (R387 to R391) -/

def KS_OK : Nat := 0
/-- Status of a delivery, in the order of R389. -/
def Part.keyStatus (P : Part) (x : KeyMsg) (held : Bool) : Nat :=
  let f := x.flags.toNat
  let host := f.testBit 0
  let rot := f.testBit 1
  let img := f.testBit 3
  let del := f.testBit 4
  let epoch := P.getR Reg.KEY_EPOCH
  let named := (Map.get none P.keys.image x.slot.val).any fun k =>
    P.places.any fun e => (e.2.manifest.any fun mf => mf.keyId == k.id)
      && (e.2.state == .registered || P.loadOp.any fun L => L.place.val == e.1)
  if x.epoch.toNat ≠ epoch ∨ epoch = 0xFFFFFFFF then 1
  else if !x.tagOk then 2
  else if !P.isSealed || held then 3
  else if x.op ≠ 1 ∨ !x.zeros ∨ 32 ≤ f ∨ (host ∧ P.keys.inKey.isSome ∧ !rot) ∨ (rot ∧ !host) ∨ (img ∧ del) then 4
  else if rot && (P.keys.inOld.isSome || P.keys.outOld.isSome) then 5
  else if del && named then 6
  else 0

/-- The keys installed by a delivery. -/
def Keys.install (k : Keys) (x : KeyMsg) : Keys :=
  let f := x.flags.toNat
  let k1 :=
    if !f.testBit 0 then k
    else if k.inKey.isNone then { k with inKey := some x.inKey, outKey := some x.outKey, gen := 0 }
    else { k with inOld := k.inKey, outOld := k.outKey, inKey := some x.inKey, outKey := some x.outKey, gen := (k.gen + 1) % 256 }
  let k2 := if f.testBit 2 then { k1 with link := some x.linkKey } else k1
  let k3 := if f.testBit 3 then { k2 with image := Map.set none k2.image x.slot.val (some ⟨x.keyId, x.imageKey⟩) } else k2
  if f.testBit 4 then { k3 with image := Map.set none k3.image x.slot.val none } else k3

/-- KEY_DELIVERY (R387 to R389): to a function that owns the partition. -/
def Mach.keyDelivery (m : Mach) (w : Writer) (p : PartId) (x : KeyMsg) : Mach :=
  let d := Requester.doe w
  if !m.boot.moduleUp || !(m.hostPort w.port.val).up then m
  else if !m.ready then m.replyErr d errBusy
  else if m.funcOn p.val w.port.val != some w.func.val then m.replyErr d errInvalid
  else if m.spdmBusy d || (m.part p.val).state == stScrubbing then m.replyErr d errBusy
  else
    let st := (m.part p.val).keyStatus x m.boot.inHold
    let epoch := (m.part p.val).getR Reg.KEY_EPOCH
    if st = 0 then
      let m1 := m.onPart p fun c P =>
        { (P.setR Reg.KEY_EPOCH (epoch + 1)).evt Reg.PART_EVT_KEY_DELIVERED with keys := P.keys.install x }.fetchMore c 16
      m1.reply d spdmVendor [0x81, p.val, 0, epoch + 1, Config.deliveryTag [0x81, p.val, 0, epoch + 1]]
    else (m.modPart p.val fun P => P.evt Reg.PART_EVT_KEY_REFUSED).reply d spdmVendor [0x81, p.val, st, epoch, 0]

/-- KEY_DELIVERY (R389). -/
def execKeyDelivery (w : Writer) (p : PartId) (msg : KeyMsg) (s : State) : Host.Outcome State Fault Refusal :=
  lift (fun m => m.keyDelivery w p msg) s

/-! ### Zeroise (R409) -/

/-- Every key and secret of a partition is cleared. What a CONFIDENTIAL partition still has to write goes with its outbound key, for
it could never be written (log entry 99). -/
def Part.zeroise (P : Part) : Part :=
  let Q : Part := { P with keys := { loads := P.keys.loads } }
  if P.confidential && P.state == stScrubbing && P.recordsWait then { Q with waitingDone := [], rings := [] }.scrubbing else Q

/-- Every SEALED partition is killed, and every key but the identity key is cleared. -/
def Mach.zeroise (m : Mach) : Mach :=
  let ps := (List.finRange 16).filter fun p => (m.part p.val).isSealed
  let m1 := ps.foldl Mach.killNow m
  let m2 := m1.modParts (fun _ => true) Part.zeroise
  m2.modBoot fun b => { b with aliasKey := none }

/-- ZEROISE (R409). -/
def execZeroise (s : State) : Host.Outcome State Fault Refusal := lift (fun m => m.whenUp Mach.zeroise) s
/-- ENCLOSURE_OPENED (R409): the identity key goes too, for good. -/
def execEnclosureOpened (s : State) : Host.Outcome State Fault Refusal :=
  lift (fun m => m.whenUp fun m => (m.zeroise.modBoot fun b => { b with tampered := true }).alert 5 0) s

/-! ### Platform monitoring (R487) -/

/-- Sensors by number (the rule names them, and gives no numbers): 0, 1 feed voltages, 2, 3 feed currents, 4, 5 coolant
temperatures, 6 flow, 7 module draw, 8, 9 each wall's highest junction temperature, 16 + p draw of pallet p. -/
def Mach.sensor (m : Mach) (n : Nat) : Option Int :=
  let x := m.telemetry.sample
  let hot := fun (w : Nat) => ((List.range 60).map fun k => (m.pallet (60 * w + k)).tj).foldl max (m.pallet (60 * w)).tj
  match n with
  | 0 => some (x.feedMv.getD 0 0)
  | 1 => some (x.feedMv.getD 1 0)
  | 2 => some (x.feedI.getD 0 0)
  | 3 => some (x.feedI.getD 1 0)
  | 4 => some x.coolIn
  | 5 => some x.coolOut
  | 6 => some x.flow
  | 7 => some x.draw
  | 8 => some (hot 0)
  | 9 => some (hot 1)
  | _ => if 16 ≤ n ∧ n < 136 then some (m.getR (Reg.PALLET_DRAW (n - 16))) else none

/-- PLDM_MONITORING (R487): a sensor, or the inventory, which reports the stepping letter (R2). -/
def execPldmMonitoring (req : PldmReq) (s : State) : Host.Outcome State Fault Refusal :=
  lift (fun m => m.whenUp fun m =>
    match req with
    | .sensor n => m.send [.pldm n (m.sensor n)]
    | .inventory => m.send [.pldmInventory 0x6120 steppingCode Config.serial]) s

end Sys2Proof.Machine
end

