-- ==== Sys2Proof/Machine/Debug.lean ====
section
/-! DEFINITION. Debug access and diagnosis (R401, R402, R530 to R532, R535 to R537). -/
namespace Sys2Proof.Machine

/-! ### Levels (R530) -/

/-- DBG_RESULT. -/
def drOk : Nat := 0
def drLevel : Nat := 1
def drNotHalted : Nat := 2
def drRange : Nat := 3
def drScrub : Nat := 4
def drBusy : Nat := 5
def drUe : Nat := 6
def drState : Nat := 7
def Part.debugResult (P : Part) (r : Nat) : Part := P.setR Reg.DBG_STATUS_DBG_RESULT r

/-- DEBUG_LEVEL in force: an OPEN partition acts as at PROFILE while the module debug lock is set. -/
def Mach.debugLevel (m : Mach) (p : Nat) : Nat :=
  let P := m.part p
  if !P.isSealed then 0
  else Nat.min (P.getR Reg.PART_CFG_DEBUG_LEVEL) (if m.boot.debugLock then 1 else 2)

/-- An OP of DBG_CTRL: dropped at CLOSED, refused with LEVEL at PROFILE. -/
def Mach.debugOp (m : Mach) (w : Writer) (p : PartId) (f : Mach → Mach) : Mach :=
  if !m.reaches w p.val || m.debugLevel p.val == 0 then m
  else if m.debugLevel p.val = 1 then m.modPart p.val fun P => P.debugResult drLevel
  else f m

/-! ### Halt, step and resume (R531) -/

def Part.dbgState (P : Part) : Nat := P.getR Reg.DBG_STATUS_DBG_STATE

/-- HALT (R531): taken at the next call point. -/
def execHalt (w : Writer) (p : PartId) (s : State) : Host.Outcome State Fault Refusal :=
  lift (fun m => m.debugOp w p fun m => m.modPart p.val fun P =>
    let P := P.debugResult drOk
    if P.haltReq then P else { P.setR Reg.DBG_STATUS_DBG_STATE 1 with haltReq := true, stepping := false }) s
/-- STEP (R531): one beat, and the hold again from its call point. -/
def execStep (w : Writer) (p : PartId) (s : State) : Host.Outcome State Fault Refusal :=
  lift (fun m => m.debugOp w p fun m => m.modPart p.val fun P =>
    if P.dbgState = 2 then { (P.debugResult drOk).setR Reg.DBG_STATUS_DBG_STATE 1 with stepping := true }
    else P.debugResult drNotHalted) s
/-- RESUME (R531). -/
def execDbgResume (w : Writer) (p : PartId) (s : State) : Host.Outcome State Fault Refusal :=
  lift (fun m => m.debugOp w p fun m => m.modPart p.val fun P =>
    if P.haltReq then Part.resume (P.debugResult drOk) else P.debugResult drNotHalted) s

/-! ### The mailbox (R532) -/

def Part.mailbox (P : Part) : List Byte := (List.range 64).flatMap fun i => leBytes 4 (P.getR (Reg.DBG_DATA i))
/-- Words of the mailbox from the first. -/
def Part.setMailbox (P : Part) (bs : List Byte) : Part :=
  (List.range (bs.length / 4)).foldl (fun P i => P.setR (Reg.DBG_DATA i) (leNat ((bs.drop (4 * i)).take 4))) P

/-- What an access does to its tile: the tile, its result, what it read, and its signals. -/
structure Access where
  tile : Tile
  result : Nat := 0
  data : List Byte := []
  sigs : List Sig := []

/-- ACCESS on a space (R532, R536): the partition must be HALTED, no re-placement or handover may run, and the tile must be one of the
partition's. -/
def Mach.access (m : Mach) (w : Writer) (p : PartId) (space : Nat) (f : Mach → Part → Nat → Tile → Access) : Mach :=
  m.debugOp w p fun m =>
    let P := m.part p.val
    let t := P.getR Reg.DBG_TILE_TILE_INDEX
    if P.getR Reg.DBG_ADDR_SPACE ≠ space then m
    else if P.dbgState ≠ 2 then m.modPart p.val fun P => P.debugResult drNotHalted
    else if m.boot.inHold || m.replaces.any fun r => r.part == some p then m.modPart p.val fun P => P.debugResult drBusy
    else if 52800 ≤ t ∨ m.owner t ≠ some p then m.modPart p.val fun P => P.debugResult drRange
    else
      let a := f m P t (m.tile t)
      let m1 := (m.setTile t a.tile).sigs t a.sigs
      m1.modPart p.val fun P => (P.setMailbox a.data).debugResult a.result

def Part.dbgAddr (P : Part) : Nat := P.getR Reg.DBG_ADDR
def Part.dbgWrite (P : Part) : Bool := P.flagR Reg.DBG_ADDR_WRITE

/-- A scratchpad range the set-up path may use: none, or why not. Banks that are not ON refuse it (R401). -/
def Tile.debugRange (T : Tile) (addr n : Nat) : Option Nat :=
  if addr % 64 ≠ 0 ∨ padSize < addr + n then some drRange
  else
    let bs := banksOf addr n
    if bs.any fun b => (T.bank b).pwr != .on || (T.bank b).changing then some drRange
    else if bs.any fun b => (T.bank b).scrub then some drScrub
    else none

/-- A read refused for a pending-scrub bank sets SCRUB_REFUSED (R148). -/
def scrubSigs (r : Nat) : List Sig := if r = drScrub then [.evt Reg.TILE_EVT_SCRUB_REFUSED] else []

/-- ACCESS_SCRATCHPAD (R532): tags unchanged; a read poisons nothing, and counts and tests what it finds (R134, R135). -/
def execAccessScratchpad (w : Writer) (p : PartId) (s : State) : Host.Outcome State Fault Refusal :=
  lift (fun m => m.access w p 0 fun _ P t T =>
    let addr := P.dbgAddr
    match T.debugRange addr 256 with
    | some r => { tile := T, result := r, sigs := if P.dbgWrite then [] else scrubSigs r }
    | none =>
      if P.dbgWrite then { tile := T.storeLines (addr / 64) false (cutLines 4 P.mailbox) }
      else
        let q := T.senseLines t (linesOf addr 256)
        { tile := q.1, data := T.readBytes addr 256, result := if q.2.2 then drUe else drOk, sigs := q.2.1 }) s

/-- The error side of reading words of the store (R121): corrected pairs are written back and counted, and a bad one is tested. -/
def Tile.senseWords (T : Tile) (t : Nat) : List Nat → Tile × List Sig × Bool
  | [] => (T, [], false)
  | k :: ks =>
    let r : Tile × List Sig × Bool := match ProtClass.state.finds (T.storeFlips k) with
      | .clean => (T, [], false)
      | .corrected => (T.clearStoreErr k, [.count Reg.TILE_CE_COUNT 1], false)
      | .bad => (T, wordBadSigs t k, true)
    let q := r.1.senseWords t ks
    (q.1, r.2.1 ++ q.2.1, r.2.2 || q.2.2)

/-- ACCESS_INSTRUCTION_STORE (R532): words as the core sees them. -/
def execAccessInstructionStore (w : Writer) (p : PartId) (s : State) : Host.Outcome State Fault Refusal :=
  lift (fun m => m.access w p 1 fun _ P t T =>
    let addr := P.dbgAddr
    if 16384 < addr + 64 then { tile := T, result := drRange }
    else
      let ws := (List.range 64).map fun i => T.storeWord (addr + i)
      if P.dbgWrite then
        let put := fun (T : Tile) (i : Nat) =>
          let k := T.storeWord (addr + i)
          (T.writeStore k (BitVec.ofNat 32 (leNat ((P.mailbox.drop (4 * i)).take 4)))).clearStoreErr k
        { tile := (List.range 64).foldl put T }
      else
        let q := T.senseWords t ws
        { tile := q.1, data := ws.flatMap fun k => leBytes 4 (T.readStore k).toNat
          result := if q.2.2 then drUe else drOk, sigs := q.2.1 }) s

/-- ACCESS_ARRAY_LEVELS (R532): a row of an array whose content a READ would accept (R62). -/
def execAccessArrayLevels (w : Writer) (p : PartId) (s : State) : Host.Outcome State Fault Refusal :=
  lift (fun m => m.access w p 2 fun _ P _ T =>
    let a := bits P.dbgAddr 9 6
    let r := bits P.dbgAddr 0 9
    let A := T.arr a
    if P.dbgWrite || decide (2 ^ 15 ≤ P.dbgAddr) then { tile := T, result := drRange }
    else if A.power == .off || !(A.content == .valid || A.content == .patched || A.content == .empty) then
      { tile := T, result := drState }
    else { tile := T, data := packLevels ((List.range 512).map fun c => Fin.ofNat 16 (A.level r c).toNat) }) s

/-- ACCESS_CTRL_REGISTER (R532): a write under R167. -/
def execAccessCtrlRegister (w : Writer) (p : PartId) (s : State) : Host.Outcome State Fault Refusal :=
  lift (fun m => m.access w p 3 fun m P t T =>
    let n := P.dbgAddr
    if 0xFFF < n then { tile := T, result := drRange }
    else if P.dbgWrite then
      match crWrite T n (BitVec.ofNat 64 (leNat (P.mailbox.take 8))) with
      | some T1 => { tile := T1 }
      | none => { tile := T, result := drRange }
    else match crRead m t T n with
      | some v => { tile := T, data := leBytes 8 v.toNat, result := if T.descBad n then drUe else drOk }
      | none => { tile := T, result := drRange }) s

/-- ACCESS_ARRAY_PROGRAM (R532): PROG of one EMPTY array from 128 KiB of scratchpad. -/
def execAccessArrayProgram (w : Writer) (p : PartId) (phys : ArrPhys) (s : State) : Host.Outcome State Fault Refusal :=
  lift (fun m => m.access w p 4 fun m P t T =>
    let a := bits P.dbgAddr 9 6
    let src := P.getR Reg.DBG_SRC
    if !P.dbgWrite || decide (2 ^ 16 ≤ P.dbgAddr) then { tile := T, result := drRange }
    else match T.debugRange src 131072 with
      | some r => { tile := T, result := r, sigs := scrubSigs r }
      | none =>
        if !T.accepts (P.flagR Reg.ARR_CFG_AUTO_WAKE) [a] (· == .empty) || T.aq.any fun c => c.names.contains a then
          { tile := T, result := drState }
        else
          let rows := (List.range 512).map fun r => unpackLevels (T.readBytes (src + 256 * r) 256)
          let q := T.senseLines t (linesOf src 131072)
          let T1 := q.1.wakeArrs [a]
          if q.2.2 then { tile := T1.modArr a fun A => A.progAborted m.timeUs, result := drUe, sigs := .cycles [a] :: q.2.1 }
          else
            { tile := T1.modArr a fun A =>
                Arr.programmed { A with w8 := bits P.dbgAddr 15 1 == 1 } P m.timeUs a rows phys (P.getR Reg.ARR_CFG_DEFAULT_MAX_LOOPS)
              sigs := .cycles [a] :: q.2.1 }) s

/-- ACCESS_ARRAY_ERASE (R532, R69). -/
def execAccessArrayErase (w : Writer) (p : PartId) (phys : ArrPhys) (s : State) : Host.Outcome State Fault Refusal :=
  lift (fun m => m.access w p 5 fun m P _ T =>
    let a := bits P.dbgAddr 9 6
    let A := T.arr a
    if !P.dbgWrite || decide (2 ^ 15 ≤ P.dbgAddr) then { tile := T, result := drRange }
    else if A.power == .off || A.content == .loading || T.aq.any fun c => c.names.contains a then { tile := T, result := drState }
    else
      { tile := T.modArr a fun A => A.eraseDone m.timeUs (phys.eraseFail.contains a) }) s

/-! ### Diagnosis (R537) -/

/-- The unit that a code names for a test of R415, in its present place. -/
def Mach.diagUnit (m : Mach) (test u : Nat) : Option TestUnit :=
  let kind := bits u 56 8
  let q : Phys := ⟨Fin.ofNat 2 (bits u 48 1), Fin.ofNat 180 (bits u 40 8), Fin.ofNat 164 (bits u 32 8)⟩
  let inside := decide (bits u 40 8 < 180) && decide (bits u 32 8 < 164)
  let a := bits u 16 16
  let b := bits u 0 16
  let t := if inside then m.logicalAt q else none
  match test, kind with
  | 1, 1 => if a < 24 ∧ b < 1024 then t.map fun t => .line t (1024 * a + b) else none
  | 2, 2 => if a < 24 then t.map fun t => .bank t a else none
  | 3, 4 => if b < 18432 then t.map fun t => .word t b else none
  | 4, 3 => if a < 64 then t.map fun t => .array t a else none
  | 5, 6 => if inside ∧ a < 8 then some (.link (.mesh q (Fin.ofNat 8 a))) else none
  | 5, 7 => if inside then some (.link (.bridge q.pc)) else none
  | 6, 5 => if inside then some (.router q) else none
  | 7, 8 => if a < 32 ∧ b < 8 then some (.lane a b) else none
  | _, _ => none

/-- The unit lies in a free pallet, or is a lane of a port that no chained partition uses. -/
def Mach.diagAllowed (m : Mach) (u : TestUnit) : Bool :=
  match u with
  | .lane l _ => !((m.pallet (linkPallet l)).owner.any fun p => (m.part p.val).flagR Reg.TURN_CFG_CHAINED)
  | _ => (m.pallet (unitPallet (m.unitOf u).toNat)).owner.isNone

/-- A RUN: one test at a time; a further one while it runs is dropped. -/
def Mach.diagRun (m : Mach) (test : Nat) : Mach :=
  if m.diag.isSome then m
  else
    let u := m.getR Reg.DIAG_UNIT_LO_UNIT + 2 ^ 32 * m.getR Reg.DIAG_UNIT_HI_UNIT
    match m.diagUnit test u with
    | none => m.setR Reg.DIAG_STATUS_RESULT 4
    | some x =>
      if m.diagAllowed x then ({ m with diag := some x }.startTest x).setR Reg.DIAG_STATUS_RESULT 1
      else m.setR Reg.DIAG_STATUS_RESULT 4

/-- DIAG_RUN (R537): RUN with the test number written beside it; a reserved number is dropped (R12). -/
def execDiagRun (w : Writer) (test : Byte) (s : State) : Host.Outcome State Fault Refusal :=
  lift (fun m => m.moduleWrite w fun m =>
    let n := test.toNat
    let m1 := if 1 ≤ n ∧ n ≤ 7 then m.setR Reg.DIAG_CTRL_DIAG_TEST n
      else m.setR Reg.STAGE_EVT_WRITE_ERR (m.getR Reg.STAGE_EVT_WRITE_ERR ||| 16)
    m1.diagRun (m1.getR Reg.DIAG_CTRL_DIAG_TEST)) s

end Sys2Proof.Machine
end

