-- ==== Sys2Proof/Machine/Registers.lean ====
section
/-! DEFINITION. The register bus: writes and reads of BAR0 (R10 to R12, R372, R481, R485, R486, R514, R521 to R526, R530). -/
namespace Sys2Proof.Machine

/-! ### The map (R521, R522) -/

/-- A block, with the partition it belongs to (none for a module block), and an offset in it. -/
structure Place32 where
  part : Option PartId
  blk : Blk
  off : Nat
deriving DecidableEq, Repr, Inhabited

/-- Blocks of a partition's region. -/
def partBlk (off : Nat) : Option (Blk × Nat) :=
  if off < 0x1000 then some (.part, off)
  else if off < 0x2000 then some (.array, off - 0x1000)
  else if off < 0x3000 then some (.turn, off - 0x2000)
  else if off < 0x4000 then some (.gen, off - 0x3000)
  else if off < 0x5000 then some (.serve, off - 0x4000)
  else if off < 0x6000 then some (.load, off - 0x5000)
  else if off < 0x7000 then some (.stage, off - 0x6000)
  else if off < 0x8000 then some (.debug, off - 0x7000)
  else if off < 0x10000 then some (.tile, off - 0x8000)
  else none
/-- Blocks of the module. -/
def moduleBlk (off : Nat) : Option (Blk × Nat) :=
  if off < 0x1000 then some (.ident, off)
  else if off < 0x2000 then some (.stage, off - 0x1000)
  else if off < 0x3000 then some (.boot, off - 0x2000)
  else if off < 0x4000 then some (.diag, off - 0x3000)
  else if off < 0x5000 then some (.port, off - 0x4000)
  else if 0x8000 ≤ off ∧ off < 0xA000 then some (.svc, off - 0x8000)
  else if 0xC000 ≤ off ∧ off < 0x10000 then some (.pwr, off - 0xC000)
  else none

/-- The partition region and the offset in it of a BAR0 offset of a function. -/
def regionOf (func off : Nat) : Option (PartId × Nat) :=
  let base := if func = 0 then 0x1000000 else 0
  if h : base ≤ off ∧ (off - base) / 0x100000 < 16 then some (⟨(off - base) / 0x100000, h.2⟩, (off - base) % 0x100000) else none

/-- The register at a BAR0 offset, as a function reaches it. -/
def Mach.placeOf (m : Mach) (w : Writer) (off : Nat) : Option Place32 :=
  match regionOf w.func.val off with
  | some (p, o) => if m.reaches w p.val then (partBlk o).map fun b => ⟨some p, b.1, b.2⟩ else none
  | none => if w.func.val = 0 then (moduleBlk off).map fun b => ⟨none, b.1, b.2⟩ else none

/-! ### One scope's registers -/

def Mach.scopeGet (m : Mach) (s : Option PartId) (f : Fld) : Nat :=
  match s with
  | some p => (m.part p.val).getR f
  | none => m.getR f
def Mach.scopeSet (m : Mach) (s : Option PartId) (f : Fld) (v : Nat) : Mach :=
  match s with
  | some p => m.modPart p.val fun P => P.setR f v
  | none => m.setR f v
def Mach.scopeStage (m : Mach) (s : Option PartId) (f : Fld) (v : Nat) : Mach :=
  match s with
  | some p => m.modPart p.val fun P => { P with staged := stage P.staged f v }
  | none => { m with staged := stage m.staged f v }
def Mach.scopeStaged (m : Mach) (s : Option PartId) (f : Fld) : Nat :=
  match s with
  | some p => stagedOf (m.part p.val).regs (m.part p.val).staged f
  | none => stagedOf m.regs m.staged f

/-- The WRITE_ERR bit of a block (R528). -/
def Blk.errBit : Blk → Option Nat
  | .part => some 0
  | .array => some 1
  | .turn => some 2
  | .gen => some 3
  | .serve => some 4
  | .load => some 5
  | .tile => some 6
  | .debug => some 7
  | .boot => some 0
  | .port => some 1
  | .svc => some 2
  | .pwr => some 3
  | .diag => some 4
  | .ident => none
  | .stage => none
/-- The block's error bit is set (R12). -/
def Mach.writeErr (m : Mach) (s : Option PartId) (b : Blk) : Mach :=
  match b.errBit with
  | some i => m.scopeSet s Reg.STAGE_EVT_WRITE_ERR (m.scopeGet s Reg.STAGE_EVT_WRITE_ERR ||| 2 ^ i)
  | none => m

/-! ### Writes of fields (R10, R12) -/

/-- Every value outside the field's range is a reserved encoding. -/
def Fld.reserved (f : Fld) (v : Nat) : Bool := decide (v < f.min) || decide (f.max < v)
/-- A TILE_PROF field of a tile outside the partition's pallets (R155). -/
def Mach.foreignTile (m : Mach) (s : Option PartId) (f : Fld) : Bool :=
  f.blk == .tile && decide (0x1000 ≤ f.off) && (m.owner (8 * ((f.off - 0x1000) / 4) + f.lo / 4)) != s

/-- One field of a write, under its access code. A WO field acts with its register. -/
def Mach.writeField (m : Mach) (s : Option PartId) (v32 : Nat) (f : Fld) : Mach :=
  let v := bits v32 f.lo f.width
  match f.acc with
  | .ro => m
  | .wo => m
  | .rw => if f.reserved v then m.writeErr s f.blk else m.scopeSet s f v
  | .rw1c => m.scopeSet s f (m.scopeGet s f - (m.scopeGet s f &&& v))
  | .rws =>
    if m.foreignTile s f then m
    else if m.scopeGet s Reg.COMMIT_STATUS_STATE = 1 then m.scopeSet s Reg.STAGE_EVT_STAGE_BUSY 1
    else if f.reserved v then m.writeErr s f.blk
    else m.scopeStage s f v
  | .rwl =>
    match s with
    | some p =>
      if (m.part p.val).state != stFree then m.modPart p.val Part.lockViolation
      else if f.reserved v then m.writeErr s f.blk
      else m.scopeSet s f v
    | none => m

/-- The register's fields hold a command field with a reserved encoding: the write starts nothing and changes nothing else. -/
def badCommand (fs : List Fld) (v32 : Nat) : Bool := fs.any fun f => f.acc == .wo && f.reserved (bits v32 f.lo f.width)

/-! ### Commands that a write carries -/

/-- The effect of a command that the write spells. -/
def Mach.asCommand (m : Mach) (f : State → Host.Outcome State Fault Refusal) : Mach :=
  match f ⟨[], m⟩ with
  | .next s => s.m
  | .fault _ => m
  | .refused _ => m

/-- A command field, once the other fields of its register are written. What the cells do in a debug access that programs or erases an
array is a free value (log entry 96). -/
def Mach.commandField (m : Mach) (w : Writer) (x : Place32) (v32 : Nat) (f : Fld) : Mach :=
  let v := bits v32 f.lo f.width
  if f.acc != .wo then m
  else
    match x.part, f.blk, v with
    | some p, .part, 1 => m.asCommand (execSeal w p)
    | some p, .part, 2 => m.asCommand (execTeardown w p)
    | some p, .part, 3 => m.asCommand (execKill w p)
    | some p, .stage, 1 => m.asCommand (execCommit w (some p))
    | some p, .stage, 2 => m.asCommand (execDiscard w (some p))
    | none, .stage, 1 => m.asCommand (execCommit w none)
    | none, .stage, 2 => m.asCommand (execDiscard w none)
    | none, .boot, 1 => m.asCommand (execBootLoad w)
    | none, .boot, 2 => m.asCommand (execStage w)
    | none, .boot, 3 => m.asCommand (execBootAbort w)
    | none, .diag, 1 => m.asCommand (execDiagRun w (BitVec.ofNat 8 (m.getR Reg.DIAG_CTRL_DIAG_TEST)))
    | none, .port, 1 => if f.lo = 16 then m.asCommand (execClaim w) else m.asCommand (execRelease w)
    | some p, .load, op =>
      let place : PlaceNo := Fin.ofNat 4 (bits v32 24 2)
      if f.lo = 24 then m
      else if op = 1 then m.asCommand (execRegister w p place)
      else if op = 2 then m.asCommand (execLoad w p place)
      else if op = 3 then m.asCommand (execAbort w p place)
      else m.asCommand (execResume w p)
    | some p, .debug, 1 => m.asCommand (execHalt w p)
    | some p, .debug, 2 => m.asCommand (execStep w p)
    | some p, .debug, 3 => m.asCommand (execDbgResume w p)
    | some p, .debug, 4 =>
      match (m.part p.val).getR Reg.DBG_ADDR_SPACE with
      | 0 => m.asCommand (execAccessScratchpad w p)
      | 1 => m.asCommand (execAccessInstructionStore w p)
      | 2 => m.asCommand (execAccessArrayLevels w p)
      | 3 => m.asCommand (execAccessCtrlRegister w p)
      | 4 => Mach.asCommand { m with ctr := m.ctr + 1 } (execAccessArrayProgram w p (Config.freePhys m.ctr))
      | 5 => Mach.asCommand { m with ctr := m.ctr + 1 } (execAccessArrayErase w p (Config.freePhys m.ctr))
      | _ => m
    | _, _, _ => m

/-! ### Effects of a register that stand beside its fields -/

/-- Inputs whose chatter latch has been cleared act by their level again (R503). -/
def Mach.unlatch (old m : Mach) : Mach :=
  let was := old.getR Reg.SB_STATUS_CHATTER
  let lvl := m.getR Reg.SB_STATUS_LEVEL
  let gone := fun i => was.testBit i && !m.chatters i
  let m1 := if gone 0 then m.setPerst 0 (lvl.testBit 0) else m
  let m2 := if gone 1 then m1.setPerst 1 (lvl.testBit 1) else m1
  let m3 := if gone 3 then m2.setCauses 2 (!lvl.testBit 3) else m2
  if gone 5 then { m3 with chainIn := lvl.testBit 5 || m3.chainOut } else m3

/-- What follows from the fields written: the first records that clear with their event bits (R192, R224), the record count of the
trace (R534), and the chain's configuration (R498, R501). -/
def Mach.afterWrite (old m : Mach) (x : Place32) : Mach :=
  match x.part, x.blk with
  | some p, .tile =>
    let ev := fun (P : Part) => (tileFields 0x20).all fun f => f.acc != .rw1c || P.getR f == 0
    m.modPart p.val fun P =>
      let P1 := if x.off = 0x20 && ev P then P.setR Reg.MORTAR_EVT_FIRST_REASON 0 else P
      if x.off = 0x14 && P.getR Reg.TILE_EXC_EVT_CAUSE_SEEN == 0 then
        (P1.setR Reg.TILE_EXC_FIRST_CAUSE 0).setR Reg.TILE_EXC_FIRST_TILE_INDEX 0
      else P1
  | some p, .debug =>
    if (m.part p.val).flagR Reg.PROF_CTRL_TRACE_EN && !(old.part p.val).flagR Reg.PROF_CTRL_TRACE_EN then
      m.modPart p.val fun P => P.setR Reg.TRACE_HEAD_RECORDS 0
    else m
  | none, .port =>
    if x.off = 0x80 then Mach.unlatch old m
    else if x.off = 0x84 then
      let m1 := if m.flagR Reg.CHAIN_CFG_SYNC_SOURCE then m.freeRun else m
      if m.flagR Reg.CHAIN_CFG_CHAIN_MEMBER != old.flagR Reg.CHAIN_CFG_CHAIN_MEMBER then m1.chainOutput else m1
    else m
  | _, _ => m

/-! ### Writes of registers -/

/-- DEBUG_SETUP by the partition's level (R530): at PROFILE the profiling and trace registers act, and commands are answered. -/
def Mach.debugTakes (m : Mach) (p : PartId) (off : Nat) : Bool :=
  match m.debugLevel p.val with
  | 0 => false
  | 1 => off == 0 || (decide (0x020 ≤ off) && decide (off < 0x100))
  | _ => true

/-- Registers of LOAD_SETUP that a running load holds (R372). -/
def loadLocked (off : Nat) : Bool :=
  [0x08, 0x10, 0x14, 0x18, 0x1C, 0x20, 0x24, 0x28, 0x2C].contains off

/-- A write that its block takes. -/
def Mach.writeTaken (m : Mach) (w : Writer) (x : Place32) (v32 : Nat) : Mach :=
  let fs := fieldsAt x.blk x.off
  if badCommand fs v32 then m.writeErr x.part x.blk
  else
    let m1 := Mach.afterWrite m (fs.foldl (fun m f => m.writeField x.part v32 f) m) x
    fs.foldl (fun m f => m.commandField w x v32 f) m1

/-- A 4 B write of a register. -/
def Mach.write32 (m : Mach) (w : Writer) (off v32 : Nat) : Mach :=
  match m.placeOf w off with
  | none => m
  | some x =>
    match x.part with
    | some p =>
      if x.blk == .debug && !m.debugTakes p x.off then m
      else if x.blk == .load && (m.part p.val).loadOp.isSome && loadLocked x.off then
        m.onPart p fun c P => P.loadEvt c Reg.LOAD_EVT_WRITE_DROPPED
      else m.writeTaken w x v32
    | none =>
      if x.blk == .boot then m.bootOp w fun m => m.writeTaken w x v32
      else m.moduleWrite w fun m => m.writeTaken w x v32

/-- REGISTER_WRITE (R10, R481, R486): an 8 B write acts as two of 4 B, low address first; another size or alignment is dropped and
logged through AER; a poisoned write is dropped. -/
def execRegisterWrite (w : Writer) (off size : Nat) (val : W64) (poisoned : Bool) (s : State) : Host.Outcome State Fault Refusal :=
  lift (fun m =>
    if poisoned then m
    else if size = 4 ∧ off % 4 = 0 then m.write32 w off (val.toNat % 2 ^ 32)
    else if size = 8 ∧ off % 8 = 0 then (m.write32 w off (val.toNat % 2 ^ 32)).write32 w (off + 4) (val.toNat / 2 ^ 32)
    else m.send [.aer w.port]) s

/-! ### Reads (R10, R481, R524): an observation, with no effect -/

/-- A field of a partition's registers as read, where it is a view of other state. -/
def Mach.viewPart (m : Mach) (P : Part) (f : Fld) : Nat :=
  let k := P.keys
  if f = Reg.PART_STATUS_FIXED_SLOTS then b2n m.boot.fixedSlots
  else if f = Reg.PART_STATUS_DEBUG_LOCK then b2n m.boot.debugLock
  else if f = Reg.KV_FREE_FREE_PAGES then P.freePages
  else if f = Reg.KV_FREE_RESERVED_PAGES then P.reservedPages
  else if f = Reg.WVER_CFG_HOLD_COUNT then P.holdQueue.length
  else if f = Reg.WVER_PLACES_PLACE_STATE then
    ((List.range 4).map fun v => (P.place v).state.code * 2 ^ (4 * v)).foldl (· + ·) 0
  else if f = Reg.KEY_STATUS_EPOCH_LO then P.getR Reg.KEY_EPOCH % 65536
  else if f = Reg.KEY_STATUS_GEN then k.outGen
  else if f = Reg.KEY_STATUS_LINK_KEY then b2n k.link.isSome
  else if f = Reg.KEY_STATUS_HOST_KEYS then b2n k.inKey.isSome
  else if f = Reg.KEY_STATUS_ROTATING then b2n (k.inOld.isSome || k.outOld.isSome)
  else if f = Reg.KEY_STATUS_IMAGE_KEYS then (k.image.filter fun e => e.2.isSome).length
  else P.getR f

/-- The same of the module's registers. -/
def Mach.viewModule (m : Mach) (f : Fld) : Nat :=
  if f = Reg.ID_PRODUCT_STEPPING then steppingCode
  else if f = Reg.ID_SERIAL_LO_SERIAL then Config.serial.toNat % 2 ^ 32
  else if f = Reg.ID_SERIAL_HI_SERIAL then Config.serial.toNat / 2 ^ 32
  else if f = Reg.ID_MFG_YEAR then Config.mfgYear.toNat
  else if f = Reg.ID_MFG_WEEK then Config.mfgWeek.toNat
  else if f = Reg.SVC_STATUS_REBUILD then b2n (partIds.any fun p => (m.part p).rebuilding)
  else if f = Reg.SB_STATUS_LEVEL then m.getR f % 32 + 32 * b2n m.chainIn
  else if f.blk = .pwr ∧ 0x0100 ≤ f.off ∧ f.lo = 29 then b2n (m.pallet ((f.off - 0x0100) / 4)).parked
  else m.getR f

/-- A field as a read of its register returns it. -/
def Mach.readField (m : Mach) (s : Option PartId) (f : Fld) : Nat :=
  if f.acc = .wo then 0
  else match s with
    | some p => m.viewPart (m.part p.val) f
    | none => m.viewModule f

/-- A register's word, its fields each read by `g`. -/
def wordOf (fs : List Fld) (g : Fld → Nat) : Nat := (fs.map fun f => g f % 2 ^ f.width * 2 ^ f.lo).foldl (· + ·) 0

/-- Bytes of a window from an offset, zero beyond its contents. -/
def window32 (bs : List Byte) (off : Nat) : Nat := leNat ((bs.drop off).take 4)

/-- The 32 B of a trace record (R534). -/
def TraceRec.bytes (r : TraceRec) : List Byte :=
  leBytes 8 r.turnSeq ++ leBytes 4 r.timeUs ++ leBytes 2 r.beats ++ leBytes 2 r.held ++ leBytes 2 r.heldChain ++ leBytes 2 r.heldForced
    ++ leBytes 2 r.heldService ++ leBytes 2 r.lateTile ++ leBytes 2 r.decode
    ++ leBytes 1 (b2n r.abandoned + 2 * b2n r.replay + 4 * b2n r.digital + 8 * b2n r.commit) ++ leBytes 1 0 ++ leBytes 4 r.prefill

/-- The telemetry window, at 0x1000 of PWR_SETUP (R471, R472). -/
def Mach.telemetry32 (m : Mach) (off : Nat) : Nat :=
  if off < 0x40 then window32 m.telemetry.modRec off
  else window32 (Map.get [] m.telemetry.pallets ((off - 0x40) / 0x40)) (off % 0x40)

/-- A register's word in effect. -/
def Mach.read32At (m : Mach) (x : Place32) : Nat :=
  let word := wordOf (fieldsAt x.blk x.off) fun f => m.readField x.part f
  match x.part, x.blk with
  | some p, .debug =>
    if m.debugLevel p.val = 0 then 0 else word
  | none, .pwr => if 0x1000 ≤ x.off then m.telemetry32 (x.off - 0x1000) else word
  | _, _ => word

/-- The staged values of a register, and zero for every other field (R524). -/
def Mach.stagedAt (m : Mach) (x : Place32) : Nat :=
  wordOf ((fieldsAt x.blk x.off).filter fun f => f.acc == .rws) fun f => m.scopeStaged x.part f

/-- A 4 B read of BAR0. -/
def Mach.read32 (m : Mach) (w : Writer) (off : Nat) : Nat :=
  match regionOf w.func.val off with
  | some (p, o) =>
    if !m.reaches w p.val then 0
    else if 0x7F000 ≤ o ∧ o < 0x80000 then m.read32At ⟨none, .ident, o - 0x7F000⟩
    else if 0x80000 ≤ o ∧ o < 0x90000 then
      match partBlk (o - 0x80000) with
      | some b => m.stagedAt ⟨some p, b.1, b.2⟩
      | none => 0
    else if 0x10000 ≤ o ∧ o < 0x20000 then
      if m.debugLevel p.val = 0 then 0
      else match Map.get none (m.part p.val).trace ((o - 0x10000) / 32) with
        | some r => window32 r.bytes (o % 32)
        | none => 0
    else match partBlk o with
      | some b => m.read32At ⟨some p, b.1, b.2⟩
      | none => 0
  | none =>
    if w.func.val ≠ 0 then 0
    else if 0x80000 ≤ off ∧ off < 0x90000 then
      if !m.ready then 0
      else match moduleBlk (off - 0x80000) with
        | some b => m.stagedAt ⟨none, b.1, b.2⟩
        | none => 0
    else match moduleBlk off with
      | some b => if m.ready || b.1 == .ident || b.1 == .boot then m.read32At ⟨none, b.1, b.2⟩ else 0
      | none => 0

/-- A read of a doorbell page in BAR2 (R302). -/
def Mach.bellRead (_ : Mach) (_ : Writer) (_ : PartId) (_ : Nat) : Nat := 0
/-- A read of BAR0: none where it completes with Completer Abort. -/
def Mach.busRead (m : Mach) (w : Writer) (off size : Nat) : Option Nat :=
  if size = 4 ∧ off % 4 = 0 then some (m.read32 w off)
  else if size = 8 ∧ off % 8 = 0 then some (m.read32 w off + 2 ^ 32 * m.read32 w (off + 4))
  else none

end Sys2Proof.Machine
end

