-- ==== Sys2Proof/Machine/Words.lean ====
section
/-! DEFINITION. Instruction words: the formats and opcodes (R159 to R161), and words that are no instruction. -/
namespace Sys2Proof.Machine

/-- An ALU word (R162). -/
def legalAlu (fn b : Nat) : Bool :=
  decide (fn ≤ 0x00D) || (decide (0x010 ≤ fn) && decide (fn ≤ 0x012)) || (decide (0x014 ≤ fn) && decide (fn ≤ 0x017))
    || ((fn == 0x018 || fn == 0x019) && b == 0)

/-- A word with no reserved function, kind or type and no bit set in a field marked zero. The reserved encodings that a CRW
would write depend on a register and are left to CRW. -/
def legalWord (w : Nat) : Bool :=
  let major := bits w 26 6
  let d := bits w 21 5
  let a := bits w 16 5
  let b := bits w 11 5
  if major = 0x01 then legalAlu (bits w 0 11) b
  else if major = 0x06 then bits w 8 8 == 0 && bits w 6 2 != 3
  else if major = 0x09 then decide (a < 4)
  else if 0x02 ≤ major ∧ major ≤ 0x1C then true
  else if major = 0x1D then bits w 0 8 == 0 && crKnown (bits w 8 12)
  else if major = 0x20 then
    match allVFn[bits w 0 5]? with
    | some fn => vopLegal fn d a b (VType.ofCode (bits w 5 3))
    | none => false
  else if major = 0x21 then
    let k := bits w 13 3
    k != 7 && (k != 5 && k != 6 || d == 0)
  else if major = 0x28 ∨ major = 0x29 ∨ major = 0x2B then blockReg d && bits w 0 21 == 0
  else if major = 0x2A then bits w 0 21 == 0
  else if major = 0x30 then decide (bits w 18 3 < 6) && bits w 0 10 == 0
  else if major = 0x31 then
    match bits w 24 2 with
    | 0 => true
    | 1 => bits w 8 16 == 0
    | 2 => bits w 12 12 == 0 && bits w 0 8 == 0
    | _ => false
  else false

/-! ### Decoding (R159, R161) -/

/-- A field of a word as a register number. -/
def regAt (w lo : Nat) : RegNo := Fin.ofNat 32 (bits w lo 5)
/-- The low 16 bits of a word. -/
def imm16 (w : Nat) : W16 := BitVec.ofNat 16 w

/-- ALU functions (R162). -/
def decodeAlu (t : TileId) (d a b : RegNo) (fn : Nat) : Option Instr :=
  match fn with
  | 0x000 => some (.add t d a b)
  | 0x001 => some (.sub t d a b)
  | 0x002 => some (.and t d a b)
  | 0x003 => some (.or t d a b)
  | 0x004 => some (.xor t d a b)
  | 0x005 => some (.shl t d a b)
  | 0x006 => some (.shr t d a b)
  | 0x007 => some (.sar t d a b)
  | 0x008 => some (.slt t d a b)
  | 0x009 => some (.sltu t d a b)
  | 0x00A => some (.min t d a b)
  | 0x00B => some (.max t d a b)
  | 0x00C => some (.minu t d a b)
  | 0x00D => some (.maxu t d a b)
  | 0x010 => some (.mul t d a b)
  | 0x011 => some (.mulhs t d a b)
  | 0x012 => some (.mulhu t d a b)
  | 0x014 => some (.div t d a b)
  | 0x015 => some (.divu t d a b)
  | 0x016 => some (.rem t d a b)
  | 0x017 => some (.remu t d a b)
  | 0x018 => some (.clz t d a b)
  | 0x019 => some (.popc t d a b)
  | _ => none

/-- VOP functions (R171). -/
def decodeVop (t : TileId) (d a b : RegNo) (pg : Fin 8) (ty : VType) (fn : Nat) : Option Instr :=
  match fn with
  | 0x00 => some (.vadd t d a b pg ty)
  | 0x01 => some (.vsub t d a b pg ty)
  | 0x02 => some (.vmul t d a b pg ty)
  | 0x03 => some (.vfma t d a b pg ty)
  | 0x04 => some (.vmin t d a b pg ty)
  | 0x05 => some (.vmax t d a b pg ty)
  | 0x06 => some (.vadds t d a b pg ty)
  | 0x07 => some (.vabs t d a b pg ty)
  | 0x08 => some (.vand t d a b pg ty)
  | 0x09 => some (.vor t d a b pg ty)
  | 0x0A => some (.vxor t d a b pg ty)
  | 0x0B => some (.vshl t d a b pg ty)
  | 0x0C => some (.vshr t d a b pg ty)
  | 0x0D => some (.vsar t d a b pg ty)
  | 0x0E => some (.vcvt t d a b pg ty)
  | 0x0F => some (.vsel t d a b pg ty)
  | 0x10 => some (.vcmpeq t d a b pg ty)
  | 0x11 => some (.vcmplt t d a b pg ty)
  | 0x12 => some (.vcmple t d a b pg ty)
  | 0x13 => some (.vexp2 t d a b pg ty)
  | 0x14 => some (.vlog2 t d a b pg ty)
  | 0x15 => some (.vrcp t d a b pg ty)
  | 0x16 => some (.vrsq t d a b pg ty)
  | 0x17 => some (.vredsum t d a b pg ty)
  | 0x18 => some (.vredmax t d a b pg ty)
  | 0x19 => some (.vbcast t d a b pg ty)
  | 0x1A => some (.vext t d a b pg ty)
  | 0x1B => some (.vpand t d a b pg ty)
  | 0x1C => some (.vpnot t d a b pg ty)
  | _ => none

/-- VMEM kinds (R174). -/
def decodeVmem (t : TileId) (v a : RegNo) (off : BitVec 13) (kind : Nat) : Option Instr :=
  match kind with
  | 0 => some (.vld t v a off)
  | 1 => some (.vldt t v a off)
  | 2 => some (.vldtk t v a off)
  | 3 => some (.vst t v a off)
  | 4 => some (.vstf t v a off)
  | 5 => some (.vtagset t v a off)
  | 6 => some (.vtagclr t v a off)
  | _ => none

/-- A command block by its major opcode and the OP of the block in the registers it names (R56, R176, R181). -/
def decodeBlock (t : TileId) (n : RegNo) (major op : Nat) : Option Instr :=
  match major, op with
  | 0x28, 1 => some (.kilnMul t n)
  | 0x28, 2 => some (.kilnStore t n)
  | 0x28, _ => some (.badBlock t n true)
  | 0x29, 1 => some (.pass t n)
  | 0x29, 2 => some (.read t n)
  | 0x29, 3 => some (.prog t n)
  | 0x29, 4 => some (.refresh t n)
  | 0x29, 5 => some (.erase t n)
  | 0x29, 6 => some (.power t n)
  | 0x29, 7 => some (.status t n)
  | 0x29, _ => some (.badCmd t n)
  | 0x2B, 1 => some (.put t n)
  | 0x2B, 2 => some (.putFill t n)
  | 0x2B, 3 => some (.get t n)
  | 0x2B, 4 => some (.addI32 t n)
  | 0x2B, 5 => some (.addF32 t n)
  | 0x2B, _ => some (.badBlock t n false)
  | _, _ => none

/-- FLAG functions (R184). -/
def decodeFlag (t : TileId) (d : RegNo) (f : FlagNo) (fn : Nat) : Option Instr :=
  match fn with
  | 0 => some (.falloc t f)
  | 1 => some (.fset t f)
  | 2 => some (.fclr t f)
  | 3 => some (.fwait t f)
  | 4 => some (.fwaitc t f)
  | 5 => some (.ftest t d f)
  | _ => none

/-- BT functions (R186 to R188). -/
def decodeBt (t : TileId) (w : Nat) : Option Instr :=
  match bits w 24 2 with
  | 0 => some (.beat t (BitVec.ofNat 16 (bits w 8 16)) (BitVec.ofNat 8 w))
  | 1 => some (.turn t (BitVec.ofNat 8 w))
  | 2 => some (.fence t (BitVec.ofNat 4 (bits w 8 4)))
  | _ => none

/-- SHI kinds (R163). -/
def decodeShi (t : TileId) (d a : RegNo) (amt : BitVec 6) (kind : Nat) : Option Instr :=
  match kind with
  | 0 => some (.shiShl t d a amt)
  | 1 => some (.shiShr t d a amt)
  | 2 => some (.shiSar t d a amt)
  | _ => none

/-- The fields of a word by its major opcode (R161). -/
def decodeFields (t : TileId) (op w : Nat) : Option Instr :=
  let d := regAt w 21
  let a := regAt w 16
  match bits w 26 6 with
  | 0x01 => decodeAlu t d a (regAt w 11) (bits w 0 11)
  | 0x02 => some (.addi t d a (imm16 w))
  | 0x03 => some (.andi t d a (imm16 w))
  | 0x04 => some (.ori t d a (imm16 w))
  | 0x05 => some (.xori t d a (imm16 w))
  | 0x06 => decodeShi t d a (BitVec.ofNat 6 w) (bits w 6 2)
  | 0x07 => some (.slti t d a (imm16 w))
  | 0x08 => some (.sltiu t d a (imm16 w))
  | 0x09 => some (.limm t d a (imm16 w))
  | 0x0A => some (.jal t d (BitVec.ofNat 21 w))
  | 0x0B => some (.jalr t d a (imm16 w))
  | 0x0C => some (.beq t d a (imm16 w))
  | 0x0D => some (.bne t d a (imm16 w))
  | 0x0E => some (.blt t d a (imm16 w))
  | 0x0F => some (.bge t d a (imm16 w))
  | 0x10 => some (.bltu t d a (imm16 w))
  | 0x11 => some (.bgeu t d a (imm16 w))
  | 0x12 => some (.ldb t d a (imm16 w))
  | 0x13 => some (.ldbu t d a (imm16 w))
  | 0x14 => some (.ldh t d a (imm16 w))
  | 0x15 => some (.ldhu t d a (imm16 w))
  | 0x16 => some (.ldw t d a (imm16 w))
  | 0x17 => some (.ldwu t d a (imm16 w))
  | 0x18 => some (.ldd t d a (imm16 w))
  | 0x19 => some (.stb t d a (imm16 w))
  | 0x1A => some (.sth t d a (imm16 w))
  | 0x1B => some (.stw t d a (imm16 w))
  | 0x1C => some (.std t d a (imm16 w))
  | 0x1D => some (if bits w 20 1 = 0 then .crr t d (BitVec.ofNat 12 (bits w 8 12)) else .crw t d (BitVec.ofNat 12 (bits w 8 12)))
  | 0x20 => decodeVop t d a (regAt w 11) (Fin.ofNat 8 (bits w 8 3)) (VType.ofCode (bits w 5 3)) (bits w 0 5)
  | 0x21 => decodeVmem t d a (BitVec.ofNat 13 w) (bits w 13 3)
  | 0x2A => some (.acq t d)
  | 0x30 => decodeFlag t d (Fin.ofNat 256 (bits w 10 8)) (bits w 18 3)
  | 0x31 => decodeBt t w
  | major => decodeBlock t d major op

/-- The instruction that a word spells on a tile; none for a word that raises ILLEGAL at issue (R160). `op` is the OP of the command
block in the registers that the word names. -/
def decodeWord (t : TileId) (op : Nat) (w : W32) : Option Instr := if legalWord w.toNat then decodeFields t op w.toNat else none

/-- The instruction at a tile's program counter: what its core issues next (R157; log entry 6). -/
def Mach.nextInstr (m : Mach) (t : TileId) : Option Instr :=
  let T := m.tile t.val
  let w := T.readStore (T.storeWord (T.pc / 4))
  decodeWord t (blk (T.block (bits w.toNat 21 5)) 0 1) w

/-- A word that is no instruction reaches issue (R160); a legal word is no such event (log entry 5). `none` is the sequential
fetch past 0xFFFC, which `Tile.issue` raises for every command once the program counter has passed the end. -/
def execIllegal (t : TileId) (word : Option W32) (s : State) : Host.Outcome State Fault Refusal :=
  lift (fun m => m.act t.val fun T => T.issue t.val [] fun T =>
    match word with
    | some w => if (decodeWord t 0 w).isSome then (T, []) else T.raiseAt .illegal (w.setWidth 64)
    | none => (T, [])) s

end Sys2Proof.Machine
end

