-- ==== Sys2Proof/Machine/Dispatch.lean ====
section
/-! DEFINITION. One arm per command: each calls the command's meaning. -/
namespace Sys2Proof.Machine

def exec (i : Instr) (s : State) : Host.Outcome State Fault Refusal :=
  match i with
  | .powerOn feed strap kat => Sys2Proof.Machine.execPowerOn feed strap kat s
  | .bootLoad by_ => Sys2Proof.Machine.execBootLoad by_ s
  | .pldmFwActivate img => Sys2Proof.Machine.execPldmFwActivate img s
  | .fwCheck img => Sys2Proof.Machine.execFwCheck img s
  | .bringUp out eraseFail linkFaults => Sys2Proof.Machine.execBringUp out eraseFail linkFaults s
  | .stage by_ => Sys2Proof.Machine.execStage by_ s
  | .bootAbort by_ => Sys2Proof.Machine.execBootAbort by_ s
  | .svnFloorRaise => Sys2Proof.Machine.execSvnFloorRaise s
  | .handoverHold digestOk holdUs => Sys2Proof.Machine.execHandoverHold digestOk holdUs s
  | .handoverTimeout => Sys2Proof.Machine.execHandoverTimeout s
  | .moduleBeat => Sys2Proof.Machine.execModuleBeat s
  | .unparkDone pal => Sys2Proof.Machine.execUnparkDone pal s
  | .seal by_ p => Sys2Proof.Machine.execSeal by_ p s
  | .teardown by_ p => Sys2Proof.Machine.execTeardown by_ p s
  | .kill by_ p => Sys2Proof.Machine.execKill by_ p s
  | .scrubDone p eraseFail => Sys2Proof.Machine.execScrubDone p eraseFail s
  | .commit by_ scope => Sys2Proof.Machine.execCommit by_ scope s
  | .discard by_ scope => Sys2Proof.Machine.execDiscard by_ scope s
  | .registerWrite by_ off size val poisoned => Sys2Proof.Machine.execRegisterWrite by_ off size val poisoned s
  | .claim by_ => Sys2Proof.Machine.execClaim by_ s
  | .release by_ => Sys2Proof.Machine.execRelease by_ s
  | .leaseLapse => Sys2Proof.Machine.execLeaseLapse s
  | .sqTail by_ p val => Sys2Proof.Machine.execSqTail by_ p val s
  | .cqHead by_ p val => Sys2Proof.Machine.execCqHead by_ p val s
  | .eqHead by_ p val => Sys2Proof.Machine.execEqHead by_ p val s
  | .streamHead by_ p n val => Sys2Proof.Machine.execStreamHead by_ p n val s
  | .descriptorReadDone p seq data => Sys2Proof.Machine.execDescriptorReadDone p seq data s
  | .ringFetchError p seq => Sys2Proof.Machine.execRingFetchError p seq s
  | .payloadReadDone p seq kind data => Sys2Proof.Machine.execPayloadReadDone p seq kind data s
  | .generate p => Sys2Proof.Machine.execGenerate p s
  | .tune p => Sys2Proof.Machine.execTune p s
  | .cancel p => Sys2Proof.Machine.execCancel p s
  | .draft p => Sys2Proof.Machine.execDraft p s
  | .steerWrite p => Sys2Proof.Machine.execSteerWrite p s
  | .steerRead p => Sys2Proof.Machine.execSteerRead p s
  | .prefillPromotion p slot => Sys2Proof.Machine.execPrefillPromotion p slot s
  | .coalesceTimer p ring => Sys2Proof.Machine.execCoalesceTimer p ring s
  | .turnBoundary p => Sys2Proof.Machine.execTurnBoundary p s
  | .idleBoundary p => Sys2Proof.Machine.execIdleBoundary p s
  | .resultCollect p slot => Sys2Proof.Machine.execResultCollect p slot s
  | .callPoint p => Sys2Proof.Machine.execCallPoint p s
  | .beatBoundary p => Sys2Proof.Machine.execBeatBoundary p s
  | .holdWatchdogExpiry p => Sys2Proof.Machine.execHoldWatchdogExpiry p s
  | .turnAbandon p => Sys2Proof.Machine.execTurnAbandon p s
  | .abandonmentBoundary p => Sys2Proof.Machine.execAbandonmentBoundary p s
  | .forcedSlotDue t a => Sys2Proof.Machine.execForcedSlotDue t a s
  | .turnMarkInstant => Sys2Proof.Machine.execTurnMarkInstant s
  | .chainHoldInDeassert at_ => Sys2Proof.Machine.execChainHoldInDeassert at_ s
  | .chainWire => Sys2Proof.Machine.execChainWire s
  | .add t d a b => Sys2Proof.Machine.execAdd t d a b s
  | .sub t d a b => Sys2Proof.Machine.execSub t d a b s
  | .and t d a b => Sys2Proof.Machine.execAnd t d a b s
  | .or t d a b => Sys2Proof.Machine.execOr t d a b s
  | .xor t d a b => Sys2Proof.Machine.execXor t d a b s
  | .shl t d a b => Sys2Proof.Machine.execShl t d a b s
  | .shr t d a b => Sys2Proof.Machine.execShr t d a b s
  | .sar t d a b => Sys2Proof.Machine.execSar t d a b s
  | .slt t d a b => Sys2Proof.Machine.execSlt t d a b s
  | .sltu t d a b => Sys2Proof.Machine.execSltu t d a b s
  | .min t d a b => Sys2Proof.Machine.execMin t d a b s
  | .max t d a b => Sys2Proof.Machine.execMax t d a b s
  | .minu t d a b => Sys2Proof.Machine.execMinu t d a b s
  | .maxu t d a b => Sys2Proof.Machine.execMaxu t d a b s
  | .mul t d a b => Sys2Proof.Machine.execMul t d a b s
  | .mulhs t d a b => Sys2Proof.Machine.execMulhs t d a b s
  | .mulhu t d a b => Sys2Proof.Machine.execMulhu t d a b s
  | .div t d a b => Sys2Proof.Machine.execDiv t d a b s
  | .divu t d a b => Sys2Proof.Machine.execDivu t d a b s
  | .rem t d a b => Sys2Proof.Machine.execRem t d a b s
  | .remu t d a b => Sys2Proof.Machine.execRemu t d a b s
  | .clz t d a b => Sys2Proof.Machine.execClz t d a b s
  | .popc t d a b => Sys2Proof.Machine.execPopc t d a b s
  | .addi t d a imm => Sys2Proof.Machine.execAddi t d a imm s
  | .andi t d a imm => Sys2Proof.Machine.execAndi t d a imm s
  | .ori t d a imm => Sys2Proof.Machine.execOri t d a imm s
  | .xori t d a imm => Sys2Proof.Machine.execXori t d a imm s
  | .shiShl t d a amt => Sys2Proof.Machine.execShiShl t d a amt s
  | .shiShr t d a amt => Sys2Proof.Machine.execShiShr t d a amt s
  | .shiSar t d a amt => Sys2Proof.Machine.execShiSar t d a amt s
  | .slti t d a imm => Sys2Proof.Machine.execSlti t d a imm s
  | .sltiu t d a imm => Sys2Proof.Machine.execSltiu t d a imm s
  | .limm t d a imm => Sys2Proof.Machine.execLimm t d a imm s
  | .jal t d off => Sys2Proof.Machine.execJal t d off s
  | .jalr t d a imm => Sys2Proof.Machine.execJalr t d a imm s
  | .beq t a b off => Sys2Proof.Machine.execBeq t a b off s
  | .bne t a b off => Sys2Proof.Machine.execBne t a b off s
  | .blt t a b off => Sys2Proof.Machine.execBlt t a b off s
  | .bge t a b off => Sys2Proof.Machine.execBge t a b off s
  | .bltu t a b off => Sys2Proof.Machine.execBltu t a b off s
  | .bgeu t a b off => Sys2Proof.Machine.execBgeu t a b off s
  | .ldb t d a imm => Sys2Proof.Machine.execLdb t d a imm s
  | .ldbu t d a imm => Sys2Proof.Machine.execLdbu t d a imm s
  | .ldh t d a imm => Sys2Proof.Machine.execLdh t d a imm s
  | .ldhu t d a imm => Sys2Proof.Machine.execLdhu t d a imm s
  | .ldw t d a imm => Sys2Proof.Machine.execLdw t d a imm s
  | .ldwu t d a imm => Sys2Proof.Machine.execLdwu t d a imm s
  | .ldd t d a imm => Sys2Proof.Machine.execLdd t d a imm s
  | .stb t s0 a imm => Sys2Proof.Machine.execStb t s0 a imm s
  | .sth t s0 a imm => Sys2Proof.Machine.execSth t s0 a imm s
  | .stw t s0 a imm => Sys2Proof.Machine.execStw t s0 a imm s
  | .std t s0 a imm => Sys2Proof.Machine.execStd t s0 a imm s
  | .crr t x n => Sys2Proof.Machine.execCrr t x n s
  | .crw t x n => Sys2Proof.Machine.execCrw t x n s
  | .vadd t vd va vb pg ty => Sys2Proof.Machine.execVadd t vd va vb pg ty s
  | .vsub t vd va vb pg ty => Sys2Proof.Machine.execVsub t vd va vb pg ty s
  | .vmul t vd va vb pg ty => Sys2Proof.Machine.execVmul t vd va vb pg ty s
  | .vfma t vd va vb pg ty => Sys2Proof.Machine.execVfma t vd va vb pg ty s
  | .vmin t vd va vb pg ty => Sys2Proof.Machine.execVmin t vd va vb pg ty s
  | .vmax t vd va vb pg ty => Sys2Proof.Machine.execVmax t vd va vb pg ty s
  | .vadds t vd va vb pg ty => Sys2Proof.Machine.execVadds t vd va vb pg ty s
  | .vabs t vd va vb pg ty => Sys2Proof.Machine.execVabs t vd va vb pg ty s
  | .vand t vd va vb pg ty => Sys2Proof.Machine.execVand t vd va vb pg ty s
  | .vor t vd va vb pg ty => Sys2Proof.Machine.execVor t vd va vb pg ty s
  | .vxor t vd va vb pg ty => Sys2Proof.Machine.execVxor t vd va vb pg ty s
  | .vshl t vd va vb pg ty => Sys2Proof.Machine.execVshl t vd va vb pg ty s
  | .vshr t vd va vb pg ty => Sys2Proof.Machine.execVshr t vd va vb pg ty s
  | .vsar t vd va vb pg ty => Sys2Proof.Machine.execVsar t vd va vb pg ty s
  | .vcvt t vd va vb pg ty => Sys2Proof.Machine.execVcvt t vd va vb pg ty s
  | .vsel t vd va vb pg ty => Sys2Proof.Machine.execVsel t vd va vb pg ty s
  | .vcmpeq t vd va vb pg ty => Sys2Proof.Machine.execVcmpeq t vd va vb pg ty s
  | .vcmplt t vd va vb pg ty => Sys2Proof.Machine.execVcmplt t vd va vb pg ty s
  | .vcmple t vd va vb pg ty => Sys2Proof.Machine.execVcmple t vd va vb pg ty s
  | .vexp2 t vd va vb pg ty => Sys2Proof.Machine.execVexp2 t vd va vb pg ty s
  | .vlog2 t vd va vb pg ty => Sys2Proof.Machine.execVlog2 t vd va vb pg ty s
  | .vrcp t vd va vb pg ty => Sys2Proof.Machine.execVrcp t vd va vb pg ty s
  | .vrsq t vd va vb pg ty => Sys2Proof.Machine.execVrsq t vd va vb pg ty s
  | .vredsum t vd va vb pg ty => Sys2Proof.Machine.execVredsum t vd va vb pg ty s
  | .vredmax t vd va vb pg ty => Sys2Proof.Machine.execVredmax t vd va vb pg ty s
  | .vbcast t vd va vb pg ty => Sys2Proof.Machine.execVbcast t vd va vb pg ty s
  | .vext t vd va vb pg ty => Sys2Proof.Machine.execVext t vd va vb pg ty s
  | .vpand t vd va vb pg ty => Sys2Proof.Machine.execVpand t vd va vb pg ty s
  | .vpnot t vd va vb pg ty => Sys2Proof.Machine.execVpnot t vd va vb pg ty s
  | .vld t v a off => Sys2Proof.Machine.execVld t v a off s
  | .vldt t v a off => Sys2Proof.Machine.execVldt t v a off s
  | .vldtk t v a off => Sys2Proof.Machine.execVldtk t v a off s
  | .vst t v a off => Sys2Proof.Machine.execVst t v a off s
  | .vstf t v a off => Sys2Proof.Machine.execVstf t v a off s
  | .vtagset t v a off => Sys2Proof.Machine.execVtagset t v a off s
  | .vtagclr t v a off => Sys2Proof.Machine.execVtagclr t v a off s
  | .kilnMul t n => Sys2Proof.Machine.execKilnMul t n s
  | .kilnStore t n => Sys2Proof.Machine.execKilnStore t n s
  | .kilnComplete t => Sys2Proof.Machine.execKilnComplete t s
  | .pass t n => Sys2Proof.Machine.execPass t n s
  | .passPhasesStart t => Sys2Proof.Machine.execPassPhasesStart t s
  | .passPhasesEnd t => Sys2Proof.Machine.execPassPhasesEnd t s
  | .read t n => Sys2Proof.Machine.execRead t n s
  | .prog t n => Sys2Proof.Machine.execProg t n s
  | .refresh t n => Sys2Proof.Machine.execRefresh t n s
  | .erase t n => Sys2Proof.Machine.execErase t n s
  | .power t n => Sys2Proof.Machine.execPower t n s
  | .status t n => Sys2Proof.Machine.execStatus t n s
  | .arrayCmdComplete t cmd phys => Sys2Proof.Machine.execArrayCmdComplete t cmd phys s
  | .acq t n => Sys2Proof.Machine.execAcq t n s
  | .put t n => Sys2Proof.Machine.execPut t n s
  | .putFill t n => Sys2Proof.Machine.execPutFill t n s
  | .get t n => Sys2Proof.Machine.execGet t n s
  | .addI32 t n => Sys2Proof.Machine.execAddI32 t n s
  | .addF32 t n => Sys2Proof.Machine.execAddF32 t n s
  | .packetArrival pkt err => Sys2Proof.Machine.execPacketArrival pkt err s
  | .parkEntryWrite t q => Sys2Proof.Machine.execParkEntryWrite t q s
  | .remoteAck pkt => Sys2Proof.Machine.execRemoteAck pkt s
  | .getDataArrival pkt => Sys2Proof.Machine.execGetDataArrival pkt s
  | .sPut p station target lines => Sys2Proof.Machine.execSPut p station target lines s
  | .sFill p station target lines => Sys2Proof.Machine.execSFill p station target lines s
  | .sGet p station target n => Sys2Proof.Machine.execSGet p station target n s
  | .sTget p station target => Sys2Proof.Machine.execSTget p station target s
  | .sTgetWatchRead t i0 => Sys2Proof.Machine.execSTgetWatchRead t i0 s
  | .stationResponse station => Sys2Proof.Machine.execStationResponse station s
  | .flitRetransmit link nth => Sys2Proof.Machine.execFlitRetransmit link nth s
  | .linkErrorRate link => Sys2Proof.Machine.execLinkErrorRate link s
  | .routeTableRewrite => Sys2Proof.Machine.execRouteTableRewrite s
  | .falloc t f => Sys2Proof.Machine.execFalloc t f s
  | .fset t f => Sys2Proof.Machine.execFset t f s
  | .fclr t f => Sys2Proof.Machine.execFclr t f s
  | .fwait t f => Sys2Proof.Machine.execFwait t f s
  | .fwaitc t f => Sys2Proof.Machine.execFwaitc t f s
  | .ftest t d f => Sys2Proof.Machine.execFtest t d f s
  | .beat t k d => Sys2Proof.Machine.execBeat t k d s
  | .turn t d => Sys2Proof.Machine.execTurn t d s
  | .fence t engines => Sys2Proof.Machine.execFence t engines s
  | .rowRefreshSlot t a row data checks => Sys2Proof.Machine.execRowRefreshSlot t a row data checks s
  | .refreshPeriodUpdate t => Sys2Proof.Machine.execRefreshPeriodUpdate t s
  | .refreshOverdue t a row => Sys2Proof.Machine.execRefreshOverdue t a row s
  | .calibrationDue t a => Sys2Proof.Machine.execCalibrationDue t a s
  | .calibrationStep t a sums diffs codes => Sys2Proof.Machine.execCalibrationStep t a sums diffs codes s
  | .calEscalate t a => Sys2Proof.Machine.execCalEscalate t a s
  | .calRestart t a => Sys2Proof.Machine.execCalRestart t a s
  | .outlierVerification t a phys => Sys2Proof.Machine.execOutlierVerification t a phys s
  | .accStatusUpdate p => Sys2Proof.Machine.execAccStatusUpdate p s
  | .patrol t line upsets => Sys2Proof.Machine.execPatrol t line upsets s
  | .zeroingPassDone t bank readBackOk => Sys2Proof.Machine.execZeroingPassDone t bank readBackOk s
  | .bankPowerChangeDone t bank => Sys2Proof.Machine.execBankPowerChangeDone t bank s
  | .tLine t line fault => Sys2Proof.Machine.execTLine t line fault s
  | .tBank t bank fault => Sys2Proof.Machine.execTBank t bank fault s
  | .tWord t word fault => Sys2Proof.Machine.execTWord t word fault s
  | .tArray t a fault => Sys2Proof.Machine.execTArray t a fault s
  | .tLink link fault => Sys2Proof.Machine.execTLink link fault s
  | .tRouter at_ fault => Sys2Proof.Machine.execTRouter at_ fault s
  | .tLane l lane fault => Sys2Proof.Machine.execTLane l lane fault s
  | .tileMoveDone t phys => Sys2Proof.Machine.execTileMoveDone t phys s
  | .replaceDone pal hitchMs => Sys2Proof.Machine.execReplaceDone pal hitchMs s
  | .replacementHoldLimit pal => Sys2Proof.Machine.execReplacementHoldLimit pal s
  | .hostPortDown port => Sys2Proof.Machine.execHostPortDown port s
  | .functionLevelReset f => Sys2Proof.Machine.execFunctionLevelReset f s
  | .perstChange port asserted => Sys2Proof.Machine.execPerstChange port asserted s
  | .pcieLinkReset port => Sys2Proof.Machine.execPcieLinkReset port s
  | .feedOutOfRange feed mv => Sys2Proof.Machine.execFeedOutOfRange feed mv s
  | .feedRestored feed => Sys2Proof.Machine.execFeedRestored feed s
  | .feedLowAlert feed => Sys2Proof.Machine.execFeedLowAlert feed s
  | .noFeedTimeout => Sys2Proof.Machine.execNoFeedTimeout s
  | .pwrFailWarn asserted => Sys2Proof.Machine.execPwrFailWarn asserted s
  | .bladeResSample blade volts amps temp => Sys2Proof.Machine.execBladeResSample blade volts amps temp s
  | .railFault pal rail us => Sys2Proof.Machine.execRailFault pal rail us s
  | .refSwitch => Sys2Proof.Machine.execRefSwitch s
  | .syncInEdge phaseStep locked => Sys2Proof.Machine.execSyncInEdge phaseStep locked s
  | .syncInAbsent => Sys2Proof.Machine.execSyncInAbsent s
  | .budgetDecision => Sys2Proof.Machine.execBudgetDecision s
  | .powerStepDecision draws => Sys2Proof.Machine.execPowerStepDecision draws s
  | .fastLimit pal => Sys2Proof.Machine.execFastLimit pal s
  | .loanRecall p => Sys2Proof.Machine.execLoanRecall p s
  | .stepChange p => Sys2Proof.Machine.execStepChange p s
  | .thermalSample pal tj cool90 cool95 => Sys2Proof.Machine.execThermalSample pal tj cool90 cool95 s
  | .thermalEmergency wall => Sys2Proof.Machine.execThermalEmergency wall s
  | .thermalTrip => Sys2Proof.Machine.execThermalTrip s
  | .coolOkChange level => Sys2Proof.Machine.execCoolOkChange level s
  | .coolantSample inlet outlet flow rangeFor10s lowFor2s quarterFor1s => Sys2Proof.Machine.execCoolantSample inlet outlet flow rangeFor10s lowFor2s quarterFor1s s
  | .coolDemandUpdate pMax1s pNow => Sys2Proof.Machine.execCoolDemandUpdate pMax1s pNow s
  | .telemetrySample mod_ pallets => Sys2Proof.Machine.execTelemetrySample mod_ pallets s
  | .sidebandChatter input => Sys2Proof.Machine.execSidebandChatter input s
  | .portTraining l ev => Sys2Proof.Machine.execPortTraining l ev s
  | .dataFrame l seq ack crcOk msgs => Sys2Proof.Machine.execDataFrame l seq ack crcOk msgs s
  | .controlFrame l credits nak peer crcOk ack => Sys2Proof.Machine.execControlFrame l credits nak peer crcOk ack s
  | .frameSend l msgs => Sys2Proof.Machine.execFrameSend l msgs s
  | .laneSuspect l lane => Sys2Proof.Machine.execLaneSuspect l lane s
  | .register by_ p place => Sys2Proof.Machine.execRegister by_ p place s
  | .load by_ p place => Sys2Proof.Machine.execLoad by_ p place s
  | .abort by_ p place => Sys2Proof.Machine.execAbort by_ p place s
  | .resume by_ p => Sys2Proof.Machine.execResume by_ p s
  | .manifestVerified p manifest sigOk digest => Sys2Proof.Machine.execManifestVerified p manifest sigOk digest s
  | .loaderShardFetch p => Sys2Proof.Machine.execLoaderShardFetch p s
  | .shardArrival p index shard digestOk env => Sys2Proof.Machine.execShardArrival p index shard digestOk env s
  | .shardMissingTimeout p index => Sys2Proof.Machine.execShardMissingTimeout p index s
  | .removalDone p place => Sys2Proof.Machine.execRemovalDone p place s
  | .relayManifest l manifest => Sys2Proof.Machine.execRelayManifest l manifest s
  | .relayShard l index shard digestOk => Sys2Proof.Machine.execRelayShard l index shard digestOk s
  | .relayAck l index => Sys2Proof.Machine.execRelayAck l index s
  | .relayNack l index reason => Sys2Proof.Machine.execRelayNack l index reason s
  | .relayFail l index hop attempts => Sys2Proof.Machine.execRelayFail l index hop attempts s
  | .relayHeld l index => Sys2Proof.Machine.execRelayHeld l index s
  | .relayResume l index => Sys2Proof.Machine.execRelayResume l index s
  | .relayDrop l hop => Sys2Proof.Machine.execRelayDrop l hop s
  | .keyDelivery by_ p msg => Sys2Proof.Machine.execKeyDelivery by_ p msg s
  | .getVersion by_ => Sys2Proof.Machine.execGetVersion by_ s
  | .getCapabilities by_ => Sys2Proof.Machine.execGetCapabilities by_ s
  | .negotiateAlgorithms by_ => Sys2Proof.Machine.execNegotiateAlgorithms by_ s
  | .getDigests by_ => Sys2Proof.Machine.execGetDigests by_ s
  | .getCertificate by_ slot => Sys2Proof.Machine.execGetCertificate by_ slot s
  | .challenge by_ slot nonce => Sys2Proof.Machine.execChallenge by_ slot nonce s
  | .getMeasurements by_ index nonce => Sys2Proof.Machine.execGetMeasurements by_ index nonce s
  | .spdmUnsupported by_ code => Sys2Proof.Machine.execSpdmUnsupported by_ code s
  | .zeroise => Sys2Proof.Machine.execZeroise s
  | .enclosureOpened => Sys2Proof.Machine.execEnclosureOpened s
  | .pldmMonitoring req => Sys2Proof.Machine.execPldmMonitoring req s
  | .halt by_ p => Sys2Proof.Machine.execHalt by_ p s
  | .step by_ p => Sys2Proof.Machine.execStep by_ p s
  | .dbgResume by_ p => Sys2Proof.Machine.execDbgResume by_ p s
  | .accessScratchpad by_ p => Sys2Proof.Machine.execAccessScratchpad by_ p s
  | .accessInstructionStore by_ p => Sys2Proof.Machine.execAccessInstructionStore by_ p s
  | .accessArrayLevels by_ p => Sys2Proof.Machine.execAccessArrayLevels by_ p s
  | .accessCtrlRegister by_ p => Sys2Proof.Machine.execAccessCtrlRegister by_ p s
  | .accessArrayProgram by_ p phys => Sys2Proof.Machine.execAccessArrayProgram by_ p phys s
  | .accessArrayErase by_ p phys => Sys2Proof.Machine.execAccessArrayErase by_ p phys s
  | .diagRun by_ test => Sys2Proof.Machine.execDiagRun by_ test s
  | .illegal t word => Sys2Proof.Machine.execIllegal t word s
  | .badCmd t n => Sys2Proof.Machine.execBadCmd t n s
  | .badBlock t n kiln => Sys2Proof.Machine.execBadBlock t n kiln s
  | .vectorExecute t => Sys2Proof.Machine.execVectorExecute t s
  | .hostLinkUp port => Sys2Proof.Machine.execHostLinkUp port s
  | .pcieConfigWrite f cfg => Sys2Proof.Machine.execPcieConfigWrite f cfg s
  | .regulatorPhaseFail pal rail => Sys2Proof.Machine.execRegulatorPhaseFail pal rail s
  | .osfpPlugIn l watts => Sys2Proof.Machine.execOsfpPlugIn l watts s

end Sys2Proof.Machine
end

