-- ==== Sys2Proof/WellFormed.lean ====
section
/-! DEFINITION. Commands whose operands have the shape their rows give: whole lines and units, samples of every sensor, cells and arrays
that exist. The other operands are bounded by their types. The meanings ask nothing of it; statements may. -/
namespace Sys2Proof

/-- A (tile, array) pair that exists (R155). -/
def arrOk (x : Nat × Nat) : Bool := decide (x.1 < 52800) && decide (x.2 < 64)
/-- A stuck cell lies in an array's 512 rows and 520 columns (R35, R66). -/
def Stuck.wf (k : Stuck) : Bool :=
  decide (k.arr < 64) && decide (k.row < 512) && decide (k.col < 520) && decide (k.target < 16) && decide (k.sensed < 16)
/-- A cell of a sensed row (R108). -/
def CellSense.wf (k : CellSense) : Bool := decide (k.col < 520)
def RowSense.wf (x : RowSense) : Bool := decide (x.arr < 64) && decide (x.row < 512) && x.cells.all CellSense.wf
/-- Cells and arrays that exist; a program command runs at least one loop (R65). -/
def ArrPhys.wf (x : ArrPhys) : Bool :=
  x.stuck.all Stuck.wf && (x.eraseFail.all fun a => decide (a < 64)) && decide (1 ≤ x.loops) && x.senses.all RowSense.wf
/-- A message has at most 8 units, of 64 B (R492). -/
def LinkMsg.wf (x : LinkMsg) : Bool := decide (x.units.length ≤ 8) && x.units.all fun u => u.length == 64
/-- Both feeds, both buses (R471). -/
def ModSample.wf (x : ModSample) : Bool := x.feedMv.length == 2 && x.feedI.length == 2 && x.busMv.length == 2
/-- The five rails (R472). -/
def PalletSample.wf (x : PalletSample) : Bool := x.currents.length == 5 && x.volts.length == 5
/-- An envelope's payload has the length its header says (R392). -/
def HostRead.wf : HostRead → Bool
  | .failed => true
  | .data none _ => true
  | .data (some e) bs => e.len == bs.length

def Instr.wf : Instr → Bool
  | .bringUp _ eraseFail _ => eraseFail.all arrOk
  | .scrubDone _ eraseFail => eraseFail.all arrOk
  | .arrayCmdComplete _ _ phys => phys.wf
  | .tileMoveDone _ phys => phys.wf
  | .passPhasesEnd x => x.phys.wf
  | .outlierVerification _ _ phys => phys.wf
  | .rowRefreshSlot _ _ _ data checks => (data ++ checks).all CellSense.wf
  | .accessArrayProgram _ _ phys => phys.wf
  | .accessArrayErase _ _ phys => phys.wf
  | .sPut _ _ _ lines => lines.all fun l => l.length == 64
  | .sFill _ _ _ lines => decide (lines.length ≤ 8) && lines.all fun l => l.length == 64
  | .dataFrame _ _ _ _ msgs => msgs.all LinkMsg.wf
  | .frameSend _ msgs => msgs.all LinkMsg.wf
  | .powerStepDecision draws => draws.length == 16
  | .telemetrySample mod_ pallets => mod_.wf && pallets.all PalletSample.wf
  | .payloadReadDone _ _ _ data => data.wf
  | .descriptorReadDone _ _ data => data.wf
  | .powerOn .. | .bootLoad .. | .pldmFwActivate .. | .fwCheck .. | .stage .. | .bootAbort .. | .svnFloorRaise ..
  | .handoverHold .. | .handoverTimeout .. | .moduleBeat .. | .unparkDone .. | .seal .. | .teardown .. | .kill ..
  | .commit .. | .discard .. | .registerWrite .. | .claim .. | .release .. | .leaseLapse .. | .sqTail .. | .cqHead ..
  | .eqHead .. | .streamHead .. | .ringFetchError .. | .generate .. | .tune .. | .cancel .. | .draft .. | .steerWrite ..
  | .steerRead .. | .prefillPromotion .. | .coalesceTimer .. | .turnBoundary .. | .idleBoundary .. | .resultCollect ..
  | .callPoint .. | .beatBoundary .. | .holdWatchdogExpiry .. | .turnAbandon .. | .abandonmentBoundary .. | .forcedSlotDue ..
  | .turnMarkInstant .. | .chainHoldInDeassert .. | .chainWire .. | .add .. | .sub .. | .and .. | .or .. | .xor .. | .shl ..
  | .shr .. | .sar .. | .slt .. | .sltu .. | .min .. | .max .. | .minu .. | .maxu .. | .mul .. | .mulhs .. | .mulhu ..
  | .div .. | .divu .. | .rem .. | .remu .. | .clz .. | .popc .. | .addi .. | .andi .. | .ori .. | .xori .. | .shiShl ..
  | .shiShr .. | .shiSar .. | .slti .. | .sltiu .. | .limm .. | .jal .. | .jalr .. | .beq .. | .bne .. | .blt .. | .bge ..
  | .bltu .. | .bgeu .. | .ldb .. | .ldbu .. | .ldh .. | .ldhu .. | .ldw .. | .ldwu .. | .ldd .. | .stb .. | .sth ..
  | .stw .. | .std .. | .crr .. | .crw .. | .vadd .. | .vsub .. | .vmul .. | .vfma .. | .vmin .. | .vmax .. | .vadds ..
  | .vabs .. | .vand .. | .vor .. | .vxor .. | .vshl .. | .vshr .. | .vsar .. | .vcvt .. | .vsel .. | .vcmpeq .. | .vcmplt ..
  | .vcmple .. | .vexp2 .. | .vlog2 .. | .vrcp .. | .vrsq .. | .vredsum .. | .vredmax .. | .vbcast .. | .vext .. | .vpand ..
  | .vpnot .. | .vld .. | .vldt .. | .vldtk .. | .vst .. | .vstf .. | .vtagset .. | .vtagclr .. | .kilnMul .. | .kilnStore ..
  | .kilnComplete .. | .pass .. | .passPhasesStart .. | .read .. | .prog .. | .refresh .. | .erase ..
  | .power .. | .status .. | .acq .. | .put .. | .putFill .. | .get .. | .addI32 .. | .addF32 .. | .packetArrival ..
  | .parkEntryWrite .. | .remoteAck .. | .getDataArrival .. | .sGet .. | .sTget .. | .sTgetWatchRead .. | .stationResponse ..
  | .flitRetransmit .. | .linkErrorRate .. | .routeTableRewrite .. | .falloc .. | .fset .. | .fclr .. | .fwait ..
  | .fwaitc .. | .ftest .. | .beat .. | .turn .. | .fence .. | .refreshPeriodUpdate ..
  | .refreshOverdue .. | .calibrationDue .. | .calibrationStep .. | .calEscalate .. | .calRestart ..
  | .accStatusUpdate .. | .patrol .. | .zeroingPassDone .. | .bankPowerChangeDone .. | .tLine ..
  | .tBank .. | .tWord .. | .tArray .. | .tLink .. | .tRouter .. | .tLane .. | .replaceDone .. | .replacementHoldLimit ..
  | .hostPortDown .. | .functionLevelReset .. | .perstChange .. | .pcieLinkReset .. | .feedOutOfRange .. | .feedRestored ..
  | .feedLowAlert .. | .noFeedTimeout .. | .pwrFailWarn .. | .bladeResSample .. | .railFault .. | .refSwitch ..
  | .syncInEdge .. | .syncInAbsent .. | .budgetDecision .. | .fastLimit .. | .loanRecall .. | .stepChange ..
  | .thermalSample .. | .thermalEmergency .. | .thermalTrip .. | .coolOkChange .. | .coolantSample .. | .coolDemandUpdate ..
  | .sidebandChatter .. | .portTraining .. | .controlFrame .. | .laneSuspect .. | .register .. | .load .. | .abort ..
  | .resume .. | .manifestVerified .. | .loaderShardFetch .. | .shardArrival .. | .shardMissingTimeout .. | .removalDone ..
  | .relayManifest .. | .relayShard .. | .relayAck .. | .relayNack .. | .relayFail .. | .relayHeld .. | .relayResume ..
  | .relayDrop .. | .keyDelivery .. | .getVersion .. | .getCapabilities .. | .negotiateAlgorithms .. | .getDigests ..
  | .getCertificate .. | .challenge .. | .getMeasurements .. | .spdmUnsupported .. | .zeroise .. | .enclosureOpened ..
  | .pldmMonitoring .. | .halt .. | .step .. | .dbgResume .. | .accessScratchpad .. | .accessInstructionStore ..
  | .accessArrayLevels .. | .accessCtrlRegister .. | .diagRun .. | .illegal .. | .badCmd .. | .badBlock ..
  | .vectorExecute .. | .hostLinkUp .. | .pcieConfigWrite .. | .regulatorPhaseFail .. | .osfpPlugIn .. => true

end Sys2Proof
end

