-- ==== Sys2Proof/Safety.lean ====
section
/-! DEFINITION. The terms in which claims speak of runs: conditions under which commands act, and what a safe run keeps. -/
namespace Sys2Proof.Machine

/-! ### Tiles -/

/-- The state with one tile changed. -/
def State.withTile (s : State) (t : TileId) (T : Tile) : State := { s with m := s.m.setTile t.val T }
/-- The state with one partition changed. -/
def State.withPart (s : State) (p : PartId) (P : Part) : State := { s with m := s.m.setPart p.val P }

/-- Tile `t` issues an instruction that reads or writes the given registers: its core runs, the fetch is good, and no register waits
for a queued VEXT (R122, R160). -/
def Mach.issues (m : Mach) (t : TileId) (regs : List RegNo) : Prop :=
  (m.tile t.val).run = .running ∧ (m.tile t.val).pc < 0x10000
    ∧ (m.tile t.val).storeFlips ((m.tile t.val).storeWord ((m.tile t.val).pc / 4)) = []
    ∧ ∀ r ∈ regs, r.val ∉ (m.tile t.val).awaited

/-- A scalar access of n bytes at an address is allowed: within one line, aligned where COMPAT_G1 is set, in a bank that is ON, NARROW and not changing, with no
operation in flight on the line and no test of it, and no bad line (R130, R131, R138, R165). -/
def Mach.padOk (m : Mach) (t : TileId) (addr n : Nat) (write : Bool) : Prop :=
  addr % 64 + n ≤ 64 ∧ ((m.ownerPart t.val).compat = true → addr % n = 0) ∧ addr + n ≤ padSize
    ∧ ((m.tile t.val).bankAt addr).pwr = .on ∧ ((m.tile t.val).bankAt addr).port = .narrow
    ∧ ((m.tile t.val).bankAt addr).changing = false ∧ ((m.tile t.val).bankAt addr).held = false ∧ ((m.tile t.val).bankAt addr).scrub = false
    ∧ m.testing t.val (addr / 64) = false ∧ (m.tile t.val).sb.length < 48
    ∧ ((m.tile t.val).sb.any fun e => e.conflicts (addr / 64) (addr / 64) write) = false
    ∧ (write = false → (m.tile t.val).found (addr / 64) = .clean)

/-- A vector access of the 128 B at an address is allowed: aligned, in a bank that is ON, not NARROW and not changing, with no operation
in flight on its two lines and no test of them, and its identity is free in the scoreboard (R131, R138, R174). -/
def Mach.vpadOk (m : Mach) (t : TileId) (addr : Nat) (write : Bool) : Prop :=
  addr % 128 = 0 ∧ addr + 128 ≤ padSize
    ∧ ((m.tile t.val).bankAt addr).pwr = .on ∧ ((m.tile t.val).bankAt addr).port ≠ .narrow
    ∧ ((m.tile t.val).bankAt addr).changing = false ∧ ((m.tile t.val).bankAt addr).held = false ∧ ((m.tile t.val).bankAt addr).scrub = false
    ∧ m.testing t.val (addr / 64) = false ∧ m.testing t.val (addr / 64 + 1) = false ∧ (m.tile t.val).sb.length < 48
    ∧ ((m.tile t.val).sb.any fun e => e.conflicts (addr / 64) (addr / 64 + 1) write) = false
    ∧ ∀ e ∈ (m.tile t.val).sb, e.owner ≠ (m.tile t.val).nextId

/-- The four registers of a command block (R175). -/
def blockRegs (n : RegNo) : List RegNo := (List.finRange 32).filter fun r => decide (n.val ≤ r.val) && decide (r.val < n.val + 4)
/-- Tile `t` issues a command block instruction whose block carries the operation `op` (R175). -/
def Mach.issuesBlock (m : Mach) (t : TileId) (n : RegNo) (op : Nat) : Prop :=
  m.issues t (blockRegs n) ∧ n.val % 4 = 0 ∧ 4 ≤ n.val ∧ (m.tile t.val).block n.val % 256 = op
/-- The queue has taken an exception (R189): the record of tile `t`, empty before, holds the cause and the core has stopped. -/
def Mach.trapped (m m' : Mach) (t : TileId) (c : Cause) (info : W64) : Prop :=
  m'.tiles = (m.setTile t.val { m.tile t.val with
    run := .excepted, excCause := some c, excPc := (m.tile t.val).pc, excInfo := info }).tiles

/-! ### Registers -/

/-- The registers of a partition are listed in order, each once. -/
def Part.regsOk (P : Part) : Prop := Map.sortedFrom 0 P.regs = true
/-- Every store of the module lists its entries in order, each once. -/
def Mach.ordered (m : Mach) : Prop :=
  Map.sortedFrom 0 m.regs = true ∧ Map.sortedFrom 0 m.tiles = true ∧ Map.sortedFrom 0 m.parts = true
    ∧ Map.sortedFrom 0 m.pallets = true ∧ Map.sortedFrom 0 m.ports = true ∧ Map.sortedFrom 0 m.links = true
    ∧ Map.sortedFrom 0 m.feeds = true ∧ Map.sortedFrom 0 m.blades = true ∧ Map.sortedFrom 0 m.walls = true
/-- A counter after one more count: it stops at its field's largest value (R10). -/
def Fld.more (f : Fld) (v : Nat) : Nat := Nat.min (v + 1) (2 ^ f.width - 1)

/-- Every staged value of the module's blocks is one of an RWS field, and so none of SVN_FLOOR (R10, R518, R524). -/
def Mach.stagedOk (m : Mach) : Prop := ∀ x ∈ m.staged, x.1.acc = .rws ∧ x.1.key ≠ Reg.SVN_FLOOR.key

/-! ### Arrays -/

/-- No load and no overflow shards of the owner wait on tile `t`'s array commands (R354, R369). -/
def Mach.noService (m : Mach) (t : TileId) : Prop :=
  ∀ p, m.owner t.val = some p → (m.part p.val).loadOp = none
    ∧ ∀ e ∈ (m.part p.val).residentPlaces, (e.2.header.any fun h => h.overflow) = false
/-- Tile `t` after the report of its only array command with status `st` (R52, R53): the command and its ranges have gone and its word
is in the completion queue. -/
def Tile.reported (T : Tile) (c : ACmd) (st : Nat) : Tile :=
  { T with
    aq := [], sb := T.sb.filter fun e => e.owner ≠ c.id
    cq := (if T.cq.length < 16 then T.cq else T.cq.drop 1) ++ [BitVec.ofNat 32 (2 ^ 16 * st + 2 ^ 8 * c.qtag + c.op)]
    cqLost := T.cqLost || decide (16 ≤ T.cq.length) }

/-! ### Rings -/

/-- Everything but partition `p` is as it was, but for module registers and what has been sent. -/
def State.onlyPart (s s' : State) (p : PartId) : Prop :=
  (∀ q, q ≠ p.val → s'.m.part q = s.m.part q) ∧ s'.m.tiles = s.m.tiles ∧ s'.m.pallets = s.m.pallets ∧ s'.pending = s.pending
/-- The completion record of descriptor `seq` with a status has been written to the completion ring, or waits for it (R301, R315,
R429). -/
def State.completes (s s' : State) (p : PartId) (seq : Nat) (st : Status) : Prop :=
  ∃ bytes : List Byte, bytes.length = 64 ∧ leNat (bytes.take 8) = seq % 2 ^ 64 ∧ bytes.getD 17 0 = BitVec.ofNat 8 st.code
    ∧ ((∃ port i env, Out.record p port .completion i bytes env ∈ s'.m.out.drop s.m.out.length)
      ∨ ∃ w ∈ ((s'.m.part p.val).ring 1).waiting, w.bytes = bytes)


/-! ### Boundaries -/

/-- No action of R25 waits in the partition but results and admissions: no cancel, steering write, completion, load, commit, rotation, drain
or teardown, and no stream ring at its marks (R25, R319). -/
def Part.quiet (P : Part) : Prop :=
  P.cancels = [] ∧ P.steerOps = [] ∧ P.steers = [] ∧ P.boundaryDone = [] ∧ P.loadOp = none ∧ P.teardownPending = false
    ∧ P.keys.outOld = none ∧ P.getR Reg.WVER_CFG_WVER_STATE = 0 ∧ P.getR Reg.COMMIT_STATUS_STATE ≠ 1
    ∧ ∀ n, n < 64 → (P.ring (3 + n)).full = false ∧ (P.ring (3 + n)).waiting.length < 32

/-! ### Loading -/

/-- The next own shard of the load that is still to be applied is `j`, and it has not arrived (R345, R356). -/
def Part.awaits (P : Part) (L : Load) (mf : Manifest) (j : Nat) : Prop :=
  P.loadManifest L = some mf ∧ (P.ownIdx mf).find? (fun k => !L.applied.contains k) = some j ∧ Map.find L.keptShards j = none
    ∧ L.held = false ∧ L.tablesDue = false ∧ L.staged = false ∧ L.registerOnly = false

end Sys2Proof.Machine
end

