-- ==== Sys2Proof/Certificates/Slice0/Obligations.lean ====
section
/-! DEFINITION. The statements about the model that provers are to prove. -/
open Sys2Proof Sys2Proof.Machine

/-! ### Tile instructions: the control core -/

/-- R162: the register-to-register instructions write xd with the value the table gives, and nothing else changes but the program
counter. A write to x0 is discarded (R158).
R162: CLZ counts the zero bits above the highest set bit, POPC the set bits; both ask for b = x0, and another b raises ILLEGAL
(R159, R189). -/
def Obligations.ScalarAlu : Prop :=
  (∀ (s : State) (t : TileId) (d a b : RegNo), s.m.issues t [d, a, b] →
    let T := s.m.tile t.val
    let x := T.getX a.val
    let y := T.getX b.val
    let wr := fun (v : W64) => Host.Outcome.next (φ := Fault) (ρ := Refusal)
      (s.withTile t { T with pc := T.pc + 4, x := if d.val = 0 then T.x else Map.set 0 T.x d.val v })
    exec (.add t d a b) s = wr (BitVec.ofNat 64 (x.toNat + y.toNat))
    ∧ exec (.sub t d a b) s = wr (BitVec.ofInt 64 (x.toInt - y.toInt))
    ∧ exec (.and t d a b) s = wr (x &&& y)
    ∧ exec (.or t d a b) s = wr (x ||| y)
    ∧ exec (.xor t d a b) s = wr (x ^^^ y)
    ∧ exec (.shl t d a b) s = wr (BitVec.ofNat 64 (x.toNat * 2 ^ (y.toNat % 64)))
    ∧ exec (.shr t d a b) s = wr (BitVec.ofNat 64 (x.toNat / 2 ^ (y.toNat % 64)))
    ∧ exec (.sar t d a b) s = wr (BitVec.ofInt 64 (x.toInt / 2 ^ (y.toNat % 64)))
    ∧ exec (.slt t d a b) s = wr (if x.toInt < y.toInt then 1 else 0)
    ∧ exec (.sltu t d a b) s = wr (if x.toNat < y.toNat then 1 else 0)
    ∧ exec (.min t d a b) s = wr (BitVec.ofInt 64 (Min.min x.toInt y.toInt))
    ∧ exec (.max t d a b) s = wr (BitVec.ofInt 64 (Max.max x.toInt y.toInt))
    ∧ exec (.minu t d a b) s = wr (BitVec.ofNat 64 (Min.min x.toNat y.toNat))
    ∧ exec (.maxu t d a b) s = wr (BitVec.ofNat 64 (Max.max x.toNat y.toNat))
    ∧ exec (.mul t d a b) s = wr (BitVec.ofNat 64 (x.toNat * y.toNat))
    ∧ exec (.mulhs t d a b) s = wr (BitVec.ofInt 64 (x.toInt * y.toInt / 2 ^ 64))
    ∧ exec (.mulhu t d a b) s = wr (BitVec.ofNat 64 (x.toNat * y.toNat / 2 ^ 64)))
  ∧ (∀ (s : State) (t : TileId) (d a b : RegNo), s.m.issues t [d, a, b] → d.val ≠ 0 →
    let T := s.m.tile t.val
    let x := T.getX a.val
    (b.val = 0 →
      (∃ n : Nat, n ≤ 64 ∧ x.toNat < 2 ^ (64 - n) ∧ (n < 64 → 2 ^ (63 - n) ≤ x.toNat)
        ∧ exec (.clz t d a b) s = .next (s.withTile t { T with pc := T.pc + 4, x := Map.set 0 T.x d.val (BitVec.ofNat 64 n) }))
      ∧ exec (.popc t d a b) s = .next (s.withTile t
          { T with pc := T.pc + 4
                   x := Map.set 0 T.x d.val (BitVec.ofNat 64 ((List.range 64).countP fun i => x.getLsbD i)) }))
    ∧ (b.val ≠ 0 → T.excCause = none → ∀ c, c = Instr.clz t d a b ∨ c = Instr.popc t d a b →
        ∃ s', exec c s = .next s' ∧ s'.pending = s.pending
          ∧ (∃ w, s'.m.tiles = (s.m.setTile t.val
              { T with run := .excepted, excCause := some .illegal, excPc := T.pc, excInfo := w }).tiles)))

/-- R164: division by zero and the division of the most negative number by −1 give the results of the table; elsewhere the quotient is
truncated toward zero.
R193: with COMPAT_G1 set, a zero divisor raises DIV_ZERO and writes no register. -/
def Obligations.ScalarDivide : Prop :=
  (∀ (s : State) (t : TileId) (d a b : RegNo), s.m.issues t [d, a, b] → (s.m.ownerPart t.val).compat = false →
    let T := s.m.tile t.val
    let x := T.getX a.val
    let y := T.getX b.val
    let wr := fun (v : W64) => Host.Outcome.next (φ := Fault) (ρ := Refusal)
      (s.withTile t { T with pc := T.pc + 4, x := if d.val = 0 then T.x else Map.set 0 T.x d.val v })
    exec (.div t d a b) s = wr (if y = 0 then -1 else BitVec.ofInt 64 (x.toInt.tdiv y.toInt))
    ∧ exec (.divu t d a b) s = wr (if y = 0 then -1 else BitVec.ofNat 64 (x.toNat / y.toNat))
    ∧ exec (.rem t d a b) s = wr (if y = 0 then x else BitVec.ofInt 64 (x.toInt.tmod y.toInt))
    ∧ exec (.remu t d a b) s = wr (if y = 0 then x else BitVec.ofNat 64 (x.toNat % y.toNat)))
  ∧ (∀ (s : State) (t : TileId) (d a b : RegNo), s.m.issues t [d, a, b] → (s.m.ownerPart t.val).compat = true →
    (s.m.tile t.val).getX b.val = 0 → (s.m.tile t.val).excCause = none →
    ∀ c, c = Instr.div t d a b ∨ c = Instr.divu t d a b ∨ c = Instr.rem t d a b ∨ c = Instr.remu t d a b →
      let T := s.m.tile t.val
      ∃ s', exec c s = .next s' ∧ s'.pending = s.pending
        ∧ (∃ w, s'.m.tiles = (s.m.setTile t.val
            { T with run := .excepted, excCause := some .divZero, excPc := T.pc, excInfo := w }).tiles))

/-- R163: the immediate forms. ADDI, SLTI and SLTIU extend the sign of imm16, ANDI, ORI and XORI extend it with zeros; a shift amount is
six bits; LIMM replaces one 16-bit field of xd. -/
def Obligations.ScalarImmediate : Prop :=
  ∀ (s : State) (t : TileId) (d a : RegNo) (imm : W16) (amt : BitVec 6), s.m.issues t [d, a] →
    let T := s.m.tile t.val
    let x := T.getX a.val
    let wr := fun (v : W64) => Host.Outcome.next (φ := Fault) (ρ := Refusal)
      (s.withTile t { T with pc := T.pc + 4, x := if d.val = 0 then T.x else Map.set 0 T.x d.val v })
    exec (.addi t d a imm) s = wr (BitVec.ofInt 64 (x.toInt + imm.toInt))
    ∧ exec (.andi t d a imm) s = wr (x &&& BitVec.ofNat 64 imm.toNat)
    ∧ exec (.ori t d a imm) s = wr (x ||| BitVec.ofNat 64 imm.toNat)
    ∧ exec (.xori t d a imm) s = wr (x ^^^ BitVec.ofNat 64 imm.toNat)
    ∧ exec (.slti t d a imm) s = wr (if x.toInt < imm.toInt then 1 else 0)
    ∧ exec (.sltiu t d a imm) s = wr (if x.toNat < (BitVec.ofInt 64 imm.toInt).toNat then 1 else 0)
    ∧ exec (.shiShl t d a amt) s = wr (BitVec.ofNat 64 (x.toNat * 2 ^ amt.toNat))
    ∧ exec (.shiShr t d a amt) s = wr (BitVec.ofNat 64 (x.toNat / 2 ^ amt.toNat))
    ∧ exec (.shiSar t d a amt) s = wr (BitVec.ofInt 64 (x.toInt / 2 ^ amt.toNat))
    ∧ (a.val < 4 → ∃ v : W64, exec (.limm t d a imm) s = wr v
        ∧ ∀ i : Nat, i < 64 → v.getLsbD i =
            if 16 * a.val ≤ i ∧ i < 16 * a.val + 16 then imm.getLsbD (i - 16 * a.val) else (T.getX d.val).getLsbD i)

/-- R166: jumps and taken branches go to their target, JAL and JALR leave the address of the next instruction in xd, a branch not
taken goes on. A target outside 0x0000 to 0xFFFC raises ILLEGAL, one of them that is no multiple of 4 raises MISALIGN, and neither
writes xd. -/
def Obligations.ControlTransfer : Prop :=
  ∀ (s : State) (t : TileId) (d a b : RegNo) (imm : W16) (off : BitVec 21), s.m.issues t [d, a, b] →
    let T := s.m.tile t.val
    let x := T.getX a.val
    let y := T.getX b.val
    let go := fun (link : Bool) (tgt : Int) (o : Host.Outcome State Fault Refusal) =>
      (0 ≤ tgt → tgt ≤ 0xFFFC → tgt % 4 = 0 →
        o = .next (s.withTile t { T with
          pc := tgt.toNat, x := if link && d.val != 0 then Map.set 0 T.x d.val (BitVec.ofNat 64 (T.pc + 4)) else T.x }))
      ∧ (T.excCause = none → (tgt < 0 ∨ 0xFFFC < tgt ∨ tgt % 4 ≠ 0) → ∃ s' w, o = .next s' ∧
          s'.m.tiles = (s.m.setTile t.val { T with
            run := .excepted, excCause := some (if tgt < 0 ∨ 0xFFFC < tgt then .illegal else .misalign)
            excPc := T.pc, excInfo := w }).tiles)
    let br := fun (c : Instr) (taken : Prop) =>
      (taken → go false (T.pc + 4 * imm.toInt) (exec c s))
      ∧ (¬ taken → exec c s = .next (s.withTile t { T with pc := T.pc + 4 }))
    go true (T.pc + 4 * off.toInt) (exec (.jal t d off) s)
    ∧ go true ((x + BitVec.ofInt 64 imm.toInt).toNat : Nat) (exec (.jalr t d a imm) s)
    ∧ br (.beq t a b imm) (x = y)
    ∧ br (.bne t a b imm) (x ≠ y)
    ∧ br (.blt t a b imm) (x.toInt < y.toInt)
    ∧ br (.bge t a b imm) (y.toInt ≤ x.toInt)
    ∧ br (.bltu t a b imm) (x.toNat < y.toNat)
    ∧ br (.bgeu t a b imm) (y.toNat ≤ x.toNat)

/-- R165, R9: a load reads its bytes least significant first and extends them with zeros or with the sign; only xd and the program
counter change.
R165: a store writes the low bytes of its register at the address and every other byte of the scratchpad reads as before; a 64-bit
word wholly written has good check bits again. -/
def Obligations.ScalarMemory : Prop :=
  (∀ (s : State) (t : TileId) (d a : RegNo) (imm : W16) (n : Nat), s.m.issues t [d, a] →
    let T := s.m.tile t.val
    let addr := (T.getX a.val + BitVec.ofInt 64 imm.toInt).toNat
    let v := leNat (T.readBytes addr n)
    let wr := fun (v : W64) => Host.Outcome.next (φ := Fault) (ρ := Refusal)
      (s.withTile t { T with pc := T.pc + 4, x := if d.val = 0 then T.x else Map.set 0 T.x d.val v })
    let signed := fun (w : Nat) => BitVec.ofInt 64 (if v < 2 ^ (w - 1) then (v : Int) else v - 2 ^ w)
    s.m.padOk t addr n false →
      (n = 1 → exec (.ldb t d a imm) s = wr (signed 8) ∧ exec (.ldbu t d a imm) s = wr (BitVec.ofNat 64 v))
      ∧ (n = 2 → exec (.ldh t d a imm) s = wr (signed 16) ∧ exec (.ldhu t d a imm) s = wr (BitVec.ofNat 64 v))
      ∧ (n = 4 → exec (.ldw t d a imm) s = wr (signed 32) ∧ exec (.ldwu t d a imm) s = wr (BitVec.ofNat 64 v))
      ∧ (n = 8 → exec (.ldd t d a imm) s = wr (BitVec.ofNat 64 v)))
  ∧ (∀ (s : State) (t : TileId) (v a : RegNo) (imm : W16) (n : Nat), s.m.issues t [v, a] →
    let T := s.m.tile t.val
    let addr := (T.getX a.val + BitVec.ofInt 64 imm.toInt).toNat
    s.m.padOk t addr n true → Map.wf 0 T.mem → Map.wf [] T.wordErr →
      ∀ c, (n = 1 ∧ c = Instr.stb t v a imm) ∨ (n = 2 ∧ c = Instr.sth t v a imm) ∨ (n = 4 ∧ c = Instr.stw t v a imm)
          ∨ (n = 8 ∧ c = Instr.std t v a imm) →
        ∃ mem' err, exec c s = .next (s.withTile t { T with pc := T.pc + 4, mem := mem', wordErr := err })
          ∧ Map.wf 0 mem'
          ∧ (∀ w, Map.get [] err w = if addr ≤ 8 * w ∧ 8 * w + 8 ≤ addr + n then [] else T.wordFlips w)
          ∧ (∀ i, i < n → Map.get 0 mem' (addr + i) = BitVec.ofNat 8 ((T.getX v.val).toNat / 256 ^ i))
          ∧ ∀ k, (k < addr ∨ addr + n ≤ k) → Map.get 0 mem' k = Map.get 0 T.mem k)

/-- R167, R168: a read of GROUT or QDESC gives what the last write put in its defined fields (with PARK_BUSY in a descriptor); the
read-only numbers ignore a write; a number outside the map raises ILLEGAL. Only xd, the named register and the program counter change.
R136: a read of a queue descriptor with an uncorrectable error raises UE_LOCAL; a write of it ends the error. -/
def Obligations.ControllerRegisters : Prop :=
  ∀ (s : State) (t : TileId) (x : RegNo) (n : BitVec 12), s.m.issues t [x] →
    let T := s.m.tile t.val
    let w := (T.getX x.val).toNat % 2 ^ 32
    let wr := fun (v : W64) => Host.Outcome.next (φ := Fault) (ρ := Refusal)
      (s.withTile t { T with pc := T.pc + 4, x := if x.val = 0 then T.x else Map.set 0 T.x x.val v })
    (n.toNat < 0x40 → exec (.crr t x n) s = wr (BitVec.ofNat 64 (Map.get 0 T.grout n.toNat).toNat)
      ∧ (w % 512 ≤ 256 → exec (.crw t x n) s = .next (s.withTile t { T with
          pc := T.pc + 4, grout := Map.set 0 T.grout n.toNat (BitVec.ofNat 32 (w / 2 ^ 16 % 2 ^ 15 * 2 ^ 16 + w % 512)) })))
    ∧ (0x40 ≤ n.toNat → n.toNat < 0x80 → T.descBad n.toNat = false → exec (.crr t x n) s = wr (BitVec.ofNat 64
        ((Map.get 0 T.qdesc (n.toNat - 0x40)).toNat + if (Map.get none T.park (n.toNat - 0x40)).isSome then 2 ^ 15 else 0)))
    ∧ (T.descBad n.toNat = true → T.excCause = none → ∃ s', exec (.crr t x n) s = .next s' ∧
          s'.m.tiles = (s.m.setTile t.val
            { T with run := .excepted, excCause := some .ueLocal, excPc := T.pc, excInfo := n.setWidth 64 }).tiles)
    ∧ (0x40 ≤ n.toNat → n.toNat < 0x80 → w % 2 ^ 13 < 4096 → exec (.crw t x n) s = .next (s.withTile t { T with
          pc := T.pc + 4, qdescErr := Map.erase T.qdescErr (n.toNat - 0x40)
          qdesc := Map.set 0 T.qdesc (n.toNat - 0x40)
            (BitVec.ofNat 32 (w / 2 ^ 31 * 2 ^ 31 + w / 2 ^ 16 % 2 ^ 15 * 2 ^ 16 + w % 2 ^ 13)) }))
    ∧ (n.toNat = 0x80 → exec (.crr t x n) s = wr (BitVec.ofNat 64
          (2 ^ 32 * t.val + 2 ^ 16 * (t.val / 26400) + 2 ^ 8 * (t.val % 26400 / 160) + t.val % 160)))
    ∧ (n.toNat = 0x92 → exec (.crr t x n) s = wr T.excInfo)
    ∧ (0x80 ≤ n.toNat → n.toNat < 0x89 → exec (.crw t x n) s = .next (s.withTile t { T with pc := T.pc + 4 }))
    ∧ (0xA8 ≤ n.toNat → T.excCause = none → ∀ c, c = Instr.crr t x n ∨ c = Instr.crw t x n → ∃ s' i, exec c s = .next s' ∧
          s'.m.tiles = (s.m.setTile t.val
            { T with run := .excepted, excCause := some .illegal, excPc := T.pc, excInfo := i }).tiles)

/-! ### Tile instructions: the vector unit -/

/-- R122, R171, R174: a vector instruction with legal fields enters the back of the vector unit's queue of 16 and the core goes on; with
the queue full the core stays at the instruction. The model's own choices in it:
log entry 7. -/
def Obligations.VectorQueue : Prop :=
  ∀ (s : State) (t : TileId) (vd va vb : RegNo) (pg : Fin 8) (ty : VType), s.m.issues t [vd, va, vb] →
    let T := s.m.tile t.val
    let enters := fun (c : Instr) (fn : VFn) (xs : W64) => vopLegal fn vd.val va.val vb.val ty = true →
      (T.vq.length < 16 → exec c s = .next (s.withTile t { T with
        pc := T.pc + 4, vq := T.vq ++ [.op T.pc fn vd va vb pg ty xs] }))
      ∧ (16 ≤ T.vq.length → exec c s = .next (s.withTile t T))
    enters (.vadd t vd va vb pg ty) .add 0 ∧ enters (.vsub t vd va vb pg ty) .sub 0 ∧ enters (.vmul t vd va vb pg ty) .mul 0
    ∧ enters (.vfma t vd va vb pg ty) .fma 0 ∧ enters (.vmin t vd va vb pg ty) .min 0 ∧ enters (.vmax t vd va vb pg ty) .max 0
    ∧ enters (.vadds t vd va vb pg ty) .adds 0 ∧ enters (.vabs t vd va vb pg ty) .abs 0 ∧ enters (.vand t vd va vb pg ty) .and 0
    ∧ enters (.vor t vd va vb pg ty) .or 0 ∧ enters (.vxor t vd va vb pg ty) .xor 0 ∧ enters (.vshl t vd va vb pg ty) .shl 0
    ∧ enters (.vshr t vd va vb pg ty) .shr 0 ∧ enters (.vsar t vd va vb pg ty) .sar 0 ∧ enters (.vcvt t vd va vb pg ty) .cvt 0
    ∧ enters (.vsel t vd va vb pg ty) .sel 0 ∧ enters (.vcmpeq t vd va vb pg ty) .cmpeq 0
    ∧ enters (.vcmplt t vd va vb pg ty) .cmplt 0 ∧ enters (.vcmple t vd va vb pg ty) .cmple 0
    ∧ enters (.vexp2 t vd va vb pg ty) .exp2 0 ∧ enters (.vlog2 t vd va vb pg ty) .log2 0
    ∧ enters (.vrcp t vd va vb pg ty) .rcp 0 ∧ enters (.vrsq t vd va vb pg ty) .rsq 0
    ∧ enters (.vredsum t vd va vb pg ty) .redsum 0 ∧ enters (.vredmax t vd va vb pg ty) .redmax 0
    ∧ enters (.vbcast t vd va vb pg ty) .bcast (T.getX va.val) ∧ enters (.vext t vd va vb pg ty) .ext (T.getX vb.val)
    ∧ enters (.vpand t vd va vb pg ty) .pand 0 ∧ enters (.vpnot t vd va vb pg ty) .pnot 0

/-- R170, R171: on integer types, the instruction issued to an empty queue and then executed writes each active element of vd with the
table's function of the elements of va and vb, modulo the width or saturated, and leaves the other elements. -/
def Obligations.VectorInteger : Prop :=
  ∀ (s : State) (t : TileId) (vd va vb : RegNo) (pg : Fin 8) (ty : VType), s.m.issues t [vd, va, vb] →
    let T := s.m.tile t.val
    let w := ty.width
    let el := fun (r i : Nat) => r / 2 ^ (w * i) % 2 ^ w
    let sg := fun (n : Nat) => if n < 2 ^ (w - 1) then (n : Int) else n - 2 ^ w
    let wrap := fun (z : Int) => (z % (2 ^ w : Nat)).toNat
    let clamp := fun (z : Int) => Min.min (Max.max z (-(2 ^ (w - 1) : Nat))) ((2 ^ (w - 1) : Nat) - 1)
    let gives := fun (c : Instr) (f : Nat → Nat → Nat) => ∃ T1 v',
      exec c s = .next (s.withTile t T1)
      ∧ exec (.vectorExecute t) (s.withTile t T1) = .next ((s.withTile t T1).withTile t { T with
          pc := T.pc + 4, v := Map.set 0 T.v vd.val v', vPoison := Map.set false T.vPoison vd.val false })
      ∧ ∀ i, i < 1024 / w → el v'.toNat i =
          if (T.getP pg.val).getLsbD (i * w / 8) then f (el (T.getV va.val).toNat i) (el (T.getV vb.val).toNat i)
          else el (T.getV vd.val).toNat i
    ty.isInt = true → T.vq = [] → T.vPoisoned va.val = false → T.vPoisoned vb.val = false → T.vPoisoned vd.val = false →
      gives (.vadd t vd va vb pg ty) (fun a b => wrap (sg a + sg b))
      ∧ gives (.vsub t vd va vb pg ty) (fun a b => wrap (sg a - sg b))
      ∧ gives (.vmul t vd va vb pg ty) (fun a b => wrap (sg a * sg b))
      ∧ gives (.vmin t vd va vb pg ty) (fun a b => wrap (Min.min (sg a) (sg b)))
      ∧ gives (.vmax t vd va vb pg ty) (fun a b => wrap (Max.max (sg a) (sg b)))
      ∧ gives (.vadds t vd va vb pg ty) (fun a b => wrap (clamp (sg a + sg b)))
      ∧ gives (.vabs t vd va vb pg ty) (fun a _ => wrap |sg a|)
      ∧ gives (.vand t vd va vb pg ty) (fun a b => a &&& b)
      ∧ gives (.vor t vd va vb pg ty) (fun a b => a ||| b)
      ∧ gives (.vxor t vd va vb pg ty) (fun a b => a ^^^ b)
      ∧ gives (.vshl t vd va vb pg ty) (fun a b => a * 2 ^ (b % w) % 2 ^ w)
      ∧ gives (.vshr t vd va vb pg ty) (fun a b => a / 2 ^ (b % w))
      ∧ gives (.vsar t vd va vb pg ty) (fun a b => wrap (sg a / (2 ^ (b % w) : Nat)))

/-- R125, R170, R171: the FP32 instructions, element by element. FMA rounds once; the special functions are fixed functions of
the input within 2 ulp of the correctly rounded value, with the IEEE 754 default result where that is NaN or infinite (which of the
values within 2 ulp is opaque, log entry 9); the sum and the maximum of the active elements stand in element 0 and the rest of vd is zero. -/
def Obligations.VectorFloat : Prop :=
  ∀ (s : State) (t : TileId) (vd va vb : RegNo) (pg : Fin 8), s.m.issues t [vd, va, vb] →
    let T := s.m.tile t.val
    let el := fun (r i : Nat) => r / 2 ^ (32 * i) % 2 ^ 32
    let on := fun (i : Nat) => (T.getP pg.val).getLsbD (4 * i)
    let d := (T.getV vd.val).toNat
    let a := (T.getV va.val).toNat
    let b := (T.getV vb.val).toNat
    let gives := fun (c : Instr) (good : Nat → Prop) => ∃ T1 v',
      exec c s = .next (s.withTile t T1)
      ∧ exec (.vectorExecute t) (s.withTile t T1) = .next ((s.withTile t T1).withTile t { T with
          pc := T.pc + 4, v := Map.set 0 T.v vd.val v', vPoison := Map.set false T.vPoison vd.val false })
      ∧ good v'.toNat
    let each := fun (f : Nat → Nat → Nat → Nat) (v : Nat) =>
      ∀ i, i < 32 → el v i = if on i then f (el d i) (el a i) (el b i) else el d i
    let near := fun (exact : FVal → FVal) (f : Nat → Nat) => ∀ x, match exact (FVal.decode fmt32 x) with
      | .fin n m e => |fmt32.rank (f x) - fmt32.rank ((FVal.fin n m e).encode fmt32 .toInf)| ≤ 2
      | y => f x = y.encode fmt32 .toInf
    T.vq = [] → T.vPoisoned va.val = false → T.vPoisoned vb.val = false → T.vPoisoned vd.val = false →
      gives (.vfma t vd va vb pg .fp32) (each fun c x y =>
        (((FVal.decode fmt32 x).mul (FVal.decode fmt32 y)).add (FVal.decode fmt32 c)).encode fmt32 .toInf)
      ∧ gives (.vexp2 t vd va vb pg .fp32) (each fun _ x _ => fexp2 x) ∧ near FVal.exp2 fexp2
      ∧ gives (.vlog2 t vd va vb pg .fp32) (each fun _ x _ => flog2 x) ∧ near FVal.log2 flog2
      ∧ gives (.vrcp t vd va vb pg .fp32) (each fun _ x _ => frecip x) ∧ near FVal.recip frecip
      ∧ gives (.vrsq t vd va vb pg .fp32) (each fun _ x _ => frsqrt x) ∧ near FVal.rsqrt frsqrt
      ∧ gives (.vredsum t vd va vb pg .int32) (fun v =>
          v = ((List.range 32).map fun i => if on i then el a i else 0).sum % 2 ^ 32)
      ∧ gives (.vredmax t vd va vb pg .int32) (fun v => v < 2 ^ 32
          ∧ (∀ i, i < 32 → on i = true → (BitVec.ofNat 32 (el a i)).toInt ≤ (BitVec.ofNat 32 v).toInt)
          ∧ (v = 2 ^ 31 ∨ ∃ i, i < 32 ∧ on i = true ∧ v = el a i))

/-- R171, R172: VSEL takes the active elements from va and the others from vb, VBCAST writes the low bits of a scalar register to the
active elements, VCVT between integer types saturates, and VEXT extends the selected element into a scalar register.
R171: comparisons write a predicate, one bit for each byte of an active element that compares true; VPAND and VPNOT combine
predicates under the governing predicate. p0 reads as all ones and a write to it is discarded (R158). -/
def Obligations.VectorMovesAndPredicates : Prop :=
  (∀ (s : State) (t : TileId) (vd va vb : RegNo) (pg : Fin 8) (ty src : VType), s.m.issues t [vd, va, vb] →
    let T := s.m.tile t.val
    let w := ty.width
    let el := fun (w r i : Nat) => r / 2 ^ (w * i) % 2 ^ w
    let sg := fun (w n : Nat) => if n < 2 ^ (w - 1) then (n : Int) else n - 2 ^ w
    let on := fun (i : Nat) => (T.getP pg.val).getLsbD (i * w / 8)
    let d := (T.getV vd.val).toNat
    let a := (T.getV va.val).toNat
    let b := (T.getV vb.val).toNat
    let gives := fun (c : Instr) (f : Nat → Nat) => ∃ T1 v',
      exec c s = .next (s.withTile t T1)
      ∧ exec (.vectorExecute t) (s.withTile t T1) = .next ((s.withTile t T1).withTile t { T with
          pc := T.pc + 4, v := Map.set 0 T.v vd.val v', vPoison := Map.set false T.vPoison vd.val false })
      ∧ ∀ i, i < 1024 / w → el w v'.toNat i = f i
    T.vq = [] → T.vPoisoned va.val = false → T.vPoisoned vb.val = false → T.vPoisoned vd.val = false →
      gives (.vsel t vd va vb pg ty) (fun i => if on i then el w a i else el w b i)
      ∧ (ty.isInt = true → gives (.vbcast t vd va vb pg ty) (fun i => if on i then (T.getX va.val).toNat % 2 ^ w else el w d i))
      ∧ (ty.isInt = true → src.isInt = true → vb.val = src.code → gives (.vcvt t vd va vb pg ty) (fun i =>
          if i < 1024 / Max.max w src.width ∧ on i = true then
            ((Min.min (Max.max (sg src.width (el src.width a i)) (-(2 ^ (w - 1) : Nat))) ((2 ^ (w - 1) : Nat) - 1))
              % (2 ^ w : Nat)).toNat
          else el w d i))
      ∧ (ty.isInt = true → vd.val ≠ 0 → ∃ T1, exec (.vext t vd va vb pg ty) s = .next (s.withTile t T1)
          ∧ exec (.vectorExecute t) (s.withTile t T1) = .next ((s.withTile t T1).withTile t { T with
              pc := T.pc + 4
              x := Map.set 0 T.x vd.val (BitVec.ofInt 64 (sg w (el w a ((T.getX vb.val).toNat % (1024 / w))))) })))
  ∧ (∀ (s : State) (t : TileId) (vd va vb : RegNo) (pg : Fin 8) (ty : VType), s.m.issues t [vd, va, vb] →
    let T := s.m.tile t.val
    let w := ty.width
    let sg := fun (r : W1024) (i : Nat) =>
      let n := r.toNat / 2 ^ (w * i) % 2 ^ w
      if n < 2 ^ (w - 1) then (n : Int) else n - 2 ^ w
    let gives := fun (c : Instr) (good : W128 → Prop) => ∃ T1 p',
      exec c s = .next (s.withTile t T1)
      ∧ exec (.vectorExecute t) (s.withTile t T1) = .next ((s.withTile t T1).withTile t { T with
          pc := T.pc + 4, p := if vd.val = 0 then T.p else Map.set 0 T.p vd.val p' })
      ∧ good p'
    let cmp := fun (c : Instr) (r : Int → Int → Bool) => gives c fun p' =>
      ∀ j, j < 128 → p'.getLsbD j =
        ((T.getP pg.val).getLsbD (j / (w / 8) * w / 8) && r (sg (T.getV va.val) (j / (w / 8))) (sg (T.getV vb.val) (j / (w / 8))))
    T.vq = [] → vd.val < 8 →
      (ty.isInt = true → T.vPoisoned va.val = false → T.vPoisoned vb.val = false →
        cmp (.vcmpeq t vd va vb pg ty) (fun x y => decide (x = y))
        ∧ cmp (.vcmplt t vd va vb pg ty) (fun x y => decide (x < y))
        ∧ cmp (.vcmple t vd va vb pg ty) (fun x y => decide (x ≤ y)))
      ∧ (va.val < 8 → vb.val < 8 → gives (.vpand t vd va vb pg .int8) (fun p' =>
          p' = T.getP va.val &&& T.getP vb.val &&& T.getP pg.val))
      ∧ (va.val < 8 → vb.val = 0 → gives (.vpnot t vd va vb pg .int8) (fun p' => p' = ~~~(T.getP va.val) &&& T.getP pg.val)))

/-- R174: VLD reads 128 B into a vector register, VST writes them, and VTAGSET and VTAGCLR set the FULL tags of the two lines. Every
byte outside the 128 B and every other tag stays as it was.
R141, R142: a tagged load waits until both lines are full and takes them, VLDT emptying them and VLDTK not; a tagged store waits
until both are empty and fills them. -/
def Obligations.VectorMemory : Prop :=
  (∀ (s : State) (t : TileId) (v a : RegNo) (off : BitVec 13) (write : Bool), s.m.issues t [a] →
    let T := s.m.tile t.val
    let addr := (T.getX a.val + BitVec.ofInt 64 (128 * off.toInt)).toNat
    let ends := fun (c : Instr) (good : Tile → Prop) => ∃ T1 T2,
      exec c s = .next (s.withTile t T1) ∧ exec (.vectorExecute t) (s.withTile t T1) = .next ((s.withTile t T1).withTile t T2) ∧ good T2
    let base := { T with pc := T.pc + 4, nextId := T.nextId + 1 }
    s.m.vpadOk t addr write → T.vq = [] → Map.wf 0 T.mem → Map.wf false T.full → Map.wf false T.poison →
      (write = false → T.found (addr / 64) = .clean → T.found (addr / 64 + 1) = .clean →
        ends (.vld t v a off) fun T2 => T2 = { base with
          v := Map.set 0 T.v v.val (BitVec.ofNat 1024 (leNat (T.readBytes addr 128)))
          vPoison := Map.set false T.vPoison v.val false })
      ∧ (write = true → T.vPoisoned v.val = false → ends (.vst t v a off) fun T2 => ∃ mem poison err,
          T2 = { base with mem := mem, poison := poison, wordErr := err }
          ∧ (∀ i, i < 128 → Map.get 0 mem (addr + i) = BitVec.ofNat 8 ((T.getV v.val).toNat / 256 ^ i))
          ∧ (∀ l, Map.get false poison l = if l = addr / 64 ∨ l = addr / 64 + 1 then false else T.poisoned l)
          ∧ ∀ k, k < addr ∨ addr + 128 ≤ k → Map.get 0 mem k = Map.get 0 T.mem k)
      ∧ (v.val = 0 → ∀ c b, c = Instr.vtagset t v a off ∧ b = true ∨ c = Instr.vtagclr t v a off ∧ b = false →
          ends c fun T2 => ∃ full, T2 = { base with full := full }
            ∧ Map.get false full (addr / 64) = b ∧ Map.get false full (addr / 64 + 1) = b
            ∧ ∀ k, k ≠ addr / 64 → k ≠ addr / 64 + 1 → Map.get false full k = Map.get false T.full k))
  ∧ (∀ (s : State) (t : TileId) (v a : RegNo) (off : BitVec 13), s.m.issues t [a] →
    let T := s.m.tile t.val
    let addr := (T.getX a.val + BitVec.ofInt 64 (128 * off.toInt)).toNat
    let l := addr / 64
    let ends := fun (c : Instr) (good : Tile → Prop) => ∃ T1 T2,
      exec c s = .next (s.withTile t T1) ∧ exec (.vectorExecute t) (s.withTile t T1) = .next ((s.withTile t T1).withTile t T2) ∧ good T2
    let base := { T with pc := T.pc + 4, nextId := T.nextId + 1 }
    let loaded := { base with
      v := Map.set 0 T.v v.val (BitVec.ofNat 1024 (leNat (T.readBytes addr 128))), vPoison := Map.set false T.vPoison v.val false }
    s.m.vpadOk t addr true → T.vq = [] → Map.wf 0 T.mem → Map.wf false T.full → Map.wf false T.poison →
      (T.tagFull l = true → T.tagFull (l + 1) = true → T.found l = .clean → T.found (l + 1) = .clean →
        ends (.vldtk t v a off) (fun T2 => T2 = loaded)
        ∧ ends (.vldt t v a off) fun T2 => ∃ full, T2 = { loaded with full := full }
            ∧ Map.get false full l = false ∧ Map.get false full (l + 1) = false
            ∧ ∀ k, k ≠ l → k ≠ l + 1 → Map.get false full k = Map.get false T.full k)
      ∧ (T.tagFull l = false → T.tagFull (l + 1) = false → T.vPoisoned v.val = false →
        ends (.vstf t v a off) fun T2 => ∃ mem poison err full,
          T2 = { base with mem := mem, poison := poison, wordErr := err, full := full }
          ∧ (∀ k, Map.get false poison k = if k = l ∨ k = l + 1 then false else T.poisoned k)
          ∧ Map.get false full l = true ∧ Map.get false full (l + 1) = true
          ∧ (∀ k, k ≠ l → k ≠ l + 1 → Map.get false full k = Map.get false T.full k)
          ∧ (∀ i, i < 128 → Map.get 0 mem (addr + i) = BitVec.ofNat 8 ((T.getV v.val).toNat / 256 ^ i))
          ∧ ∀ k, k < addr ∨ addr + 128 ≤ k → Map.get 0 mem k = Map.get 0 T.mem k)
      ∧ (T.tagFull l = false → ends (.vldt t v a off) fun T2 => T2.v = T.v ∧ T2.full = T.full ∧ T2.vq ≠ []))

/-! ### Tile instructions: flags, beats and turns -/

/-- R184, R185, R188: the flag instructions on a flag allocated in the turn, the waits that hold the core at the instruction, and FENCE,
which waits while a named engine still works.
R186, R187, R180: BEAT waits for its beat and arms BEAT_DUE d beats later, or disarms it for d = 0; a beat before the tile's last one
raises BEAT_ORDER; TURN stops the core until the turn boundary; ACQ takes the oldest completion word, or reads all ones. The model's own choices in it:
log entry 7. -/
def Obligations.FlagsFenceBeats : Prop :=
  (∀ (s : State) (t : TileId) (d : RegNo) (f : FlagNo) (e : BitVec 4), s.m.issues t [d] →
    let T := s.m.tile t.val
    let goes := fun (c : Instr) (T' : Tile) => exec c s = .next (s.withTile t T')
    let on := fun (b : Bool) => { T with pc := T.pc + 4, flags := Map.set false T.flags f.val b }
    ((s.m.ownerPart t.val).compat = false →
      goes (.falloc t f) { on false with alloc := Map.set false T.alloc f.val true })
    ∧ ((s.m.ownerPart t.val).compat = true → goes (.falloc t f) (on false))
    ∧ (T.allocated f.val = true ∨ (s.m.ownerPart t.val).compat = true →
        goes (.fset t f) (on true) ∧ goes (.fclr t f) (on false)
        ∧ goes (.fwait t f) (if T.flagSet f.val then { T with pc := T.pc + 4 } else T)
        ∧ goes (.fwaitc t f) (if T.flagSet f.val then on false else T)
        ∧ goes (.ftest t d f) { T with
            pc := T.pc + 4, x := if d.val = 0 then T.x else Map.set 0 T.x d.val (if T.flagSet f.val then 1 else 0) })
    ∧ (T.allocated f.val = false → (s.m.ownerPart t.val).compat = false → T.excCause = none →
        ∀ c, c = Instr.fset t f ∨ c = Instr.fclr t f ∨ c = Instr.fwait t f ∨ c = Instr.fwaitc t f ∨ c = Instr.ftest t d f →
          ∃ s', exec c s = .next s' ∧ s'.m.tiles = (s.m.setTile t.val { T with
            run := .excepted, excCause := some .flagUnalloc, excPc := T.pc, excInfo := BitVec.ofNat 64 f.val }).tiles)
    ∧ (let busy := (e.getLsbD 0 = true ∧ T.vq ≠ []) ∨ (e.getLsbD 1 = true ∧ T.kq ≠ []) ∨ (e.getLsbD 3 = true ∧ T.mq ≠ [])
          ∨ (e.getLsbD 2 = true ∧ ∃ x ∈ T.aq, ∃ pc, x.by_ = .core pc)
      (busy → goes (.fence t e) T) ∧ (¬ busy → goes (.fence t e) { T with pc := T.pc + 4 })))
  ∧ (∀ (s : State) (t : TileId) (n : RegNo) (k : W16) (d : Byte), s.m.issues t [n] →
    let T := s.m.tile t.val
    let goes := fun (c : Instr) (T' : Tile) => exec c s = .next (s.withTile t T')
    let inOrder := ∀ l, T.lastBeat = some l → l ≤ k.toNat
    (inOrder → k.toNat ≤ (s.m.ownerPart t.val).beatNow → goes (.beat t k d) { T with
        pc := T.pc + 4, lastBeat := some k.toNat, beatWait := false
        beatDue := if d.toNat = 0 then none else some (k.toNat + d.toNat) })
    ∧ (inOrder → (s.m.ownerPart t.val).beatNow < k.toNat → goes (.beat t k d) { T with lastBeat := some k.toNat, beatWait := true })
    ∧ (¬ inOrder → T.excCause = none → ∃ s', exec (.beat t k d) s = .next s' ∧ s'.m.tiles = (s.m.setTile t.val { T with
        run := .excepted, excCause := some .beatOrder, excPc := T.pc, excInfo := BitVec.ofNat 64 k.toNat }).tiles)
    ∧ goes (.turn t d) { T with run := .inTurn, turnD := d.toNat }
    ∧ (T.cq = [] → goes (.acq t n) { T with
        pc := T.pc + 4, x := if n.val = 0 then T.x else Map.set 0 T.x n.val (BitVec.allOnes 64) })
    ∧ (∀ w ws, T.cq = w :: ws → goes (.acq t n) { T with
        pc := T.pc + 4, cq := ws, x := if n.val = 0 then T.x else Map.set 0 T.x n.val (BitVec.ofNat 64 w.toNat) }))

/-! ### Tile instructions: Kiln -/

/-- R176, R178: a MUL or STORE block without a fault enters Kiln's queue of four with its line ranges; a faulty field or a reserved
operation raises BAD_BLOCK with the offset of the first faulty field, after FLAG_UNALLOC of a DONE_FLAG not allocated (R191), and an n that names no block raises ILLEGAL.
R159 to R161: a word that is no instruction raises ILLEGAL with the word in EXC_INFO, and so does a fetch past 0xFFFC of any
instruction. The model's own choices in it:
log entries 7, 17. -/
def Obligations.KilnIssue : Prop :=
  (∀ (s : State) (t : TileId) (n : RegNo),
    let T := s.m.tile t.val
    let b := T.block n.val
    let done := b / 2 ^ 16 % 2 ^ 16
    let flagOk := done < 256 → (s.m.ownerPart t.val).compat = true ∨ T.allocated done = true
    let enters := fun (c : Instr) (k : KCmd) (rs : List LineRange) (T' : Tile) =>
      T.kq.length < 4 → T.sbStall rs = false → s.m.testingRanges t.val rs = false →
        exec c s = .next (s.withTile t { T' with
          pc := T.pc + 4, kq := T.kq ++ [(T.nextId, k)], nextId := T.nextId + 1
          sb := T.sb ++ rs.map fun r => ⟨r.1, r.2.1, r.2.2, T.nextId⟩ })
    (s.m.issuesBlock t n 1 → flagOk →
      (∀ off, kilnMulFault T b = some off → T.excCause = none →
        ∃ s', exec (.kilnMul t n) s = .next s' ∧ s.m.trapped s'.m t .badBlock (BitVec.ofNat 64 off))
      ∧ (2 ≤ b / 256 % 256 → kilnMulFault T b = some 1)
      ∧ (kilnMulFault T b = none →
          (∀ i, i < b / 2 ^ 128 % 2 ^ 16 →
            T.check wideAllow (b / 2 ^ 32 % 2 ^ 32 + i * (b / 2 ^ 96 % 2 ^ 16)) ((kfmtA (b / 2 ^ 152 % 16)).getD .int8).size = .ok
            ∧ T.check wideAllow (b / 2 ^ 64 % 2 ^ 32 + i * (b / 2 ^ 112 % 2 ^ 16)) ((kfmtB (b / 2 ^ 156 % 16)).getD .int8).size = .ok) →
          ∃ ty, enters (.kilnMul t n) (kilnMulCmd b) (kilnMulRanges b)
            { T with kIssued := Map.set .fp32 T.kIssued (b / 2 ^ 144 % 256) ty }))
    ∧ (s.m.issuesBlock t n 2 → flagOk → kilnStoreFault T b = none →
        T.check wideAllow (b / 2 ^ 32 % 2 ^ 32) (storeBytes (b / 2 ^ 72 % 256)) = .ok →
        ∃ k, enters (.kilnStore t n) k [lineRange (b / 2 ^ 32 % 2 ^ 32) (storeBytes (b / 2 ^ 72 % 256)) true] T)
    ∧ (∀ op, op ≠ 1 → op ≠ 2 → s.m.issuesBlock t n op → flagOk → T.excCause = none →
        ∃ s', exec (.badBlock t n true) s = .next s' ∧ s.m.trapped s'.m t .badBlock 0)
    ∧ (∀ op, op = 0 ∨ 6 ≤ op → s.m.issuesBlock t n op → flagOk → T.excCause = none →
        ∃ s', exec (.badBlock t n false) s = .next s' ∧ s.m.trapped s'.m t .badBlock 0)
    ∧ (∀ op, op ≠ 1 → op ≠ 2 → s.m.issuesBlock t n op → ¬ flagOk → T.excCause = none →
        ∃ s', exec (.badBlock t n true) s = .next s' ∧ s.m.trapped s'.m t .flagUnalloc (BitVec.ofNat 64 done))
    ∧ (s.m.issues t (blockRegs n) → n.val % 4 ≠ 0 ∨ n.val < 4 → T.excCause = none →
        ∀ c, c = Instr.kilnMul t n ∨ c = Instr.kilnStore t n →
          ∃ s' w, exec c s = .next s' ∧ s.m.trapped s'.m t .illegal w))
  ∧ (∀ (s : State) (t : TileId) (w : W32), (s.m.tile t.val).excCause = none →
    (s.m.issues t [] → legalWord w.toNat = false →
      ∃ s', exec (.illegal t (some w)) s = .next s' ∧ s.m.trapped s'.m t .illegal (BitVec.ofNat 64 w.toNat))
    ∧ ((∃ q, w.toNat / 2 ^ 26 = q ∧ (q = 0 ∨ q = 0x1E ∨ q = 0x1F ∨ 0x32 ≤ q)) → legalWord w.toNat = false)
    ∧ ((s.m.tile t.val).run = .running → 0x10000 ≤ (s.m.tile t.val).pc →
      ∃ s', exec (.illegal t none) s = .next s' ∧ s'.m.tiles = (s.m.setTile t.val { s.m.tile t.val with
        run := .excepted, excCause := some .illegal, excPc := 0xFFFC, excInfo := 0x8000000000010000 }).tiles))

/-- R129: the oldest MUL of INT8 operands adds to C[i][j] the sum over its steps of A[i] × B[j], modulo 2^32, in the set it names (which
it first clears where ZERO is set); the oldest STORE of OUT_FMT 0 writes the 256 words of its set in row-major order. The command
leaves the queue and its ranges retire. -/
def Obligations.KilnRuns : Prop :=
  ∀ (s : State) (t : TileId) (id : Nat) (rest : List (Nat × KCmd)),
    let T := s.m.tile t.val
    let sb' := T.sb.filter fun e => e.owner ≠ id
    let flags' := fun (d : Option FlagNo) => match d with
      | none => T.flags
      | some f => Map.set false T.flags f.val true
    (∀ zero done a b as bs k acc, T.kq = (id, .mul zero done a b as bs k acc .int8 .int8) :: rest →
      Map.wf 0 (Map.get {} T.acc acc.val).c →
      (∀ q < k, ∀ i < 16, T.found ((a + q * as + i) / 64) = .clean ∧ T.found ((b + q * bs + i) / 64) = .clean) →
      ∃ s' set, exec (.kilnComplete t) s = .next s'
        ∧ s'.m.tiles = (s.m.setTile t.val { T with
            kq := rest, sb := sb', flags := flags' done, acc := Map.set {} T.acc acc.val set }).tiles
        ∧ set.ty = .int32 ∧ set.poison = (!zero && (Map.get {} T.acc acc.val).poison)
        ∧ ∀ i j : Nat, i < 16 → j < 16 → Map.get 0 set.c (16 * i + j) =
            (if zero then 0 else Map.get 0 (Map.get {} T.acc acc.val).c (16 * i + j))
              + BitVec.ofInt 32 ((List.range k).map fun q =>
                  (Map.get 0 T.mem (a + q * as + i)).toInt * (Map.get 0 T.mem (b + q * bs + j)).toInt).sum)
    ∧ (∀ done dst acc, T.kq = (id, .store done dst acc 0) :: rest → dst % 64 = 0 → Map.wf 0 T.mem →
      (Map.get {} T.acc acc.val).poison = false →
      (T.bankAt dst).scrub = false → (T.bankAt (dst + 1023)).scrub = false →
      ∃ mem poison err, exec (.kilnComplete t) s = .next (s.withTile t { T with
          kq := rest, sb := sb', flags := flags' done, mem := mem, poison := poison, wordErr := err })
        ∧ (∀ n i : Nat, n < 256 → i < 4 → Map.get 0 mem (dst + 4 * n + i) =
            BitVec.ofNat 8 ((Map.get 0 (Map.get {} T.acc acc.val).c n).toNat / 256 ^ i))
        ∧ ∀ k, k < dst ∨ dst + 1024 ≤ k → Map.get 0 mem k = Map.get 0 T.mem k)

/-! ### Array commands -/

/-- R50, R56, R59, R61 to R64, R69, R71, R74: an array command issued to an empty queue is queued with its 32 B record; a bad field
ends it with BAD_CMD; a PASS that passes its checks begins to load; another command begins to run where its arrays' content and power
allow it and else ends with STATE, and PROG puts its arrays in LOADING and counts a program cycle on each. The model's own choices in it:
log entry 62. -/
def Obligations.ArrayIssue : Prop :=
  ∀ (s : State) (t : TileId) (n : RegNo) (op : Nat), s.m.issuesBlock t n op →
    let T := s.m.tile t.val
    let b := T.block n.val
    let fld := fun (at_ len : Nat) => b / 2 ^ (8 * at_) % 2 ^ (8 * len)
    let arrs := maskArrs (fld 4 8)
    let B := T.asOf T.nextId
    let base : Tile := { T with
      pc := T.pc + 4, nextId := T.nextId + 1, sb := T.sb ++ (cmdRanges b).map fun r : LineRange => ⟨r.1, r.2.1, r.2.2, T.nextId⟩ }
    let cmd : ACmd := { id := T.nextId, by_ := .core T.pc, record := leBytes 32 b }
    let goes := fun (c : Instr) (st : CmdStage) (status : Nat) =>
      exec c s = .next (s.withTile t { base with aq := [{ cmd with stage := st, status := status }] })
    let runsIf := fun (c : Instr) (ok : Prop) => (ok → goes c .running 0) ∧ (¬ ok → goes c (.ended 2) 2)
    (fld 2 2 < 256 → (s.m.ownerPart t.val).compat = true ∨ T.allocated (fld 2 2) = true) →
    T.aq = [] → T.sbStall (cmdRanges b) = false →
      (badFields b = true → ∀ c, (op = 1 ∧ c = Instr.pass t n) ∨ (op = 2 ∧ c = Instr.read t n) ∨ (op = 3 ∧ c = Instr.prog t n)
          ∨ (op = 4 ∧ c = Instr.refresh t n) ∨ (op = 5 ∧ c = Instr.erase t n) ∨ (op = 6 ∧ c = Instr.power t n)
          ∨ (op = 7 ∧ c = Instr.status t n) ∨ ((op = 0 ∨ 8 ≤ op) ∧ c = Instr.badCmd t n) → goes c (.ended 9) 9)
      ∧ (op = 0 ∨ 8 ≤ op → badFields b = true)
      ∧ (badFields b = false →
        (op = 1 → (∀ a ∈ arrs, a / 8 < fld 24 1) → B.gate arrayAllow 64 (fld 12 4) (512 * fld 24 1) = .ok →
          (∀ j ∈ passBlocks b, B.gate arrayAllow 64
              (fld 16 4 + j * blockBytes ((arrs.head?.map fun a => (T.arr a).w8).getD false) (b.testBit 12))
              (blockBytes ((arrs.head?.map fun a => (T.arr a).w8).getD false) (b.testBit 12)) = .ok
            ∧ (fld 20 4 = 0xFFFFFFFF ∨ B.gate arrayAllow 64 (fld 20 4 + 64 * j) 64 = .ok)) →
          goes (.pass t n) .load 0)
        ∧ (op = 4 → runsIf (.refresh t n) (∀ a ∈ arrs, (T.arr a).power ≠ .off
            ∧ ((T.arr a).content = .valid ∨ (T.arr a).content = .patched)))
        ∧ (op = 5 → runsIf (.erase t n) (∀ a ∈ arrs, (T.arr a).power ≠ .off ∧ (T.arr a).content ≠ .loading))
        ∧ (op = 6 → runsIf (.power t n) (fld 1 1 = 0 → ∀ a ∈ arrs, (T.arr a).power = .off ∨ (T.arr a).content = .empty
            ∨ (T.arr a).content = .unknown))
        ∧ (op = 7 → B.gate arrayAllow 4 (fld 16 4) 256 = .ok → goes (.status t n) .running 0)
        ∧ (Map.wf {} T.arrs → op = 2 → (T.arr (fld 4 1)).suspect = false → (T.arr (fld 4 1)).power = .active →
          ((T.arr (fld 4 1)).content = .valid ∨ (T.arr (fld 4 1)).content = .patched ∨ (T.arr (fld 4 1)).content = .empty) →
          B.gate readAllow 64 (fld 12 4) (256 * fld 8 2) = .ok →
          (b.testBit 8 = true → B.gate arrayAllow 4 (fld 16 4) (4 * fld 8 2) = .ok) →
          ∃ arrs', exec (.read t n) s = .next (s.withTile t
              { base with arrs := arrs', aq := [{ cmd with stage := .running }] })
            ∧ ∀ k, Map.get {} arrs' k = T.arr k)
        ∧ (Map.wf {} T.arrs → op = 3 → (∀ a ∈ arrs, (T.arr a).content = .empty ∧ (T.arr a).power = .active) →
          B.gate progAllow 64 (fld 12 4) (256 * arrs.length * fld 16 2) = .ok →
          (fld 24 4 = 0xFFFFFFFF ∨ B.gate arrayAllow 8 (fld 24 4) (8 * fld 20 2) = .ok) →
          ∃ arrs' cy, exec (.prog t n) s = .next { s with m := { s.m.setTile t.val
                { base with arrs := arrs', aq := [{ cmd with stage := .running }] } with
              wear := { s.m.wear with cycles := cy } } }
            ∧ (∀ k, Map.get {} arrs' k = if k ∈ arrs then
                { T.arr k with
                  content := .loading, w8 := b.testBit 9, rows := [], rowTime := [], stuck := [], stuckCount := 0, loopsSeen := 0 }
              else T.arr k)
            ∧ (∀ a ∈ arrs, Map.get 0 cy (s.m.wearKey t.val a) = Map.get 0 s.m.wear.cycles (s.m.wearKey t.val a) + 1)
            ∧ ∀ k, (∀ a ∈ arrs, k ≠ s.m.wearKey t.val a) → Map.get 0 cy k = Map.get 0 s.m.wear.cycles k))

/-- R52, R53, R69, R71, R73, R74: the only command in the queue runs and is reported: POWER sets the power of the arrays it names,
ERASE empties them, REFRESH senses its rows and restores the time of those that
pass, STATUS writes 64 state words; the completion word enters the completion
queue, the flag is set, and a status above 1 raises an ARRAY exception. The model's own choices in it:
log entry 62. -/
def Obligations.ArrayRuns : Prop :=
  ∀ (s : State) (t : TileId) (c : ACmd) (pc : Nat) (phys : ArrPhys),
    let T := s.m.tile t.val
    let fld := fun (at_ len : Nat) => c.rec_ / 2 ^ (8 * at_) % 2 ^ (8 * len)
    let arrs := maskArrs (fld 4 8)
    let flags := match c.done with
      | none => T.flags
      | some f => Map.set false T.flags f.val true
    let ends := fun (good : Map Arr → Prop) => ∃ arrs',
      exec (.arrayCmdComplete t c.id phys) s = .next (s.withTile t { T.reported c 0 with flags := flags, arrs := arrs' })
        ∧ good arrs' ∧ ∀ k, k ∉ arrs → Map.get {} arrs' k = T.arr k
    T.aq = [c] → c.by_ = .core pc → c.stage = .running → c.sat = 0 → s.m.noService t → Map.wf {} T.arrs →
      (c.op = 6 → ends fun A => ∀ a ∈ arrs, Map.get {} A a = { T.arr a with
          power := if fld 1 1 = 0 then .off else if fld 1 1 = 1 then .standby else .active })
      ∧ (c.op = 5 → (∀ a ∈ arrs, a ∉ phys.eraseFail) → ends fun A => ∀ a ∈ arrs,
          (Map.get {} A a).content = .empty ∧ (Map.get {} A a).rows = [] ∧ (Map.get {} A a).stuck = []
          ∧ (Map.get {} A a).power = (T.arr a).power)
      ∧ (c.op = 5 → (∃ a ∈ arrs, a ∈ phys.eraseFail) → T.excCause = none → ∃ s' arrs', exec (.arrayCmdComplete t c.id phys) s = .next s'
          ∧ s'.m.tiles = (s.m.setTile t.val { T.reported c 8 with
              arrs := arrs', run := T.run.except, excCause := some .array, excPc := pc
              excInfo := BitVec.ofNat 64 (2 ^ 16 * 8 + 2 ^ 8 * c.qtag + 5) }).tiles
          ∧ ∀ a ∈ arrs, (Map.get {} arrs' a).content = if a ∈ phys.eraseFail then .failed else .empty)
      ∧ (c.op = 4 → phys.senses = [] → (∀ a ∈ arrs, Map.wf [] (T.arr a).rows) →
          (∀ a ∈ arrs, ∀ r, fld 12 2 ≤ r → r < fld 12 2 + fld 14 2 → (T.arr a).rowOk r = true ∧ T.lateness a r s.m.timeUs = 0) →
          ends fun A => ∀ a ∈ arrs,
          (∀ r, fld 12 2 ≤ r → r < fld 12 2 + fld 14 2 → Map.get 0 (Map.get {} A a).rowTime r = s.m.timeUs)
          ∧ (∀ r, (Map.get {} A a).row r = (T.arr a).row r) ∧ (Map.get {} A a).content = (T.arr a).content)
      ∧ (c.op = 7 → Map.wf 0 T.mem → (T.bankAt (fld 16 4)).scrub = false → (T.bankAt (fld 16 4 + 255)).scrub = false →
        ∃ mem poison err, exec (.arrayCmdComplete t c.id phys) s = .next (s.withTile t
            { T.reported c 0 with flags := flags, mem := mem, poison := poison, wordErr := err })
          ∧ (∀ a i : Nat, a < 64 → i < 4 → Map.get 0 mem (fld 16 4 + 4 * a + i) = BitVec.ofNat 8 ((T.arr a).word / 256 ^ i))
          ∧ ∀ k, k < fld 16 4 ∨ fld 16 4 + 256 ≤ k → Map.get 0 mem k = Map.get 0 T.mem k)

/-- R63, R65, R66: a PROG without tags whose ring holds all 512 rows takes them and leaves each array it names at the levels of its rows,
VALID where every cell verified; the check columns follow R35.
R61, R96: a READ without tags writes the packed levels of its rows, two a byte, at its address; with a row that fails its digital
check it ends with CHECK. -/
def Obligations.ArrayProgramAndRead : Prop :=
  (∀ (s : State) (t : TileId) (c : ACmd) (pc : Nat) (phys : ArrPhys),
    let T := s.m.tile t.val
    let fld := fun (at_ len : Nat) => c.rec_ / 2 ^ (8 * at_) % 2 ^ (8 * len)
    let arrs := maskArrs (fld 4 8)
    let n := arrs.length
    T.aq = [c] → c.by_ = .core pc → c.stage = .running → c.op = 3 → c.sat = 0 → c.input = [] → c.rowsDone = 0 → c.rec_.testBit 8 = false →
    fld 16 2 = 512 → fld 24 4 = 0xFFFFFFFF → n ≠ 0 → phys.stuck = [] → s.m.noService t → Map.wf {} T.arrs →
    fld 12 4 % 64 = 0 →
    (∀ l, fld 12 4 / 64 ≤ l → l < fld 12 4 / 64 + 2048 * n → T.found l = .clean ∧ s.m.testing t.val l = false) →
    (∀ a ∈ arrs, (T.arr a).stuck = [] ∧ (T.arr a).stuckCount = 0) →
      ∃ arrs', exec (.arrayCmdComplete t c.id phys) s = .next (s.withTile t { T.reported c 0 with
          flags := (match c.done with | none => T.flags | some f => Map.set false T.flags f.val true), arrs := arrs' })
        ∧ (∀ k, k ∉ arrs → Map.get {} arrs' k = T.arr k)
        ∧ ∀ i a, arrs[i]? = some a → let A := Map.get {} arrs' a
          A.content = .valid ∧ A.stuck = [] ∧ A.power = (T.arr a).power
          ∧ (∀ r j : Nat, r < 512 → j < 256 →
              let v := (Map.get 0 T.mem (fld 12 4 + 256 * (n * r + i) + j)).toNat
              A.level r (2 * j) = v % 16 ∧ A.level r (2 * j + 1) = v / 16)
          ∧ ∀ r, r < 512 → A.rowOk r = true ∧ A.level r 512 = 8 ∧ A.level r 513 = 15 ∧ A.level r 514 = 0
              ∧ A.level r 515 = if r % 2 = 0 then 4 else 12)
  ∧ (∀ (s : State) (t : TileId) (c : ACmd) (pc : Nat) (phys : ArrPhys),
    let T := s.m.tile t.val
    let fld := fun (at_ len : Nat) => c.rec_ / 2 ^ (8 * at_) % 2 ^ (8 * len)
    let A := T.arr (fld 4 1)
    T.aq = [c] → c.by_ = .core pc → c.stage = .running → c.op = 2 → c.sat = 0 → c.rec_.testBit 8 = false → c.rec_.testBit 9 = false →
    s.m.noService t → Map.wf 0 T.mem → fld 12 4 % 64 = 0 → phys.senses = [] →
    (∀ i, i < 256 * fld 8 2 → (T.bankAt (fld 12 4 + i)).scrub = false) →
      ((∀ r, fld 6 2 ≤ r → r < fld 6 2 + fld 8 2 → A.rowOk r = true) →
        ∃ s' T', exec (.arrayCmdComplete t c.id phys) s = .next s' ∧ s'.m.tiles = (s.m.setTile t.val T').tiles
          ∧ T'.aq = [] ∧ T'.cq = (T.reported c 0).cq ∧ T'.arrs = T.arrs ∧ T'.run = T.run ∧ T'.excCause = T.excCause
          ∧ (∀ i j : Nat, i < fld 8 2 → j < 256 → (Map.get 0 T'.mem (fld 12 4 + 256 * i + j)).toNat =
              (A.level (fld 6 2 + i) (2 * j) + 16 * A.level (fld 6 2 + i) (2 * j + 1)).toNat)
          ∧ ∀ k, k < fld 12 4 ∨ fld 12 4 + 256 * fld 8 2 ≤ k → Map.get 0 T'.mem k = Map.get 0 T.mem k)
      ∧ (0 < fld 8 2 → A.rowOk (fld 6 2) = false → T.excCause = none →
        ∃ s', exec (.arrayCmdComplete t c.id phys) s = .next s' ∧ TestUnit.array t.val (fld 4 1) ∈ s'.m.tests
          ∧ s'.m.tiles = (s.m.setTile t.val { T.reported c 6 with
              run := T.run.except, excCause := some .array, excPc := pc
              excInfo := BitVec.ofNat 64 (2 ^ 16 * 6 + 2 ^ 8 * c.qtag + 2) }).tiles))

/-- R57, R60: a PASS loads its segments and enters its phase stage once its arrays accept it; a suspect array ends it with CHECK, an
array that is not VALID or PATCHED with STATE, arrays of two formats with FMT.
R43, R49, R93, R103: the phase stage of a PASS of one W4 array without outlier lists, not split, without OUT16. Where the checks of R93
and R94 hold, the 512 results, the raw results of their columns as R43 gives them, go to the drain as INT32 and are then written at
their block's address; where they fail, the pass ends with CHECK and the array is tested.
R81: a calibrated code that does not saturate lies within 1/2 + E of S / u, E the bound of the conversion's column and group. The
model's own choices in it:
log entries 10, 62. -/
def Obligations.Passes : Prop :=
  (∀ (s : State) (t : TileId) (c : ACmd) (pc : Nat),
    let T := s.m.tile t.val
    let fld := fun (at_ len : Nat) => c.rec_ / 2 ^ (8 * at_) % 2 ^ (8 * len)
    let arrs := maskArrs (fld 4 8)
    let ls := linesOf (fld 12 4) (512 * fld 24 1)
    let goes := fun (arrs' : Map Arr) (st : CmdStage) (status : Nat) (dirs : List (Nat × W32)) =>
      ∃ s', exec (.passPhasesStart t) s = .next s' ∧ s'.m.tiles = (s.m.setTile t.val { T with
        arrs := arrs', sb := T.sb.filter fun e => decide (e.owner ≠ c.id) || e.write
        aq := [{ c with stage := st, status := status, dirs := dirs, input := T.readBytes (fld 12 4) (512 * fld 24 1) }] }).tiles
    T.aq = [c] → c.by_ = .core pc → c.op = 1 → c.stage = .load → c.rec_.testBit 8 = false →
    (∀ l ∈ ls, T.found l = .clean ∧ s.m.testing t.val l = false) →
    (s.m.ownerPart t.val).flagR Reg.ARR_MODE_DIGITAL = false → Map.wf {} T.arrs →
      let ready := ∀ a ∈ arrs, (T.arr a).power = .active ∧ ((T.arr a).content = .valid ∨ (T.arr a).content = .patched)
      ((∃ a ∈ arrs, (T.arr a).content ≠ .valid ∧ (T.arr a).content ≠ .patched ∨ (T.arr a).power = .off) → goes T.arrs (.ended 2) 2 c.dirs)
      ∧ (ready → (∃ a ∈ arrs, (T.arr a).suspect = true) → goes T.arrs (.ended 6) 6 c.dirs)
      ∧ (ready → (∀ a ∈ arrs, (T.arr a).suspect = false) → (∃ a ∈ arrs, ∃ a' ∈ arrs, (T.arr a).w8 ≠ (T.arr a').w8) →
          goes T.arrs (.ended 3) 3 c.dirs)
      ∧ (ready → (∀ a ∈ arrs, (T.arr a).suspect = false ∧ ∀ a' ∈ arrs, (T.arr a).w8 = (T.arr a').w8) →
          ∃ arrs', goes arrs' .phases c.status (arrs.map fun a => (a, Map.get 0 T.grout a)) ∧ ∀ k, Map.get {} arrs' k = T.arr k))
  ∧ (∀ (s : State) (t : TileId) (c : ACmd) (pc a : Nat) (phys : ArrPhys),
    let T := s.m.tile t.val
    let P := s.m.ownerPart t.val
    let G := P.getR Reg.ARR_CFG_ROW_GROUP_LIMIT
    let x := s.m.convCtx t.val a G (T.arr a)
    let fld := fun (at_ len : Nat) => c.rec_ / 2 ^ (8 * at_) % 2 ^ (8 * len)
    let xs := segment c.input (a / 8)
    let lo := rowGroups G false (activeRows false xs)
    let hi := rowGroups G false (activeRows true xs)
    let raw := (T.arr a).rawResults x lo hi
    let ok := (T.arr a).passOk P x.u xs (phaseWeight lo hi) raw
    T.aq = [c] → c.by_ = .core pc → c.op = 1 → c.stage = .phases → maskArrs (fld 4 8) = [a] → (T.arr a).w8 = false →
    (c.rec_ / 2 ^ 9 % 2 ^ 5 = 0) → fld 20 4 = 0xFFFFFFFF →
      (ok = false → ∃ s', exec (.passPhasesEnd ⟨t, phys⟩) s = .next s' ∧ TestUnit.array t.val a ∈ s'.m.tests
          ∧ s'.m.tiles = (s.m.setTile t.val { T with aq := [{ c with stage := .ended 6, status := 6 }] }).tiles)
      ∧ (ok = true → fld 16 4 % 64 = 0 → Map.wf 0 T.mem → T.run ≠ .abandoned →
        (T.bankAt (fld 16 4 + 2048 * a)).scrub = false → (T.bankAt (fld 16 4 + 2048 * a + 2047)).scrub = false →
        (∀ p, s.m.owner t.val = some p → (s.m.part p.val).loadOp = none ∧ (s.m.part p.val).places = []) →
        ∃ s1 s2 c1, exec (.passPhasesEnd ⟨t, phys⟩) s = .next s1
          ∧ s1.m.tiles = (s.m.setTile t.val { T with aq := [c1] }).tiles
          ∧ c1.stage = .drain ∧ c1.record = c.record ∧ c1.id = c.id
          ∧ exec (.arrayCmdComplete t c.id phys) s1 = .next s2
          ∧ (s2.m.tile t.val).aq = [] ∧ (s2.m.tile t.val).run = T.run
          ∧ (∀ o i : Nat, o < 512 → i < 4 → Map.get 0 (s2.m.tile t.val).mem (fld 16 4 + 2048 * a + 4 * o + i) =
              BitVec.ofInt 8 ((raw.getD o (0, false)).1 / 256 ^ i))
          ∧ ∀ k, k < fld 16 4 + 2048 * a ∨ fld 16 4 + 2048 * a + 2048 ≤ k →
              Map.get 0 (s2.m.tile t.val).mem k = Map.get 0 T.mem k))
  ∧ (∀ (A : Arr) (x : ConvCtx) (rows : List (Nat × Int)) (c phase : Nat) (e : Int),
    let S := (rows.map fun p => p.2 * (A.level p.1 c - 8)).sum
    A.groupBound x rows c = some e → 0 ≤ e → 0 < x.u → (A.convert x rows c phase).2 = false →
      |2000 * x.u * (A.convert x rows c phase).1 - 2000 * S| ≤ x.u * (1000 + 2 * e))

/-! ### The mortar -/

/-- R181, R183, R206: a remote operation without a fault leaves as packets of at most 8 lines, ascending, and enters the mortar
queue of eight with the number of answers it waits for, or the core stays while that is full; a GET also enters its local range in the
scoreboard. With COMPAT_G1 the target lies in the tile's own wall (R193). A bad field raises BAD_BLOCK with
its offset, a tile of another partition REMOTE_PART. The model's own choices in it:
log entries 7, 63. -/
def Obligations.MortarIssue : Prop :=
  ∀ (s : State) (t : TileId) (n : RegNo) (op : Nat), s.m.issuesBlock t n op →
    let T := s.m.tile t.val
    let b := T.block n.val
    let fld := fun (at_ len : Nat) => b / 2 ^ (8 * at_) % 2 ^ (8 * len)
    let r := inWallOf (s.m.ownerPart t.val).compat t.val (fld 8 8)
    let k := fld 16 4 / 64
    let kind : RKind := if op = 1 then .put else if op = 2 then .putFill else if op = 3 then .get else if op = 4 then .addI32 else .addF32
    ∀ c, (op = 1 ∧ c = Instr.put t n) ∨ (op = 2 ∧ c = Instr.putFill t n) ∨ (op = 3 ∧ c = Instr.get t n)
        ∨ (op = 4 ∧ c = Instr.addI32 t n) ∨ (op = 5 ∧ c = Instr.addF32 t n) →
    (fld 2 2 < 256 → (s.m.ownerPart t.val).compat = true ∨ T.allocated (fld 2 2) = true) →
      (∀ off, mcmdFault b = some off → T.excCause = none →
        ∃ s', exec c s = .next s' ∧ s.m.trapped s'.m t .badBlock (BitVec.ofNat 64 off))
      ∧ (fld 4 4 % 64 ≠ 0 → fld 1 1 = 0 → (fld 2 2 < 256 ∨ fld 2 2 = 0xFFFF) → mcmdFault b = some 4)
      ∧ (mcmdFault b = none → s.m.samePart t.val (remoteTile r) = false → T.excCause = none →
        ∃ s', exec c s = .next s' ∧ s.m.trapped s'.m t .remotePart (BitVec.ofNat 64 r))
      ∧ (mcmdFault b = none → s.m.samePart t.val (remoteTile r) = true → T.check routerAllow (fld 4 4) (fld 16 4) = .ok →
        T.sbStall [lineRange (fld 4 4) (fld 16 4) (op == 3)] = false →
        (∀ i, i < k → T.found (fld 4 4 / 64 + i) = .clean ∧ s.m.testing t.val (fld 4 4 / 64 + i) = false) →
        (8 ≤ T.mq.length → exec c s = .next (s.withTile t T)) ∧ (T.mq.length < 8 → ∃ s' ps o, exec c s = .next s'
          ∧ s'.m.tiles = (s.m.setTile t.val { T with
              pc := T.pc + 4, nextId := T.nextId + 1, mq := T.mq ++ [o]
              sb := if op = 3 then T.sb ++ [⟨fld 4 4 / 64, (fld 4 4 + fld 16 4 - 1) / 64, true, T.nextId⟩] else T.sb }).tiles
          ∧ o.id = T.nextId ∧ o.kind = kind ∧ o.left = (k + 7) / 8 ∧ o.refused = none ∧ o.localAddr = fld 4 4
          ∧ s'.m.flight = s.m.flight ++ ps ∧ ps.length = (k + 7) / 8 ∧ s'.m.nextPkt = s.m.nextPkt + (k + 7) / 8
          ∧ ∀ i p, ps[i]? = some p → p.id = s.m.nextPkt + i ∧ p.kind = .request kind t.val T.nextId (r / 2 ^ 48 % 64)
              ∧ p.from_ = .tile t.val ∧ p.target = remoteTile r ∧ p.addr = r % 2 ^ 21 + 512 * i ∧ p.count = Min.min 8 (k - 8 * i)
              ∧ (op ≠ 3 → p.lines = (List.range (Min.min 8 (k - 8 * i))).map fun j =>
                  (T.readBytes (fld 4 4 + 512 * i + 64 * j) 64, false))))

/-- R143, R212, R213, R219: the first request in flight of a tile that has a route and that its target accepts is performed and answered: PUT writes its
lines, PUT_FILL writes and fills them, or parks while one of them is full, GET answers with the lines it reads, ADD_I32 adds 16 words a
line; a request that the target refuses raises an exception there and is answered with its reason. The model's own choices in it:
log entry 63. -/
def Obligations.RequestArrival : Prop :=
  ∀ (s : State) (p : Packet) (kind : RKind) (src op q : Nat) (rest : List Packet) (t : TileId),
    let T := s.m.tile t.val
    let line := p.addr / 64
    let n := if kind = .get then p.count else p.lines.length
    let ack := fun (why : Option Nat) => ({ kind := .ack src op why p.remote, from_ := .tile t.val, target := src, remote := p.remote, id := s.m.nextPkt } : Packet)
    s.m.flight = p :: rest → p.kind = .request kind src op q → p.target = t.val → (∀ x ∈ rest, p.id < x.id) → Map.wf 0 T.mem → Map.wf false T.full →
    p.addr % 64 = 0 → (∀ l ∈ p.lines, l.1.length = 64) → 0 < n →
    (s.m.routeOf p).isSome = true → (s.m.pallet (palletOf t.val)).dark = false →
    (kind = .putFill → Map.get false T.qdescErr q = false ∧ ∀ o, s.m.owner t.val = some o → (s.m.part o.val).abandoning = false) →
      let accepted := T.refuseAccess p.addr (64 * n) = none ∧ ∀ i, i < n → T.found (line + i) = .clean
      let does := fun (sent : List Packet) (good : Tile → Prop) => ∃ s' T', exec (.packetArrival p.id .clean) s = .next s'
        ∧ s'.m.tiles = (s.m.setTile t.val T').tiles ∧ s'.m.flight = rest ++ sent ∧ s'.m.parts = s.m.parts
        ∧ T'.x = T.x ∧ T'.pc = T.pc ∧ T'.run = T.run ∧ T'.banks = T.banks ∧ T'.arrs = T.arrs ∧ good T'
      let holds := fun (T' : Tile) (f : Nat → List Byte) => (∀ i j : Nat, i < n → j < 64 →
          Map.get 0 T'.mem (p.addr + 64 * i + j) = (f i).getD j 0)
        ∧ ∀ k, k < p.addr ∨ p.addr + 64 * n ≤ k → Map.get 0 T'.mem k = Map.get 0 T.mem k
      let data := fun i => ((p.lines[i]?).map (·.1)).getD []
      (accepted → kind = .put → does [ack none] fun T' => holds T' data ∧ T'.full = T.full ∧ T'.park = T.park)
      ∧ (accepted → kind = .putFill → Map.get none T.park q = none → (∀ i, i < n → T.tagFull (line + i) = false) →
          does [ack none] fun T' => holds T' data ∧ T'.park = T.park
            ∧ ∀ l, Map.get false T'.full l = if line ≤ l ∧ l < line + n then true else Map.get false T.full l)
      ∧ (accepted → kind = .putFill → Map.get none T.park q = none → (∃ i, i < n ∧ T.tagFull (line + i) = true) →
          (∀ i, i < n → T.tagFull (line + i) = true → T.queueOwner (line + i) = some q) →
          does [] fun T' => T'.mem = T.mem ∧ T'.full = T.full ∧ ∃ k, Map.get none T'.park q = some k ∧ k.lines.length = n)
      ∧ (accepted → kind = .get → does [{
            kind := .getData src op p.addr, from_ := .tile t.val, target := src, remote := p.remote, id := s.m.nextPkt
            lines := (List.range n).map fun i => (T.readBytes (p.addr + 64 * i) 64, false) }] fun T' => T' = T)
      ∧ (accepted → kind = .addI32 → does [ack none] fun T' =>
          ∀ i w : Nat, i < n → w < 16 → leNat (T'.readBytes (p.addr + 64 * i + 4 * w) 4) =
            (leNat (T.readBytes (p.addr + 64 * i + 4 * w) 4) + leNat (((data i).drop (4 * w)).take 4)) % 2 ^ 32)
      ∧ (T.refuseAccess p.addr (64 * n) = some (2, some .range, p.addr) → T.excCause = none → T.run = .running →
          ∃ s', exec (.packetArrival p.id .clean) s = .next s' ∧ s'.m.flight = rest ++ [ack (some 2)]
            ∧ s'.m.tiles = (s.m.setTile t.val { T with
                run := .excepted, excCause := some .range, excPc := 0xFFFF
                excInfo := BitVec.ofNat 64 (p.addr + 2 ^ 32 * src) }).tiles)

/-- R143, R222: a parked fill writes its lines in order while they are empty and is answered after its last line; a station's tagged
read that waits takes its line once it is full, and empties it.
R206, R212, R217, R220: an answer counts down its operation; with the last one the operation leaves the queue, its ranges retire and
its flag is set; GET data are written at the local address first; a refusal raises REMOTE_FAIL with the remote address and sets no
flag. R211: a link error that was corrected changes nothing else and is counted for the source. The model's own choices in it:
log entry 63. -/
def Obligations.ParkedAndRemote : Prop :=
  (∀ (s : State) (t : TileId) (q : QueueNo) (i : Fin 4),
    let T := s.m.tile t.val
    (∀ k l bs bad, Map.get none T.park q.val = some k → k.lines = [(l, bs, bad)] → T.tagFull l = false → (T.bankAt (64 * l)).scrub = false → bs.length = 64 →
        Map.wf 0 T.mem → Map.wf none T.park → Map.wf false T.full →
      ∃ s' T', exec (.parkEntryWrite t q) s = .next s' ∧ s'.m.tiles = (s.m.setTile t.val T').tiles
        ∧ Map.get none T'.park q.val = none ∧ Map.get false T'.full l = true
        ∧ (∀ j : Nat, j < 64 → Map.get 0 T'.mem (64 * l + j) = bs.getD j 0)
        ∧ s'.m.flight = s.m.flight ++ [{ answer k.kind k.remote t.val none with id := s.m.nextPkt }])
    ∧ (∀ k l bs bad ls, Map.get none T.park q.val = some k → k.lines = (l, bs, bad) :: ls → T.tagFull l = true → Map.wf none T.park →
      ∃ T', exec (.parkEntryWrite t q) s = .next (s.withTile t T') ∧ T'.mem = T.mem ∧ T'.full = T.full
        ∧ Map.get none T'.park q.val = some k)
    ∧ (∀ ctx st qq l, T.watch[i.val]? = some ⟨.station .get ctx st true qq, l⟩ → T.tagFull l = true → T.found l = .clean →
      exec (.sTgetWatchRead t i) s = .next { s with m := { s.m.setTile t.val
          { T with watch := T.watch.eraseIdx i.val, full := Map.set false T.full l false } with
        flight := s.m.flight ++ [{
          kind := .stationAck ctx st none, from_ := .tile t.val, target := t.val, id := s.m.nextPkt, lines := [(T.readBytes (64 * l) 64, false)] }]
        nextPkt := s.m.nextPkt + 1 } }))
  ∧ (∀ (s : State) (p : Packet) (t : TileId) (o : ROp) (ops : List ROp) (rest : List Packet),
    let T := s.m.tile t.val
    s.m.flight = p :: rest → (∀ x ∈ rest, p.id < x.id) → T.mq = o :: ops → (∀ x ∈ ops, x.id ≠ o.id) → o.stale = false → o.refused = none →
      let done := fun (T1 : Tile) => { T1 with
        mq := if 1 < o.left then { o with left := o.left - 1 } :: ops else ops
        sb := if 1 < o.left then T.sb else T.sb.filter fun e => e.owner ≠ o.id
        flags := if 1 < o.left then T.flags else match o.flag with
          | none => T.flags
          | some f => Map.set false T.flags f.val true }
      (∀ r, p.kind = .ack t.val o.id none r →
          exec (.remoteAck ⟨p.id, .clean⟩) s = .next { s with m := { s.m.setTile t.val (done T) with flight := rest } }
          ∧ ∀ own, s.m.owner t.val = some own → ∃ s', exec (.remoteAck ⟨p.id, .corrected⟩) s = .next s' ∧ s'.m.flight = rest
            ∧ s'.m.tiles = (s.m.setTile t.val (done T)).tiles ∧ (s'.m.part own.val).flagR Reg.MORTAR_EVT_LINK_CE = true)
      ∧ (∀ code r, p.kind = .ack t.val o.id (some code) r → o.left = 1 → T.excCause = none → T.run = .running →
          ∃ s', exec (.remoteAck ⟨p.id, .clean⟩) s = .next s' ∧ s'.m.flight = rest
            ∧ (s'.m.tile t.val) = { T with
                mq := ops, sb := T.sb.filter fun e => e.owner ≠ o.id
                run := .excepted, excCause := some .remoteFail, excPc := o.pc, excInfo := r })
      ∧ (∀ a, p.kind = .getData t.val o.id (remoteAddr o.remote.toNat + 64 * a) → o.localAddr % 64 = 0 → Map.wf 0 T.mem → (∀ l ∈ p.lines, l.1.length = 64) →
          (∀ i, i < p.lines.length → (T.bankAt (o.localAddr + 64 * (a + i))).scrub = false) →
          ∃ mem poison err, exec (.getDataArrival ⟨p.id, .clean⟩) s = .next { s with m := { s.m.setTile t.val
              { done T with mem := mem, poison := poison, wordErr := err } with flight := rest } }
            ∧ (∀ i j : Nat, i < p.lines.length → j < 64 →
                Map.get 0 mem (o.localAddr + 64 * (a + i) + j) = (((p.lines[i]?).map (·.1)).getD []).getD j 0)
            ∧ ∀ k, k < o.localAddr + 64 * a ∨ o.localAddr + 64 * (a + p.lines.length) ≤ k → Map.get 0 mem k = Map.get 0 T.mem k))

/-- R222, R223: a station operation to an address in range leaves as packets of at most 8 lines; the station's oldest answer is taken,
and an S_TGET refused for a full watch is issued again.
R201, R211: the fourth retransmission of one flit and a link's error rate start the link's self-test; the route tables are
rewritten from the maps once nothing is in flight and every partition concerned holds or has no member tile, and its hold for them
ends. -/
def Obligations.StationsAndRoutes : Prop :=
  (∀ (s : State) (p : PartId) (st : Nat) (target : W64) (lines : List (List Byte)) (n : Nat),
    let r := target.toNat
    let sends := fun (c : Instr) (kind : RKind) (tagged : Bool) (k : Nat) (data : List (List Byte)) =>
      ∃ ps, exec c s = .next { s with m := { s.m with flight := s.m.flight ++ ps, nextPkt := s.m.nextPkt + (k + 7) / 8 } }
        ∧ ps.length = (k + 7) / 8
        ∧ ∀ i x, ps[i]? = some x → x.id = s.m.nextPkt + i ∧ x.kind = .station kind p st tagged (r / 2 ^ 48 % 64)
            ∧ x.from_ = .station st ∧ x.target = remoteTile r ∧ x.addr = r % 2 ^ 21 + 512 * i ∧ x.count = Min.min 8 (k - 8 * i)
            ∧ x.lines = ((data.drop (8 * i)).take 8).map fun l => (l, false)
    (remoteOk r = true → remoteAddr r % 64 = 0 → (∀ l ∈ lines, l.length = 64) →
      sends (.sPut p st target lines) .put false lines.length lines
      ∧ (lines.length ≤ 8 → sends (.sFill p st target lines) .putFill false lines.length lines)
      ∧ (8 < lines.length → exec (.sFill p st target lines) s = .next s)
      ∧ sends (.sGet p st target n) .get false n []
      ∧ sends (.sTget p st target) .get true 1 [])
    ∧ (∀ x rest ctx why, s.m.flight = x :: rest → (∀ y ∈ rest, y.id ≠ x.id) → x.kind = .stationAck ctx st why → st ≠ seqStation ctx →
      (why ≠ some 6 → exec (.stationResponse ⟨st, .clean⟩) s = .next { s with m := { s.m with flight := rest } })
      ∧ (why = some 6 → ∃ y, exec (.stationResponse ⟨st, .clean⟩) s = .next { s with m := { s.m with
            flight := rest ++ [y], nextPkt := s.m.nextPkt + 1 } }
          ∧ y.kind = .station .get ctx st true 0 ∧ y.target = x.target ∧ y.count = 1)))
  ∧ (∀ (s : State) (l : LinkUnit) (k : Nat),
    let tested := { s with m := { s.m with tests := if TestUnit.link l ∈ s.m.tests then s.m.tests else s.m.tests ++ [.link l] } }
    exec (.flitRetransmit l k) s = .next (if 4 ≤ k then tested else s)
    ∧ exec (.linkErrorRate l) s = .next tested
    ∧ (s.m.routesStale ≠ [] → s.m.flight = [] → (∀ p ∈ s.m.routeHolds, p < 16 ∧ ((s.m.part p).holding = true ∨ s.m.members p = [])) → s.m.routeHolds.Nodup → s.m.ordered →
      ∃ s', exec .routeTableRewrite s = .next s' ∧ s'.m.routesStale = [] ∧ s'.m.routeHolds = [] ∧ s'.m.tables = s.m.transit
        ∧ s'.m.tiles = s.m.tiles
        ∧ ∀ p, p < 16 → (s'.m.part p).service = (s.m.part p).service - (if p ∈ s.m.routeHolds then 1 else 0)
            ∧ (s'.m.part p).slots = (s.m.part p).slots ∧ (s'.m.part p).card = (s.m.part p).card)
    ∧ (s.m.flight ≠ [] → exec .routeTableRewrite s = .next s))

/-! ### Background work of the arrays -/

/-- R105 to R110: the refresh period follows the tile's temperature; the slot of a due row in a gap of its array senses the row and
restores its time, a row that fails its check or its restore waits for a second slot, a second failure restores it to its sensed levels,
makes the array suspect and tests it; a row past its deadline sets REFRESH_LATE and past two periods makes the array suspect.
R88 to R92: a calibration is due by its period or by temperature, is forced past its grace or at 8 °C, goes from OFFSET to INJECT to
the GAIN steps in the array's gaps, takes its new values together at the end or leaves the old ones and makes the array suspect, and starts
again after 5 ms. The model's own choices in it:
log entry 3. -/
def Obligations.RefreshAndCalibration : Prop :=
  (∀ (s : State) (t : TileId) (a : ArrId) (row : Fin 512) (data checks : List CellSense) (at_ : Nat),
    let cells := data ++ checks
    let T := s.m.tile t.val
    let A := T.arr a.val
    let now := s.m.timeUs
    let tj := s.m.tileTj t.val
    let lv := A.sensed row.val cells
    let good := A.checkRow row.val lv = true ∧ restores cells = true
    let slot := exec (.rowRefreshSlot t a row data checks) s
    let done : Arr := { A with
      rows := Map.set [] A.rows row.val lv, rowTime := Map.insert A.rowTime row.val now, retryRows := A.retryRows.erase row.val }
    let only := fun (A' : Arr) => s.withTile t { T with arrs := Map.set {} T.arrs a.val A' }
    (∃ p : Nat, exec (.refreshPeriodUpdate t) s = .next (s.withTile t { T with period := p })
      ∧ (tj ≤ 45 → p = 64000) ∧ (45 ≤ tj → tj ≤ 85 → (p : Int) = 64000 - 1200 * (tj - 45))
      ∧ (85 ≤ tj → tj ≤ 105 → (p : Int) = 16000 - 400 * (tj - 85)) ∧ (105 ≤ tj → p = 8000))
    ∧ (Map.find A.rowTime row.val = some at_ → A.refreshes = true → A.power ≠ .off → T.arrRuns a.val true = false → now ≤ at_ + T.period →
        8 * at_ + 7 * T.period ≤ 8 * now ∨ row.val ∈ A.retryRows →
        (good → ∃ s' , slot = .next s' ∧ s'.m.parts = s.m.parts ∧ (s'.m.tile t.val).arr a.val = done)
        ∧ (¬ good → row.val ∉ A.retryRows → ∃ s', slot = .next s' ∧ s'.m.parts = s.m.parts ∧ (s'.m.tile t.val).arr a.val =
          { A with retryRows := A.retryRows ++ [row.val] })
        ∧ (¬ good → row.val ∈ A.retryRows → ∃ s', slot = .next s' ∧ TestUnit.array t.val a.val ∈ s'.m.tests
          ∧ (∀ p, s.m.owner t.val = some p → (s'.m.part p.val).flagR Reg.ARR_ACC_EVT_RESTORE_FAIL = true)
          ∧ (s'.m.tile t.val).arr a.val = { done with suspect := true }))
    ∧ (Map.find A.rowTime row.val = some at_ → 8 * now < 8 * at_ + 7 * T.period → row.val ∉ A.retryRows → slot = .next (s.withTile t T))
    ∧ (T.arrRuns a.val true = true ∨ A.refreshes = false ∨ A.power = .off → slot = .next (s.withTile t T))
    ∧ (Map.find A.rowTime row.val = some at_ →
        (now ≤ at_ + T.period ∨ A.refreshes = false → exec (.refreshOverdue t a row) s = .next (s.withTile t T))
        ∧ (A.refreshes = true → at_ + T.period < now → now ≤ at_ + 2 * T.period →
            exec (.refreshOverdue t a row) s = .next (only { A with refreshLate := true }))
        ∧ (A.refreshes = true → at_ + 2 * T.period < now → ∃ s', exec (.refreshOverdue t a row) s = .next s'
            ∧ s'.m.tiles = (only { A with refreshLate := true, suspect := true }).m.tiles
            ∧ ∀ p, s.m.owner t.val = some p → (s'.m.part p.val).flagR Reg.ARR_ACC_EVT_REFRESH_OVERDUE = true)))
  ∧ (∀ (s : State) (t : TileId) (a : ArrId) (sums diffs codes : List Int),
    let T := s.m.tile t.val
    let A := T.arr a.val
    let P := s.m.ownerPart t.val
    let now := s.m.timeUs
    let tj := s.m.tileTj t.val
    let total := 512 / P.getR Reg.ARR_CFG_ROW_GROUP_LIMIT
    let round := Config.freeValue s.m.ctr
    let only := fun (A' : Arr) => s.withTile t { T with arrs := Map.set {} T.arrs a.val A' }
    let step := exec (.calibrationStep t a sums diffs codes) s
    let clear : Arr := { A with calStep := none, calOff := [], calK := [], calGain := [] }
    let last := fun (g : Nat) => ({ A with calGain := A.calGain ++ groupsOf (Min.min 4 (total - g)) codes, calStep := some (.gain (g + 4)) } : Arr)
    let isDue := P.getR Reg.ARR_CAL_CFG_CAL_DELTA_T ≤ (tj - A.calTemp).natAbs ∨ A.calBegan + 1000 * P.getR Reg.ARR_CAL_CFG_CAL_PERIOD ≤ now
    (A.power ≠ .off → A.calDue = none → isDue →
      exec (.calibrationDue t a) s = .next (only { A with calDue := some now, calEscalated := false }))
    ∧ (¬ isDue → exec (.calibrationDue t a) s = .next s)
    ∧ (∀ d p, A.calDue = some d → A.calEscalated = false → s.m.owner t.val = some p →
        (d + 1000 * P.getR Reg.ARR_CAL_CFG_CAL_GRACE ≤ now ∨ 8 ≤ (tj - A.calTemp).natAbs) →
        ∃ s', exec (.calEscalate t a) s = .next s' ∧ s'.m.tiles = (only { A with calEscalated := true }).m.tiles
          ∧ (t.val, a.val) ∈ (s'.m.part p.val).forced ∧ (s'.m.part p.val).flagR Reg.ARR_ACC_EVT_CAL_LATE = true)
    ∧ (A.calStep ≠ none → A.calBegan + 5000 < now → exec (.calRestart t a) s = .next (only clear))
    ∧ (T.mayCalibrate a.val now = false → step = .next (s.withTile t T))
    ∧ (A.calDue = none ∨ T.arrRuns a.val false = true → T.mayCalibrate a.val now = false)
    ∧ (T.mayCalibrate a.val now = true →
        (A.calStep = none → step = .next (only { clear with
          calStep := some .inject, calBegan := now, calTemp := tj, calOff := mapOfList sums }))
        ∧ (A.calStep = some .inject → step = .next (only { A with calStep := some (.gain 0), calK := mapOfList diffs }))
        ∧ (∀ g, A.calStep = some (.gain g) → g + 4 < total → step = .next (only (last g)))
        ∧ (∀ g, A.calStep = some (.gain g) → total ≤ g + 4 → A.calBegan + 5000 < now → step = .next (only clear))
        ∧ (∀ g, A.calStep = some (.gain g) → total ≤ g + 4 → now ≤ A.calBegan + 5000 → (last g).calFails round = true →
            ∃ s', step = .next s' ∧ s'.m.tiles = (only { clear with calDue := none, calEscalated := false, suspect := true }).m.tiles
              ∧ TestUnit.array t.val a.val ∈ s'.m.tests)
        ∧ (∀ g c, A.calStep = some (.gain g) → c < 520 → 256 < (Map.get 0 A.calOff c).natAbs → (last g).calFails round = true)
        ∧ (∀ g, A.calStep = some (.gain g) → total ≤ g + 4 → now ≤ A.calBegan + 5000 → (last g).calFails round = false →
            ∃ s' A', step = .next s' ∧ s'.m.tiles = (only A').m.tiles ∧ A'.calDue = none ∧ A'.calStep = none ∧ A'.rows = A.rows
              ∧ A'.suspect = A.suspect ∧ A'.calDone = some now ∧ A'.doneTemp = A.calTemp
              ∧ ∀ c, c < 520 → Map.get 0 A'.off c = Map.get 0 A.calOff c)))

/-- R111, R112: an outlier verification that is due in a gap of its array reads the array's list; a pass that agrees with the exact outputs
is counted, one that does not makes the array suspect and tests it.
R115, R119: the accuracy status of a SEALED partition is written from its pallets and arrays, and BEYOND_BOUND where IN_BOUND is clear.
The model's own choices in it:
log entries 40, 41, 82, 84. -/
def Obligations.VerificationAndStatus : Prop :=
  ∀ (s : State) (t : TileId) (a : ArrId) (phys : ArrPhys) (p : PartId),
    let T := s.m.tile t.val
    let A := T.arr a.val
    let P := s.m.ownerPart t.val
    let G := P.getR Reg.ARR_CFG_ROW_GROUP_LIMIT
    let dir := Map.get 0 T.grout a.val
    let n := dir.toNat % 512
    let es := if n = 0 then [] else outlierEntries (T.readBytes (64 * (dir.toNat / 2 ^ 16 % 2 ^ 15)) (4 * n)) n
    let may := T.mayVerify (P.flagR Reg.ARR_CFG_AUTO_WAKE) a.val s.m.timeUs
    let agrees := A.verified P (s.m.convCtx t.val a.val G A) G (verifySegment t.val a.val A.verifyCount) es phys.senses
    let seen : Arr := { A with power := .active, verifyAt := s.m.timeUs, verifyCount := A.verifyCount + 1 }
    (may = true → T.listGate dir = .ok → (T.asOf T.nextId).listGate dir = .ok → (∀ l ∈ listLines dir, T.found l = .clean) →
      (A.w8 = true → ∀ e ∈ es, e.2.1 < 256) →
      ∃ s', exec (.outlierVerification t a phys) s = .next s' ∧ (∀ b, b ≠ a.val → (s'.m.tile t.val).arr b = T.arr b)
        ∧ if agrees then s'.m.tests = s.m.tests ∧ (s'.m.tile t.val).arr a.val = seen
          else TestUnit.array t.val a.val ∈ s'.m.tests ∧ (s'.m.tile t.val).arr a.val = { seen with suspect := true })
    ∧ (may = false → exec (.outlierVerification t a phys) s = .next (s.withTile t T))
    ∧ (A.content = .empty ∨ s.m.timeUs < A.verifyAt + 30000000 → may = false)
    ∧ ((s.m.part p.val).isSealed = true → (s.m.part p.val).regsOk → ∃ s', exec (.accStatusUpdate p) s = .next s' ∧ s'.m.tiles = s.m.tiles
        ∧ s'.m.pallets = s.m.pallets ∧ (s'.m.part p.val).getR Reg.ARR_ACC_STATUS_SUSPECT_TILES =
            Nat.min ((s.m.tilesOf p.val).filter fun u => (s.m.tile u).arrs.any fun e => e.2.suspect).length 255
        ∧ ((s'.m.part p.val).flagR Reg.ARR_ACC_STATUS_IN_BOUND = true ↔
            ∀ x ∈ s.m.programmedArrs p.val, s.m.arrInBound x.1 x.2 ((s.m.tile x.1).arr x.2) = true)
        ∧ ((s'.m.part p.val).flagR Reg.ARR_ACC_STATUS_IN_BOUND = false → (s'.m.part p.val).flagR Reg.ARR_ACC_EVT_BEYOND_BOUND = true)
        ∧ ∀ i ∈ s.m.palletsOf p.val, 0 ≤ (s.m.pallet i).tj → (s.m.pallet i).tj < 256 → (∀ j ∈ s.m.palletsOf p.val, (s.m.pallet j).tj ≤ (s.m.pallet i).tj) →
            (s'.m.part p.val).getR Reg.ARR_ACC_STATUS_TJ_MAX = (s.m.pallet i).tj.toNat)

/-! ### Banks, patrol, self-tests and re-placement -/

/-- R133, R137, R147, R150: patrol corrects what the bank's code corrects, counts and tests; it poisons nothing. A zeroing pass that reads
back clears the bank and ends pending-scrub; a bank's change ends, but for one that waits for operations in flight. The model's own
choices in it:
log entries 11, 71, 91. -/
def Obligations.PatrolAndBanks : Prop :=
  ∀ (s : State) (t : TileId) (line : Fin 24576) (w : Fin 196608) (bits_ : List (Fin 64)) (b : Fin 24),
    let T := s.m.tile t.val
    let k := T.bankAt (64 * line.val)
    let kb := T.bank b.val
    let corrects := if k.prot = .weight then 2 else 1
    let reads := fun (ups : List Upset) (p : PartId) (good : Tile → Part → List TestUnit → Prop) =>
      ∃ s', exec (.patrol t line ups) s = .next s' ∧ good (s'.m.tile t.val) (s'.m.part p.val) s'.m.tests
        ∧ (s'.m.tile t.val).mem = T.mem ∧ (s'.m.tile t.val).poison = T.poison
        ∧ Map.get 0 (s'.m.tile t.val).patrolAt line.val = s.m.timeUs
        ∧ ∀ u, u ≠ t.val → s'.m.tile u = s.m.tile u
    (s.m.ordered → Map.wf [] T.wordErr → Map.wf 0 T.patrolAt → ∀ p, s.m.owner t.val = some p → (s.m.part p.val).regsOk →
      k.prot ≠ .scratch → k.pwr = .on → k.changing = false → k.held = false → k.scrub = false → s.m.testing t.val line.val = false →
      let counted := Reg.TILE_CE_COUNT.more ((s.m.part p.val).getR Reg.TILE_CE_COUNT)
      let bad := fun (P' : Part) (ts : List TestUnit) => TestUnit.line t.val line.val ∈ ts ∧ P'.flagR Reg.TILE_EVT_UE_SEEN = true
        ∧ P'.getR Reg.TILE_UE_COUNT = Reg.TILE_UE_COUNT.more ((s.m.part p.val).getR Reg.TILE_UE_COUNT)
      (T.found line.val = .clean → reads [] p fun T' P' ts => T'.wordErr = T.wordErr ∧ P' = s.m.part p.val ∧ ts = s.m.tests)
      ∧ (T.found line.val = .corrected → reads [] p fun T' P' ts => T'.found line.val = .clean
          ∧ (∀ x, x / 8 ≠ line.val → T'.wordFlips x = T.wordFlips x) ∧ TestUnit.line t.val line.val ∈ ts ∧ P'.getR Reg.TILE_CE_COUNT = counted)
      ∧ (T.found line.val = .bad → reads [] p fun T' P' ts => T'.wordErr = T.wordErr ∧ bad P' ts)
      ∧ (T.wordErr = [] → T.poisoned line.val = false → w.val / 8 = line.val → bits_.Nodup → 0 < bits_.length →
          (bits_.length ≤ corrects → reads [.word w bits_] p fun T' P' ts => T'.found line.val = .clean
            ∧ TestUnit.line t.val line.val ∈ ts ∧ P'.getR Reg.TILE_CE_COUNT = counted)
          ∧ (bits_.length = corrects + 1 → reads [.word w bits_] p fun T' P' ts => T'.found line.val = .bad ∧ bad P' ts)))
    ∧ (kb.scrub = true → kb.pwr = .on → kb.changing = false → TestUnit.bank t.val b.val ∉ s.m.tests →
      (∃ mem full poison err banks, exec (.zeroingPassDone t b true) s = .next (s.withTile t { T with
            mem := mem, full := full, poison := poison, wordErr := err, banks := banks })
          ∧ (Map.wf {} T.banks → ∀ j, Map.get {} banks j = if j = b.val then { kb with scrub := false } else T.bank j)
          ∧ ∀ x, (x / 65536 = b.val → Map.get 0 mem x = 0) ∧ (x / 65536 ≠ b.val → Map.get 0 mem x = Map.get 0 T.mem x)
            ∧ (x / 1024 = b.val → Map.get false full x = false ∧ Map.get false poison x = false)
            ∧ (x / 1024 ≠ b.val → Map.get false full x = Map.get false T.full x ∧ Map.get false poison x = Map.get false T.poison x)
            ∧ Map.get [] err x = if x / 8192 = b.val then [] else T.wordFlips x)
      ∧ ∃ s', exec (.zeroingPassDone t b false) s = .next s' ∧ TestUnit.bank t.val b.val ∈ s'.m.tests ∧ s'.m.tiles = s.m.tiles)
    ∧ (kb.changing = true → kb.held = false → exec (.bankPowerChangeDone t b) s = .next (s.withTile t { T with
        banks := Map.set {} T.banks b.val { kb with changing := false } }))
    ∧ (kb.held = true → kb.scrubNext = false → T.busyOps kb.heldAt = false → exec (.bankPowerChangeDone t b) s = .next (s.withTile t { T with
        banks := Map.set {} T.banks b.val { kb with held := false, scrubNext := false } }))
    ∧ (kb.held = true → T.busyOps kb.heldAt = true → exec (.bankPowerChangeDone t b) s = .next (s.withTile t T))

/-- R415 to R417, R420, R436, R495: the end of a self-test without a finding counts a transient; with one, or as the LASTING_N-th within the
window, a lasting fault, named in SVC_LAST_UNIT; then a tile's position is mapped out by its spare tile, an array in a SEALED
partition is programmed again in place, a link and a router leave service, a lane is marked. The model's own choices in it:
log entries 33, 37, 67. -/
def Obligations.SelfTests : Prop :=
  ∀ (s : State) (t : TileId) (l : Fin 24576) (b : Fin 24) (w : Fin 18432) (a : ArrId) (lk : LinkUnit) (q : Phys) (al : LinkId) (ln : Fin 8)
    (fault : Bool) (u : TestUnit) (c : Instr),
    ((u = .line t.val l.val ∧ c = .tLine t l fault) ∨ (u = .bank t.val b.val ∧ c = .tBank t b fault)
      ∨ (u = .word t.val w.val ∧ c = .tWord t w fault) ∨ (u = .array t.val a.val ∧ c = .tArray t a fault)
      ∨ (u = .link lk ∧ c = .tLink lk fault) ∨ (u = .router q ∧ c = .tRouter q fault) ∨ (u = .lane al.val ln.val ∧ c = .tLane al ln fault)) →
    s.m.boot.inHold = false → u ∈ s.m.tests → s.m.tests.Nodup →
      let unit := s.m.unitOf u
      let near := (s.m.wear.transients.filter fun e => e.1 == unit && decide (s.m.hour < e.2 + s.m.getR Reg.SVC_CFG_LASTING_WINDOW)).length
      (fault = false → near + 1 < s.m.getR Reg.SVC_CFG_LASTING_N → s.m.hour < s.m.hour + s.m.getR Reg.SVC_CFG_LASTING_WINDOW →
        ∃ s', exec c s = .next s' ∧ u ∉ s'.m.tests ∧ s'.m.wear.transients = s.m.wear.transients ++ [(unit, s.m.hour)]
          ∧ s'.m.flagR Reg.SVC_EVT_TRANSIENT = true
          ∧ s'.m.getR Reg.SVC_TRANSIENT_COUNT_TRANSIENTS = Reg.SVC_TRANSIENT_COUNT_TRANSIENTS.more (s.m.getR Reg.SVC_TRANSIENT_COUNT_TRANSIENTS)
          ∧ s'.m.getR Reg.SVC_LASTING_COUNT_LASTINGS = s.m.getR Reg.SVC_LASTING_COUNT_LASTINGS
          ∧ (∀ i r, i < 120 → r < 12 → s'.m.flagR (Reg.BOND_SKIP i r) = s.m.flagR (Reg.BOND_SKIP i r))
          ∧ (u = .array t.val a.val → ∃ arrs', s'.m.tiles = (s.m.setTile t.val { s.m.tile t.val with arrs := arrs' }).tiles
              ∧ (Map.wf {} (s.m.tile t.val).arrs → (Map.get {} arrs' a.val).suspect = false)))
      ∧ (fault = true → s.m.ordered →
        ∃ s', exec c s = .next s' ∧ s'.m.flagR Reg.SVC_EVT_LASTING = true
          ∧ s'.m.getR Reg.SVC_LASTING_COUNT_LASTINGS = Reg.SVC_LASTING_COUNT_LASTINGS.more (s.m.getR Reg.SVC_LASTING_COUNT_LASTINGS)
          ∧ s'.m.getR Reg.SVC_LAST_UNIT_LO_UNIT + 2 ^ 32 * s'.m.getR Reg.SVC_LAST_UNIT_HI_UNIT = unit.toNat
          ∧ (u = .link lk → lk ∈ s'.m.linksOut)
          ∧ (u = .router q → q ∈ s'.m.routersOut)
          ∧ (u = .lane al.val ln.val → (s'.m.getR (Reg.AL_STATUS_LANE_FAULT al.val)).testBit ln.val = true)
          ∧ (∀ p, u = .array t.val a.val → s.m.sealedOwner (palletOf t.val) = some p → ∃ r ∈ s'.m.replaces,
              r.part = some p ∧ r.absorb = .inPlace a.val ∧ r.moves = [t.val]))

/-- R423, R424, R427, R437, R438: in a re-placement by a spare tile a move programs the tile's arrays again from their levels, clean
where every cell verifies, and the next tile follows; its end writes the bond map, releases the partition's hold and counts a hitch; at
the hold's limit the pallet is OUT and a SEALED partition in it is FAULTED, which counts a stop. The model's own choices in it:
log entries 30, 34, 35, 38. -/
def Obligations.Replacement : Prop :=
  ∀ (s : State) (r : Replace) (p : PartId) (t : TileId) (ts : List Nat) (phys : ArrPhys) (ms : Nat),
    let T := s.m.tile t.val
    let i := r.pallet.val
    s.m.replaces = [r] → s.m.boot.inHold = false → r.absorb = .spareTile → r.part = some p → r.mapped = false → s.m.ordered →
      (r.moves = t.val :: ts → t.val ≠ r.failed → phys.stuck = [] → phys.eraseFail = [] → Map.wf {} T.arrs → (∀ a ∈ T.contentArrs, a < 64 ∧ T.listCount a ≤ 256) →
        ∃ s' T', exec (.tileMoveDone t phys) s = .next s' ∧ s'.m.replaces = [{ r with moves := ts }]
          ∧ s'.m.tiles = (s.m.setTile t.val T').tiles ∧ s'.m.parts = s.m.parts
          ∧ T'.mem = T.mem ∧ T'.body = T.body ∧ T'.pages = T.pages
          ∧ (∀ a ∈ T.contentArrs, (T'.arr a).content = .valid ∧ (T'.arr a).stuck = []
              ∧ ∀ row c, row < 512 → c < 512 → (T'.arr a).level row c = (T.arr a).level row c)
          ∧ ∀ a, a ∉ T.contentArrs → T'.arr a = T.arr a)
      ∧ (r.moves = [] → r.pos < 41 → r.row < 12 → s.m.flight = [] → s.m.routesStale = [] → (s.m.part p.val).rebuilding = false →
        ∃ s', exec (.replaceDone r.pallet ms) s = .next s' ∧ s'.m.replaces = [] ∧ s'.m.tiles = s.m.tiles
          ∧ s'.m.flagR (Reg.BOND_SKIP i r.row) = true ∧ s'.m.getR (Reg.BOND_POS i r.row) = r.pos
          ∧ (s'.m.part p.val).service = (s.m.part p.val).service - 1
          ∧ s'.m.flagR Reg.SVC_EVT_REPLACED = true ∧ s'.m.getR Reg.SVC_STATUS_REPLACE_BUSY = 0
          ∧ s'.m.getR Reg.SVC_HITCH_COUNT_HITCHES = Reg.SVC_HITCH_COUNT_HITCHES.more (s.m.getR Reg.SVC_HITCH_COUNT_HITCHES))
      ∧ (s.m.timeUs < r.since + 2800000 → exec (.replacementHoldLimit r.pallet) s = .next s)
      ∧ (r.since + 2800000 ≤ s.m.timeUs → ∃ s', exec (.replacementHoldLimit r.pallet) s = .next s' ∧ s'.m.replaces = [] ∧ s'.m.getR (Reg.SPARE_STATE i) = 2
          ∧ (s.m.sealedOwner i = some p → (s'.m.part p.val).flagR Reg.TURN_CFG_FAULTED = true
            ∧ s'.m.flagR Reg.SVC_EVT_PLACEMENT_LOST = true))


/-! ### Partitions, module beats and registers -/

/-- R379 to R381, R398: SEAL of a FREE partition is decided at a module beat, asks for nothing of a SEALED one, and in SCRUBBING is a lock
violation; TEARDOWN is accepted of an idle SEALED partition and else refused with rule 0x0A; KILL scrubs at once; in a handover both wait;
the end of the scrub, once the last record is written, leaves the partition FREE at reset values, its pallets unowned and its tiles zero
but for arrays whose second erase failed. Who does not reach the partition changes nothing. The model's own choices in it:
log entries 25, 70, 99. -/
def Obligations.PartitionLife : Prop :=
  ∀ (s : State) (w : Writer) (p : PartId) (fails : List (Nat × Nat)),
    let P := s.m.part p.val
    let violates := Host.Outcome.next (φ := Fault) (ρ := Refusal) (s.withPart p (P.setR Reg.PART_EVT_LOCK_VIOLATION 1))
    let idle := (∀ e ∈ P.slots, e.2.req = none) ∧ P.holdQueue = [] ∧ P.loadOp = none
    let waits := fun (op : Nat) => Host.Outcome.next (φ := Fault) (ρ := Refusal)
      { s with m := { s.m with boot := { s.m.boot with ctrlWaits := s.m.boot.ctrlWaits ++ [(p, op)] } } }
    (s.m.reaches w p.val = false → ∀ c, c = Instr.seal w p ∨ c = .teardown w p ∨ c = .kill w p → exec c s = .next s)
    ∧ (s.m.reaches w p.val = true →
      (P.state = 0 → exec (.seal w p) s = .next (s.withPart p { P with sealPending := true }))
      ∧ (P.state = 1 → exec (.seal w p) s = .next (s.withPart p P))
      ∧ (P.state ≠ 0 → P.state ≠ 1 → exec (.seal w p) s = violates)
      ∧ (P.state ≠ 1 → exec (.teardown w p) s = violates ∧ exec (.kill w p) s = violates)
      ∧ (P.state = 1 → s.m.boot.inHold = true → exec (.teardown w p) s = waits 2 ∧ exec (.kill w p) s = waits 3)
      ∧ (P.state = 1 → s.m.boot.inHold = false → idle →
          exec (.teardown w p) s = .next (s.withPart p { P with teardownPending := true }))
      ∧ (P.state = 1 → s.m.boot.inHold = false → ¬ idle →
          exec (.teardown w p) s = .next (s.withPart p
            ((P.setR Reg.PART_STATUS_SEAL_RULE 0x0A).setR Reg.PART_EVT_SEAL_REFUSED 1)))
      ∧ (P.state = 1 → s.m.boot.inHold = false → ∃ s', exec (.kill w p) s = .next s' ∧ s'.pending = s.pending
          ∧ (s'.m.part p.val).state = 2 ∧ (s'.m.part p.val).slots = [] ∧ (s'.m.part p.val).holdQueue = []
          ∧ (s'.m.part p.val).loadOp = none ∧ (s'.m.part p.val).sealCount = P.sealCount
          ∧ (s'.m.part p.val).keys.session = none ∧ (s'.m.part p.val).keys.inKey = none
          ∧ ((s'.m.part p.val).recordsWait = false → (s'.m.part p.val).keys = {})
          ∧ (s.m.ordered → ∀ t ∈ s.m.tilesOf p.val,
              (s'.m.tile t).run = .stopped ∧ (s'.m.tile t).mem = [] ∧ (s'.m.tile t).full = [])))
    ∧ (P.state = 2 → P.recordsWait = false → s.m.ordered →
        ∃ s', exec (.scrubDone p fails) s = .next s' ∧ s'.pending = s.pending ∧ (s'.m.part p.val).state = 0
          ∧ s'.m.part p.val = (s.m.freshPart P.sealCount).setR Reg.PART_EVT_SCRUB_DONE 1
          ∧ (∀ i ∈ s.m.palletsOf p.val, (s'.m.pallet i).owner = none ∧ s'.m.getR (Reg.PALLET_LIMIT i) = 0)
          ∧ (∀ i, i ∉ s.m.palletsOf p.val → s'.m.pallet i = s.m.pallet i)
          ∧ (∀ t ∈ s.m.tilesOf p.val, (∀ x ∈ fails, x.1 ≠ t) → s.m.banksInTest t = [] → s'.m.tile t = {})
          ∧ (∀ t ∈ s.m.tilesOf p.val, ∀ a, a < 64 → (t, a) ∈ fails →
              ((s'.m.tile t).arr a).content = .failed ∧ TestUnit.array t a ∈ s'.m.tests)
          ∧ ∀ q, q ≠ p.val → s'.m.part q = s.m.part q)
    ∧ (P.state ≠ 2 ∨ P.recordsWait = true → exec (.scrubDone p fails) s = .next s)

/-- R377, R378, R383, R454, R463: at a module beat a seal asked for is refused with the first rule it breaks, or done: the partition is SEALED, owns
the pallets of its mask, has a session key pair and no epoch. Nothing else of the kind being asked, every other partition keeps its
slots and requests. R383: each DMA engine serves a partition with work, in fixed-slot operation a CONFIDENTIAL one in its own slots alone, which no other
uses, and a STANDARD one in its own, in unallocated ones and in those that other STANDARD ones leave. An unparked pallet comes back. The model's own choices in it:
log entries 3, 105. -/
def Obligations.ModuleBeat : Prop :=
  ∀ (s : State) (p : PartId) (i : PalletId),
    let P := s.m.part p.val
    (s.m.boot.moduleUp = false → exec .moduleBeat s = .next s)
    ∧ (s.m.boot.moduleUp = true → s.m.boot.inHold = false → s.m.boot.ctrlWaits = [] → s.m.getR Reg.COMMIT_STATUS_STATE ≠ 1 → s.m.feedHold = [] →
      s.m.flagR Reg.PWR_CFG_PARK_EN = false → (∀ k, (s.m.pallet k).parked = false) → P.state = 0 → P.sealPending = true →
      (∀ q, q ≠ p.val → (s.m.part q).sealPending = false) →
      ∃ s', exec .moduleBeat s = .next s' ∧ s'.m.beats = s.m.beats + 1 ∧ s'.m.tiles = s.m.tiles ∧ (s'.m.part p.val).sealPending = false
        ∧ (∀ q, q ≠ p.val → (s'.m.part q).slots = (s.m.part q).slots ∧ (s'.m.part q).holdQueue = (s.m.part q).holdQueue)
        ∧ (∀ r, s.m.sealRule p.val = some r → 0 < r → r < 256 → (s'.m.part p.val).state = 0 ∧ (s'.m.part p.val).getR Reg.PART_STATUS_SEAL_RULE = r
            ∧ (s'.m.part p.val).flagR Reg.PART_EVT_SEAL_REFUSED = true)
        ∧ (s.m.sealRule p.val = none → P.regsOk → (s'.m.part p.val).state = 1 ∧ (s'.m.part p.val).keys = { session := some (Config.keyPair s.m.ctr) }
            ∧ (s'.m.part p.val).sealCount = P.sealCount + 1
            ∧ (∀ k ∈ P.maskPallets, (s'.m.pallet k).owner = some p)
            ∧ ∀ k, k ∉ P.maskPallets → (s'.m.pallet k).owner = (s.m.pallet k).owner)
        ∧ (s.m.ordered → ∀ k, k < 2 → (s'.m.hostPort k).serving = s'.m.slotServes (s'.m.timeUs % 64) (s'.m.dmaWork k)))
    ∧ (∀ (slot : Nat) (work : List PartId),
        let r := s.m.slotServes slot work
        (s.m.boot.fixedSlots = false → r = work.head?)
        ∧ (s.m.boot.fixedSlots = true → ∀ q, s.m.slotOwner slot = some q → q ∈ work → r = some q)
        ∧ (s.m.boot.fixedSlots = true → ∀ q, s.m.slotOwner slot = some q → (s.m.part q.val).confidential = true → q ∉ work → r = none)
        ∧ (s.m.boot.fixedSlots = true → ∀ q, r = some q → q ∈ work ∧ (s.m.slotOwner slot = some q ∨ (s.m.part q.val).confidential = false))
        ∧ (s.m.boot.fixedSlots = true → (∀ q, s.m.slotOwner slot = some q → q ∉ work ∧ (s.m.part q.val).confidential = false) →
            r = work.find? fun q => !(s.m.part q.val).confidential))
    ∧ ((s.m.pallet i.val).parked = true → (s.m.pallet i.val).unparking = true → (s.m.pallet i.val).owner = none →
        ∃ s', exec (.unparkDone i) s = .next s' ∧ s'.m.tiles = s.m.tiles ∧ s'.m.parts = s.m.parts
          ∧ (s.m.ordered → (s'.m.pallet i.val).parked = false)
          ∧ ∀ k, k ≠ i.val → s'.m.pallet k = s.m.pallet k)

/-- R485, R522, R525, R526: COMMIT makes a commit pending and DISCARD drops the staged values, for a partition by who reaches it, for the
module under the lease; CLAIM takes or renews the lease, RELEASE by the holder and a lapse end it; a write under another port's lease
only sets LEASE_DROPPED. The model's own choices in it:
log entry 31. -/
def Obligations.CommitAndLease : Prop :=
  ∀ (s : State) (w : Writer) (p : PartId),
    let P := s.m.part p.val
    let holder := s.m.getR Reg.HOST_LEASE_HOLDER
    let mods := fun (m : Mach) => Host.Outcome.next (φ := Fault) (ρ := Refusal) { s with m := m }
    (s.m.reaches w p.val = true →
      exec (.commit w (some p)) s = .next (s.withPart p (P.setR Reg.COMMIT_STATUS_STATE 1))
      ∧ exec (.discard w (some p)) s = .next (s.withPart p (Part.setR { P with staged := [] } Reg.COMMIT_STATUS_RESULT 3)))
    ∧ (s.m.reaches w p.val = false → exec (.commit w (some p)) s = .next s ∧ exec (.discard w (some p)) s = .next s)
    ∧ (s.m.ready = true → w.func.val = 0 → holder = 0 ∨ holder = w.port.val + 1 →
      exec (.commit w none) s = mods (s.m.setR Reg.COMMIT_STATUS_STATE 1)
      ∧ exec (.discard w none) s = mods (Mach.setR { s.m with staged := [] } Reg.COMMIT_STATUS_RESULT 3)
      ∧ (∃ s', exec (.claim w) s = .next s' ∧ s'.m.leaseAt = s.m.timeUs ∧ s'.m.getR Reg.HOST_LEASE_HOLDER = w.port.val + 1
          ∧ s'.m.tiles = s.m.tiles ∧ s'.m.parts = s.m.parts)
      ∧ (holder = w.port.val + 1 → s.m.ordered → ∃ s', exec (.release w) s = .next s' ∧ s'.m.getR Reg.HOST_LEASE_HOLDER = 0
          ∧ s'.m.flagR Reg.HOST_EVT_LEASE_LAPSED = true ∧ s'.m.parts = s.m.parts))
    ∧ (s.m.ready = true → w.func.val = 0 → holder ≠ 0 → holder ≠ w.port.val + 1 →
      ∀ c, c = Instr.commit w none ∨ c = .discard w none ∨ c = .claim w ∨ c = .release w →
        exec c s = mods (s.m.setR Reg.HOST_EVT_LEASE_DROPPED 1))
    ∧ (holder ≠ 0 → s.m.leaseAt + 1000 * s.m.getR Reg.HOST_LEASE_LEASE_MS ≤ s.m.timeUs → s.m.ordered →
        ∃ s', exec .leaseLapse s = .next s' ∧ s'.m.getR Reg.HOST_LEASE_HOLDER = 0 ∧ s'.m.flagR Reg.HOST_EVT_LEASE_LAPSED = true)
    ∧ (s.m.timeUs < s.m.leaseAt + 1000 * s.m.getR Reg.HOST_LEASE_LEASE_MS → exec .leaseLapse s = .next s)

/-- R10, R12, R486, R524, R528: a 4 B write of a register of RWS fields in ARRAY_SETUP, TURN_SETUP, GEN_SETUP or SERVE_SETUP stages the fields of the word
and leaves the values in effect; while a commit is pending it is dropped with STAGE_BUSY; a register of RWL fields is dropped
with LOCK_VIOLATION outside FREE; a poisoned write is dropped, one of another size or alignment answered with an AER record. The model's own choices in it:
log entries 59, 60. -/
def Obligations.RegisterWrites : Prop :=
  ∀ (s : State) (w : Writer) (p : PartId) (o o' : Nat) (b : Blk) (val : W64),
    let P := s.m.part p.val
    let off := 0x1000000 + 0x100000 * p.val + o
    let fs := fieldsAt b o'
    let v := fun (f : Fld) => val.toNat % 2 ^ 32 / 2 ^ f.lo % 2 ^ f.width
    (w.func.val = 0 → s.m.ready = true → off % 4 = 0 → o < 0x10000 → partBlk o = some (b, o') →
      ((b = .array ∨ b = .turn ∨ b = .gen ∨ b = .serve) → (∀ f ∈ fs, f.acc = .rws ∧ f.blk = b) →
        (P.getR Reg.COMMIT_STATUS_STATE ≠ 1 → (∀ f ∈ fs, f.min ≤ v f ∧ v f ≤ f.max) → fs ≠ [] →
          exec (.registerWrite w off 4 val false) s = .next (s.withPart p
            { P with staged := fs.foldl (fun st f => stage st f (v f)) P.staged }))
        ∧ (P.getR Reg.COMMIT_STATUS_STATE = 1 → fs ≠ [] → ∃ s', exec (.registerWrite w off 4 val false) s = .next s'
            ∧ (s'.m.part p.val).staged = P.staged ∧ (s'.m.part p.val).flagR Reg.STAGE_EVT_STAGE_BUSY = true))
      ∧ (b = .part → (∀ f ∈ fs, f.acc = .rwl) → fs ≠ [] → P.state ≠ 0 → ∃ s', exec (.registerWrite w off 4 val false) s = .next s'
            ∧ (s'.m.part p.val).flagR Reg.PART_EVT_LOCK_VIOLATION = true
            ∧ ∀ f : Fld, f.key ≠ Reg.PART_EVT_LOCK_VIOLATION.key → (s'.m.part p.val).getR f = P.getR f))
    ∧ (∀ n size, exec (.registerWrite w n size val true) s = .next s)
    ∧ (∀ n size, ¬ (size = 4 ∧ n % 4 = 0) → ¬ (size = 8 ∧ n % 8 = 0) → ∃ o, exec (.registerWrite w n size val false) s =
        .next { s with m := { s.m with out := s.m.out ++ [o] } } ∧ o = .aer w.port)


/-! ### Start-up, firmware and host ports -/

/-- R408, R513 to R515: power-on of an unpowered module waits for firmware, or is in error 6 after a failed known-answer test; bring-up raises every
pallet but those that fail or are marked OUT, with every tile zero, and enters READY with BOOT at its reset values; an array whose erase failed
is FAILED and tested, a link that failed is out; with no pallet up it is in error 7. The model's own choices in it:
log entries 16, 71. -/
def Obligations.StartUp : Prop :=
  ∀ (s : State) (f : FeedId) (strap kat : Bool) (out : List PalletId),
    (s.m.boot.moduleUp = true → exec (.powerOn f strap kat) s = .next s)
    ∧ (s.m.boot.moduleUp = false → ∃ s', exec (.powerOn f strap kat) s = .next s' ∧ s'.m.boot.moduleUp = true ∧ s'.m.beats = 0
        ∧ s'.m.tiles = s.m.tiles ∧ s'.m.wear.cycles = s.m.wear.cycles ∧ s'.m.getR Reg.BOOT_STATUS_BOOT_STATE = (if kat then 1 else 5)
        ∧ (kat = false → s'.m.getR Reg.BOOT_STATUS_BOOT_ERR = 6)
        ∧ ∀ p, p < 16 → (s'.m.part p).slots = [] ∧ (s'.m.part p).keys = {} ∧ (s'.m.part p).state = 0
            ∧ (strap = true → (s'.m.part p).compat = true))
    ∧ (s.m.getR Reg.BOOT_STATUS_BOOT_STATE ≠ 3 → exec (.bringUp out [] []) s = .next s)
    ∧ (s.m.getR Reg.BOOT_STATUS_BOOT_STATE = 3 →
        let up := fun i => s.m.getR (Reg.SPARE_STATE i) ≠ 2 ∧ ∀ o ∈ out, o.val ≠ i
        (∀ i, i < 120 → (s.m.pallet i).powered = false) →
        ((∃ i, i < 120 ∧ up i) → ∃ s', exec (.bringUp out [] []) s = .next s' ∧ s'.m.ready = true ∧ s'.m.zeroed = true ∧ s'.m.tiles = []
          ∧ (s.m.ordered → s'.m.getR Reg.BOOT_LEN = 0)
          ∧ ∀ i, i < 120 → (up i → (s'.m.pallet i).powered = true)
              ∧ (¬ up i → (s'.m.pallet i).powered = false ∧ (s'.m.pallet i).dark = true ∧ s'.m.getR (Reg.SPARE_STATE i) = 2))
        ∧ ((∃ i, i < 120 ∧ up i) → ∀ (fails : List (Nat × Nat)) (links : List LinkUnit), ∃ s', exec (.bringUp out fails links) s = .next s'
          ∧ s'.m.ready = true ∧ s'.m.zeroed = true
          ∧ (links = [] → ∀ x ∈ fails, x.1 < 52800 → x.2 < 64 → TestUnit.array x.1 x.2 ∈ s'.m.tests ∧ ((s'.m.tile x.1).arr x.2).content = .failed)
          ∧ ∀ u, links = [u] → u ∈ s'.m.linksOut)
        ∧ ((∀ i, i < 120 → ¬ up i) → ∃ s', exec (.bringUp out [] []) s = .next s' ∧ s'.m.getR Reg.BOOT_STATUS_BOOT_STATE = 5
          ∧ s'.m.getR Reg.BOOT_STATUS_BOOT_ERR = 7))

/-- R516 to R519: an image is fetched while the module waits for firmware, or staged in READY; a check that passes runs or stages it, one that
fails gives its error code and FW_REFUSED and leaves the running image; ABORT drops a staged image; the security version floor rises to the running image's
after 24 h and never falls. The model's own choices in it:
log entry 29. -/
def Obligations.Firmware : Prop :=
  ∀ (s : State) (w : Writer) (i : FwImage),
    let st := s.m.getR Reg.BOOT_STATUS_BOOT_STATE
    let b := s.m.boot
    let floor := s.m.getR Reg.SVN_FLOOR
    let good := i.magic.toNat = 0x5248454D ∧ i.format.toNat = 1 ∧ i.zeros = true ∧ i.codeLen % 64 = 0 ∧ i.bytes = 192 + i.codeLen
      ∧ i.bytes ≤ 8388608 ∧ i.sigOk = true ∧ i.selfOk = true
    (b.moduleUp = true → w.func.val = 0 → st = 1 →
      (∃ s' o, exec (.bootLoad w) s = .next s' ∧ s'.m.getR Reg.BOOT_STATUS_BOOT_STATE = 2 ∧ s'.m.boot.fetching = some w ∧ s'.m.out = s.m.out ++ [o])
      ∧ ∃ s', exec (.pldmFwActivate i) s = .next s' ∧ s'.m.getR Reg.BOOT_STATUS_BOOT_STATE = 2 ∧ s'.m.boot.viaPldm = some i)
    ∧ (s.m.ready = true → w.func.val = 0 → s.m.leaseOk w = true → b.staging = false → b.staged = none →
        ∃ s', exec (.stage w) s = .next s' ∧ s'.m.boot.staging = true ∧ s'.m.boot.running = b.running ∧ s'.m.ready = true)
    ∧ (s.m.ready = true → w.func.val = 0 → s.m.leaseOk w = true → b.staged ≠ none →
        (∃ s', exec (.stage w) s = .next s' ∧ s'.m.boot = b ∧ s'.m.flagR Reg.BOOT_EVT_BOOT_BUSY = true)
        ∧ (b.inHold = false → ∃ s', exec (.bootAbort w) s = .next s' ∧ s'.m.boot.staged = none ∧ s'.m.boot.staging = false
            ∧ s'.m.boot.running = b.running))
    ∧ (b.viaPldm = none → i.bytes = s.m.getR Reg.BOOT_LEN →
      (st = 2 → b.staging = false →
        (good → floor ≤ i.svn.toNat → ∃ s', exec (.fwCheck (some i)) s = .next s' ∧ s'.m.boot.running = some i
          ∧ s'.m.getR Reg.BOOT_STATUS_BOOT_STATE = 3)
        ∧ (good → i.svn.toNat < floor → ∃ s', exec (.fwCheck (some i)) s = .next s' ∧ s'.m.boot.running = b.running
          ∧ s'.m.getR Reg.BOOT_STATUS_BOOT_STATE = 1 ∧ s'.m.getR Reg.BOOT_STATUS_BOOT_ERR = 4 ∧ s'.m.flagR Reg.BOOT_EVT_FW_REFUSED = true)
        ∧ (∃ s', exec (.fwCheck none) s = .next s' ∧ s'.m.getR Reg.BOOT_STATUS_BOOT_ERR = 1 ∧ s'.m.getR Reg.BOOT_STATUS_BOOT_STATE = 1))
      ∧ (∀ r, b.staging = true → b.running = some r → good → floor ≤ i.svn.toNat → r.svn.toNat ≤ i.svn.toNat →
          ∃ s', exec (.fwCheck (some i)) s = .next s' ∧ s'.m.boot.staged = some i ∧ s'.m.boot.running = some r
            ∧ s'.m.getR Reg.SVC_STATUS_HANDOVER = 1))
    ∧ (∀ r, b.running = some r → s.m.ready = true → b.runSince + 86400000000 ≤ s.m.timeUs → s.m.ordered →
        ∃ s', exec .svnFloorRaise s = .next s' ∧ s'.m.getR Reg.SVN_FLOOR = Nat.max floor r.svn.toNat % 2 ^ 32 ∧ s'.m.boot = b ∧ s'.m.parts = s.m.parts)
    ∧ (s.m.timeUs < b.runSince + 86400000000 → exec .svnFloorRaise s = .next s)

/-- R428, R432: a handover that is taken over in 20 ms with the right digest runs the staged image and counts a hitch; else the SEALED partitions are held until
the timeout, after which the old image runs on and the staged one is gone. The model's own choices in it:
log entry 30. -/
def Obligations.Handover : Prop :=
  ∀ (s : State) (i : FwImage) (us : Nat) (digestOk : Bool),
    let b := s.m.boot
    (b.staged = none → exec (.handoverHold digestOk us) s = .next s)
    ∧ (b.staged = some i → b.inHold = false → s.m.replaces = [] → (∀ p, p < 16 → (s.m.part p).rebuilding = false) →
      (digestOk = true → us ≤ 20000 → s.m.ordered → ∃ s', exec (.handoverHold digestOk us) s = .next s' ∧ s'.m.boot.running = some i ∧ s'.m.boot.staged = none
        ∧ s'.m.boot.inHold = false ∧ s'.m.flagR Reg.SVC_EVT_FW_HANDOVER = true ∧ s'.m.tiles = s.m.tiles
        ∧ s'.m.getR Reg.SVC_STATUS_HANDOVER = 0 ∧ s'.m.getR Reg.ID_FW_SVN = i.svn.toNat
        ∧ s'.m.getR Reg.SVC_HITCH_COUNT_HITCHES = Reg.SVC_HITCH_COUNT_HITCHES.more (s.m.getR Reg.SVC_HITCH_COUNT_HITCHES)
        ∧ ∀ p, p < 16 → (s'.m.part p).service = (s.m.part p).service)
      ∧ ((digestOk = false ∨ 20000 < us) → ∃ s', exec (.handoverHold digestOk us) s = .next s' ∧ s'.m.boot.inHold = true
        ∧ s'.m.boot.running = b.running ∧ s'.m.getR Reg.SVC_STATUS_HANDOVER = 2
        ∧ ∀ p, p < 16 → (s'.m.part p).service = (s.m.part p).service + (if (s.m.part p).isSealed then 1 else 0)))
    ∧ (b.inHold = true → b.partsHeld.Nodup → s.m.ordered → ∃ s', exec .handoverTimeout s = .next s' ∧ s'.m.boot.inHold = false ∧ s'.m.boot.staged = none
        ∧ s'.m.boot.running = b.running ∧ s'.m.getR Reg.SVC_STATUS_HANDOVER = 3 ∧ s'.m.flagR Reg.SVC_EVT_FW_HANDOVER = true
        ∧ ∀ p : PartId, (s'.m.part p.val).service = (s.m.part p.val).service - (if p ∈ b.partsHeld then 1 else 0))
    ∧ (b.inHold = false → exec .handoverTimeout s = .next s)

/-- R429, R483, R484: a port that goes down gives up its lease; a link reset or PERST also returns its functions to their reset configuration and sets
RESET_PEn; a function level reset disables one function; a configuration write sets its power state and bus mastering, and enables it again; the link comes back up but for
PERST. Tiles are untouched. The model's own choices in it:
log entries 27, 46. -/
def Obligations.HostPorts : Prop :=
  ∀ (s : State) (port : PortId) (f : Writer) (cfg : FuncCfg),
    let H := s.m.hostPort port.val
    let upReg := if port = 0 then Reg.SVC_STATUS_PE0_UP else Reg.SVC_STATUS_PE1_UP
    let rst := if port = 0 then Reg.HOST_EVT_RESET_PE0 else Reg.HOST_EVT_RESET_PE1
    (H.up = false → exec (.hostPortDown port) s = .next s)
    ∧ (H.up = true → s.m.ordered → (∀ p : PartId, (s.m.part p.val).loadOp = none) → s.m.boot.fetching = none →
      (∃ s', exec (.hostPortDown port) s = .next s' ∧ (s'.m.hostPort port.val).up = false ∧ s'.m.getR upReg = 0 ∧ s'.m.tiles = s.m.tiles
        ∧ (s.m.getR Reg.HOST_LEASE_HOLDER = port.val + 1 → s'.m.getR Reg.HOST_LEASE_HOLDER = 0 ∧ s'.m.flagR Reg.HOST_EVT_LEASE_LAPSED = true)
        ∧ (s.m.getR Reg.HOST_LEASE_HOLDER ≠ port.val + 1 → s'.m.getR Reg.HOST_LEASE_HOLDER = s.m.getR Reg.HOST_LEASE_HOLDER)))
    ∧ (s.m.ordered → ∃ s', exec (.pcieLinkReset port) s = .next s' ∧ (s'.m.hostPort port.val).up = false ∧ (s'.m.hostPort port.val).funcs = []
        ∧ (s'.m.hostPort port.val).vfEnable = false ∧ s'.m.flagR rst = true)
    ∧ (H.perst = false → s.m.boot.moduleUp = true → ∃ s', exec (.hostLinkUp port) s = .next s' ∧ (s'.m.hostPort port.val).up = true ∧ s'.m.getR upReg = 1)
    ∧ (H.perst = true → exec (.hostLinkUp port) s = .next s)
    ∧ (H.perst = false → ∃ s', exec (.perstChange port true) s = .next s' ∧ (s'.m.hostPort port.val).perst = true ∧ s'.m.flagR rst = true
        ∧ (s'.m.getR Reg.SB_STATUS_LEVEL).testBit port.val = true)
    ∧ (∃ s', exec (.functionLevelReset f) s = .next s' ∧ Map.get {} (s'.m.hostPort f.port.val).funcs f.func.val = { flr := true }
        ∧ s'.m.flagR (if f.port = 0 then Reg.HOST_EVT_FLR_PE0 else Reg.HOST_EVT_FLR_PE1) = true)
    ∧ (s.m.ordered → Map.wf {} (s.m.hostPort f.port.val).funcs → ∃ s', exec (.pcieConfigWrite f cfg) s = .next s'
        ∧ Map.get {} (s'.m.hostPort f.port.val).funcs f.func.val =
            { Map.get {} (s.m.hostPort f.port.val).funcs f.func.val with d0 := cfg.d0, busMaster := cfg.busMaster, flr := false }
        ∧ (f.func.val = 0 → (s'.m.hostPort f.port.val).vfEnable = cfg.vfEnable ∧ (s'.m.hostPort f.port.val).numVfs = cfg.numVfs.val))


/-! ### Supply, power and temperature -/

/-- R431, R441, R442, R466: a feed out of range is given up, and where the other carries the load each SEALED partition is held and a feed failover noted; a
feed restored is drawn from again; a lost feed gives one alert; without a feed, or at a thermal trip, the module powers down and keeps what the
wear record keeps. The model's own choices in it:
log entries 26, 47. -/
def Obligations.Feeds : Prop :=
  ∀ (s : State) (f : FeedId) (mv : Nat),
    let o := 1 - f.val
    let F := s.m.feed f.val
    let kept := fun (s' : State) (trip : Bool) => s'.m.boot.moduleUp = false ∧ s'.m.tiles = [] ∧ s'.m.parts = [] ∧ s'.m.flight = []
      ∧ s'.m.wear = { s.m.wear with tripped := s.m.wear.tripped || trip } ∧ s'.m.getR Reg.BOOT_STATUS_BOOT_STATE = 0
      ∧ s'.m.getR Reg.SVN_FLOOR = s.m.getR Reg.SVN_FLOOR
      ∧ ∀ i, i < 120 → s'.m.getR (Reg.SPARE_STATE i) = s.m.getR (Reg.SPARE_STATE i)
    s.m.boot.moduleUp = true → s.m.ordered →
      (11000 ≤ mv → mv ≤ 13200 → exec (.feedOutOfRange f mv) s = .next s)
      ∧ (mv < 11000 ∨ 13200 < mv → s.m.feedCode f.val = 1 → s.m.feedCode o = 1 → F.withdrawn = false →
          ∃ s', exec (.feedOutOfRange f mv) s = .next s' ∧ (s'.m.feedCode f.val = 0) ∧ s'.m.feedCode o = 1 ∧ s'.m.feedsInUse = [o]
            ∧ s'.m.flagR Reg.SVC_EVT_FEED_FAILOVER = true ∧ s'.m.tiles = s.m.tiles
            ∧ ∀ p, p < 16 → (s.m.part p).isSealed = true → p ∉ s.m.feedHold → p ∈ s'.m.feedHold)
      ∧ (s.m.feedCode f.val ≠ 1 → F.withdrawn = false →
          ∃ s', exec (.feedRestored f) s = .next s' ∧ s'.m.feedCode f.val = 1 ∧ (s'.m.feed f.val).low = false ∧ f.val ∈ s'.m.feedsInUse)
      ∧ (s.m.feedCode f.val ≠ 1 → F.withdrawn = true → F.belowSince = none →
          ∃ s', exec (.feedRestored f) s = .next s' ∧ s'.m.feedCode f.val = 2)
      ∧ (s.m.feedCode f.val = 1 → exec (.feedRestored f) s = .next s ∧ exec (.feedLowAlert f) s = .next s)
      ∧ (s.m.feedCode f.val ≠ 1 → F.low = false → ∃ s', exec (.feedLowAlert f) s = .next s' ∧ (s'.m.feed f.val).low = true
          ∧ Out.alert 6 (feedUnit f.val) ∈ s'.m.out ∧ s'.m.flagR Reg.SVC_EVT_ALERT = true)
      ∧ (F.low = true → exec (.feedLowAlert f) s = .next s)
      ∧ (s.m.feedsInUse = [] → ∃ s', exec .noFeedTimeout s = .next s' ∧ kept s' false)
      ∧ (∃ s', exec .thermalTrip s = .next s' ∧ kept s' true)

/-- R445, R446, R448, R450 to R452, R498: the power-fail warning saves the records once; a blade sample above 100 A joins the blade's history; a rail fault of an
array rail of at most 50 us makes the pallet's arrays suspect, any other loses its regulation; a phase failure is counted; the standby
reference is noted; SYNC_IN is valid after an edge and no longer after its loss. The model's own choices in it:
log entries 39, 48, 49, 72. -/
def Obligations.Supply : Prop :=
  ∀ (s : State) (pal : PalletId) (rail : Rail) (us : Nat) (b : Fin 16) (v a temp : W32) (r : Nat) (ph : Int) (lock : Bool),
    let q := s.m.pallet pal.val
    s.m.boot.moduleUp = true → s.m.ordered →
      (s.m.flagR Reg.PWR_STATUS_PWR_WARN_IN = false → s.m.chatters 4 = false → ∃ s', exec (.pwrFailWarn true) s = .next s'
          ∧ s'.m.wear.saved = s.m.wear.saved + 1 ∧ s'.m.flagR Reg.PWR_EVT_PWR_WARN = true ∧ s'.m.flagR Reg.PWR_STATUS_PWR_WARN_IN = true
          ∧ s'.m.tiles = s.m.tiles ∧ s'.m.parts = s.m.parts)
      ∧ (∀ as, as = false ∨ s.m.flagR Reg.PWR_STATUS_PWR_WARN_IN = true ∨ s.m.chatters 4 = true → ∃ s', exec (.pwrFailWarn as) s = .next s' ∧ s'.m.wear = s.m.wear
          ∧ s'.m.getR Reg.PWR_STATUS_PWR_WARN_IN = (if as then 1 else 0))
      ∧ (bladeR25 v a temp = some r → ∃ s', exec (.bladeResSample b v a temp) s = .next s' ∧ s'.m.tiles = s.m.tiles
          ∧ Map.get {} s'.m.blades b.val = (Map.get {} s.m.blades b.val).add r
          ∧ ((Map.get {} s.m.blades b.val).base ≠ 0 → ((Map.get {} s.m.blades b.val).add r).base = (Map.get {} s.m.blades b.val).base))
      ∧ (bladeR25 v a temp = none → exec (.bladeResSample b v a temp) s = .next s)
      ∧ (q.powered = true → q.parked = false →
        ((rail = .varrayA ∨ rail = .varrayB) → us ≤ 50 → ∃ s', exec (.railFault pal rail us) s = .next s' ∧ s'.m.flagR Reg.PWR_EVT_RAIL_FAULT = true
          ∧ s'.m.pallets = s.m.pallets ∧ ∀ t n, t ∈ tilesOfPallet pal.val → n < 64 → ((s'.m.tile t).arr n).suspect = true ∧ TestUnit.array t n ∈ s'.m.tests)
        ∧ (¬ ((rail = .varrayA ∨ rail = .varrayB) ∧ us ≤ 50) → ∃ s', exec (.railFault pal rail us) s = .next s' ∧ s'.m.flagR Reg.PWR_EVT_RAIL_FAULT = true
          ∧ (s'.m.pallet pal.val).dark = true ∧ (s'.m.pallet pal.val).powered = false ∧ s'.m.getR (Reg.SPARE_STATE pal.val) = 2
          ∧ ∀ t ∈ tilesOfPallet pal.val, (∃ e ∈ s.m.tiles, e.1 = t) → (s'.m.tile t).run = .stopped ∧ (s'.m.tile t).aq = []))
      ∧ (∃ s', exec (.regulatorPhaseFail pal rail) s = .next s' ∧ s'.m.regs = s.m.regs ∧ s'.m.tiles = s.m.tiles ∧ s'.m.parts = s.m.parts
          ∧ Map.get 0 s'.m.wear.phaseFails (8 * pal.val + rail.num) = Map.get 0 s.m.wear.phaseFails (8 * pal.val + rail.num) + 1)
      ∧ exec .refSwitch s = .next { s with m := (s.m.setR Reg.PWR_STATUS_REF_STANDBY 1).setR Reg.PWR_EVT_REF_EVENT 1 }
      ∧ (s.m.flagR Reg.CHAIN_CFG_SYNC_SOURCE = true ∨ s.m.chatters 2 = true → exec (.syncInEdge ph lock) s = .next s)
      ∧ (s.m.flagR Reg.CHAIN_CFG_SYNC_SOURCE = false → s.m.chatters 2 = false → s.m.mayResume = false → ∃ s', exec (.syncInEdge ph lock) s = .next s'
          ∧ s'.m.syncValid = s.m.syncValid ∧ s'.m.timeAdj = s.m.timeAdj ∧ s'.m.mayResume = false
          ∧ s'.m.getR Reg.PWR_STATUS_REF_FREERUN = s.m.getR Reg.PWR_STATUS_REF_FREERUN)
      ∧ (s.m.flagR Reg.CHAIN_CFG_SYNC_SOURCE = false → s.m.chatters 2 = false → s.m.mayResume = true → ∃ s', exec (.syncInEdge ph lock) s = .next s' ∧ s'.m.syncValid = true
          ∧ s'.m.getR Reg.PWR_STATUS_REF_FREERUN = 0 ∧ s'.m.flagR Reg.PWR_STATUS_SYNC_LOCKED = lock
          ∧ ((s.m.syncStepped = true ∨ s.m.sealedParts ≠ []) → s'.m.timeAdj = s.m.timeAdj)
          ∧ (s.m.syncStepped = false → s.m.sealedParts = [] → s'.m.syncStepped = true
              ∧ s'.m.timeAdj = s.m.timeAdj + 100 + (s.m.getR Reg.CHAIN_CFG_SYNC_DELAY_NS / 10 : Nat) - ph))
      ∧ (s.m.syncValid = true → ∃ s', exec .syncInAbsent s = .next s' ∧ s'.m.syncValid = false ∧ s'.m.flagR Reg.PWR_STATUS_REF_FREERUN = true
          ∧ s'.m.flagR Reg.PWR_STATUS_SYNC_LOCKED = false ∧ s'.m.timeAdj = s.m.timeAdj)

/-- R443, R458 to R461: a budget decision gives each SEALED partition at least its share, reduced under a supply cut; a recalled loan leaves what was lent
at nothing; a draw above the budget asks for step 1; the fast limit asks for its step; the steps asked for take effect together. The model's own choices in it:
log entries 39, 50. -/
def Obligations.PowerSteps : Prop :=
  ∀ (s : State) (p : PartId) (pal : PalletId) (draws : List Nat),
    let P := s.m.part p.val
    let q := s.m.pallet pal.val
    s.m.boot.moduleUp = true → s.m.ordered →
      (∃ s', exec .budgetDecision s = .next s' ∧ s'.m.tiles = s.m.tiles ∧ (s.m.flagR Reg.PWR_CFG_LEND_EN = false ∨ s.m.cutNow = true →
            ∀ i, i < 16 → (s.m.part i).isSealed = true → s.m.share i < 65536 → (s.m.part i).regsOk →
              (s'.m.part i).getR Reg.PART_POWER_BUDGET = s.m.share i ∧ (s'.m.part i).loan = 0)
          ∧ (s.m.cutNow = true → s.m.shareCut = false → s'.m.flagR Reg.PWR_EVT_SHARE_CUT = true))
      ∧ (s.m.cutNow = false → s.m.share p.val = 50 * P.getR Reg.PART_CFG_POWER_SHARE)
      ∧ (P.lent ≠ 0 → 90 * s.m.share p.val ≤ 100 * P.getR Reg.PART_POWER_DRAW → P.loan = 0 → ∃ s', exec (.loanRecall p) s = .next s' ∧ (s'.m.part p.val).lent = 0
          ∧ ∀ i, i < 16 → (s.m.part i).isSealed = true → (s'.m.part i).loan ≤ (s.m.part i).loan)
      ∧ (P.isSealed = true → P.getR Reg.PART_POWER_BUDGET < draws.getD p.val 0 → P.powerReq = 0 →
          ∃ s', exec (.powerStepDecision draws) s = .next s' ∧ (s'.m.part p.val).powerReq = 1
            ∧ (s'.m.part p.val).flagR Reg.PART_PWR_EVT_POWER_STEP = true
            ∧ (s'.m.part p.val).getR Reg.PART_THROTTLE_THROTTLES = Reg.PART_THROTTLE_THROTTLES.more (P.getR Reg.PART_THROTTLE_THROTTLES))
      ∧ (P.isSealed = true → P.getR Reg.PART_POWER_BUDGET < draws.getD p.val 0 → P.powerReq = 1 →
          ∃ s', exec (.powerStepDecision draws) s = .next s' ∧ (s'.m.part p.val).powerReq = if 9 ≤ P.overAt1 then 2 else 1)
      ∧ (q.owner = some p → q.fast = false → ∃ s', exec (.fastLimit pal) s = .next s' ∧ (s'.m.pallet pal.val).fast = true
          ∧ (s'.m.pallet pal.val).pendingStep = true ∧ (∀ k, k ≠ pal.val → s'.m.pallet k = s.m.pallet k)
          ∧ (s.m.stepAsked p.val pal.val = 0 → (s'.m.part p.val).flagR Reg.PART_PWR_EVT_POWER_STEP = true
            ∧ (s'.m.part p.val).getR Reg.PART_THROTTLE_THROTTLES = Reg.PART_THROTTLE_THROTTLES.more (P.getR Reg.PART_THROTTLE_THROTTLES))
          ∧ (s.m.stepAsked p.val pal.val ≠ 0 → s'.m.parts = s.m.parts))
      ∧ (q.owner = none ∨ q.fast = true → exec (.fastLimit pal) s = .next s)
      ∧ (∃ s', exec (.stepChange p) s = .next s' ∧ s'.m.parts = s.m.parts ∧ s'.m.tiles = s.m.tiles
          ∧ ∀ i ∈ s.m.palletsOf p.val, (s.m.pallet i).parked = false → P.powerReq ≤ 2 → (s.m.pallet i).thermal ≤ 2 →
            s'.m.getR (Reg.PALLET_STEP i) = Nat.max (Nat.max (Nat.max P.powerReq (if (s.m.pallet i).fast then 1 else 0)) (s.m.pallet i).thermal)
              (if s.m.inEmergency (i / 60) then 2 else 0))

/-- R464 to R468: a reading of 100 °C or more asks for step 2 and one of 105 °C puts the wall into emergency, at most one change in 100 ms; an
emergency ends 100 ms after its causes with every pallet below 95 °C; loss of COOL_OK and coolant out of its limits are causes or
events; the forecast asks for between COOL_MIN and 40 L/min. The model's own choices in it:
log entry 50. -/
def Obligations.Thermal : Prop :=
  ∀ (s : State) (pal : PalletId) (tj : Int) (c90 c95 : Bool) (wl : WallId) (inlet outlet : Int) (flow p1 pn : Nat),
    let q := s.m.pallet pal.val
    let w := pal.val / 60
    let emerg := fun (m : Mach) (w : Nat) => if w = 0 then m.flagR Reg.PWR_STATUS_EMERG_W0 else m.flagR Reg.PWR_STATUS_EMERG_W1
    s.m.boot.moduleUp = true → s.m.ordered →
      (∃ s', exec (.thermalSample pal tj c90 c95) s = .next s' ∧ (s'.m.tiles = s.m.tiles) ∧ (Map.get {} s'.m.pallets pal.val).tj = tj
        ∧ (let n := (s'.m.pallet pal.val).thermal
           (100 ≤ tj → n = 2) ∧ (95 ≤ tj → tj < 100 → n = Nat.max 1 q.thermal) ∧ (tj < 95 → c90 = true → n = 0)
           ∧ (tj < 95 → c90 = false → c95 = true → n = Nat.min q.thermal 1) ∧ (tj < 95 → c90 = false → c95 = false → n = q.thermal))
        ∧ (105 ≤ tj → s.m.wallFree w = true → emerg s'.m w = true)
        ∧ (s.m.wallFree w = false → emerg s'.m w = emerg s.m w))
      ∧ (s.m.wallFree wl.val = true → emerg s.m wl.val = true → (s.m.wall wl.val).causes = [] → (s.m.wall wl.val).causesGoneAt + 100000 ≤ s.m.timeUs →
          (∀ k, k < 60 → (s.m.pallet (60 * wl.val + k)).tj < 95) →
          ∃ s', exec (.thermalEmergency wl) s = .next s' ∧ emerg s'.m wl.val = false ∧ ∀ k, k < 60 → s'.m.getR (Reg.PALLET_EMERGENCY (60 * wl.val + k)) = 0)
      ∧ (s.m.wallFree wl.val = true → emerg s.m wl.val = false → (s.m.wall wl.val).causes ≠ [] →
          ∃ s', exec (.thermalEmergency wl) s = .next s' ∧ emerg s'.m wl.val = true ∧ s'.m.flagR Reg.PWR_EVT_EMERGENCY = true
            ∧ ∀ k, k < 60 → s'.m.getR (Reg.PALLET_EMERGENCY (60 * wl.val + k)) = 1 ∧ (s'.m.pallet (60 * wl.val + k)).pendingStep = true)
      ∧ (s.m.chatters 3 = false → s.m.wallFree 0 = true → s.m.wallFree 1 = true → ∃ s', exec (.coolOkChange false) s = .next s'
          ∧ emerg s'.m 0 = true ∧ emerg s'.m 1 = true ∧ s'.m.flagR Reg.PWR_STATUS_COOL_OK_IN = false)
      ∧ (6500 ≤ outlet → s.m.wallFree 0 = true → s.m.wallFree 1 = true → ∃ s', exec (.coolantSample inlet outlet flow false false false) s = .next s'
          ∧ emerg s'.m 0 = true ∧ emerg s'.m 1 = true)
      ∧ ((inlet < 1500 ∨ 4000 < inlet) → ∃ s', exec (.coolantSample inlet outlet flow true false false) s = .next s'
          ∧ s'.m.flagR Reg.PWR_EVT_COOL_RANGE = true)
      ∧ (s.m.getR Reg.PWR_CFG_COOL_MIN ≤ 40 → ∃ s', exec (.coolDemandUpdate p1 pn) s = .next s' ∧ s'.m.tiles = s.m.tiles ∧ s'.m.parts = s.m.parts
          ∧ 4 * s.m.getR Reg.PWR_CFG_COOL_MIN ≤ s'.m.getR Reg.COOL_FORECAST_DEMAND ∧ s'.m.getR Reg.COOL_FORECAST_DEMAND ≤ 160)

/-- R469 to R472, R503, R504: a telemetry sample publishes records of 64 B whose SEQ advances by 2 and adds to the energies; a latched input is
treated as R504 says. The model's own choices in it:
log entries 39, 61. -/
def Obligations.Telemetry : Prop :=
  ∀ (s : State) (x : ModSample) (y : PalletSample),
    let t := s.m.telemetry
    let i := y.pallet.val
    s.m.boot.moduleUp = true →
      (∀ ys : List PalletSample, ∃ s', exec (.telemetrySample x ys) s = .next s' ∧ s'.m.tiles = s.m.tiles ∧ s'.m.parts = s.m.parts
        ∧ s'.m.telemetry.seq = (t.seq + 2) % 2 ^ 32 ∧ s'.m.telemetry.energy = t.energy + x.draw ∧ s'.m.telemetry.sample = x
        ∧ s'.m.telemetry.modRec.length = 64 ∧ leNat (s'.m.telemetry.modRec.take 4) = (t.seq + 2) % 2 ^ 32
        ∧ (ys = [y] → (Map.get [] s'.m.telemetry.pallets i).length = 64
          ∧ (0 < y.draw → Map.get 0 s'.m.telemetry.palletEnergy i = Map.get 0 t.palletEnergy i + y.draw)))
      ∧ (∀ c : Fin 6, s.m.chatters c.val = false → ∃ s', exec (.sidebandChatter c) s = .next s' ∧ s'.m.chatters c.val = true
          ∧ (c.val = 5 → s'.m.chainIn = true) ∧ (c.val = 4 → s'.m.wear.saved = s.m.wear.saved + 1)
          ∧ (c.val = 0 → (s'.m.hostPort 0).perst = true) ∧ (c.val = 2 → s'.m.syncValid = false))
      ∧ ∀ c : Fin 6, s.m.chatters c.val = true → exec (.sidebandChatter c) s = .next s


/-! ### Rings and requests -/

/-- R300, R302 to R304, R306: a doorbell by the function that carries the rings takes the index over and starts reads; one out of its bounds only sets
DOORBELL_BAD; another function's write does nothing; the coalescing timer signals what is unsignalled. Other partitions and tiles are
untouched. The model's own choices in it:
log entries 5, 12. -/
def Obligations.Doorbells : Prop :=
  ∀ (s : State) (w : Writer) (p : PartId) (val : W32) (n : Fin 64) (rid : RingId),
    let P := s.m.part p.val
    let idx := val.toNat % 65536
    let c := s.m.hctx p
    let ends := fun (i : Instr) (good : State → Prop) => ∃ s', exec i s = .next s' ∧ s.onlyPart s' p ∧ good s'
    let headOk := fun (r : Nat) => P.ringOn r = true ∧ idx < P.ringSize r ∧ (P.ringSize r + idx - (P.ring r).cons) % P.ringSize r ≤ P.ringUsed r
    let head := fun (i : Instr) (r : Nat) => headOk r → ends i fun s' => ((s'.m.part p.val).ring r).cons = idx
    let bad := fun (i : Instr) => ends i fun s' => (s'.m.part p.val).flagR Reg.SERVE_EVT_DOORBELL_BAD = true
      ∧ (s'.m.part p.val).tail = P.tail ∧ ∀ r, ((s'.m.part p.val).ring r).cons = (P.ring r).cons
    s.m.ordered → Map.sortedFrom 0 P.rings = true →
    (s.m.bellOwner w p = false → ∀ i, i = Instr.sqTail w p val ∨ i = .cqHead w p val ∨ i = .eqHead w p val ∨ i = .streamHead w p n val →
        exec i s = .next s)
    ∧ (s.m.bellOwner w p = true →
      (P.ringOn 0 = true → idx < P.ringSize 0 → ends (.sqTail w p val) fun s' => (s'.m.part p.val).tail = idx ∧ (s'.m.part p.val).fetchStopped = false)
      ∧ (P.ringOn 0 = true → idx < P.ringSize 0 → idx ≠ P.fetchIdx → c.up = true → P.isSealed = true → P.ringOn 1 = true → P.fetching = [] → P.owed = 0
          → P.ringUsed 1 = 0 → (P.ring 1).waiting = [] → P.confidential = false → ends (.sqTail w p val) fun s' =>
            ∃ f fs o, (s'.m.part p.val).fetching = f :: fs ∧ f.seq = P.fetchNext ∧ f.data = none ∧ fs.length < 16
              ∧ (s'.m.part p.val).fetchNext = P.fetchNext + fs.length + 1 ∧ (s'.m.part p.val).owed = fs.length + 1
              ∧ (s'.m.out.drop s.m.out.length).head? = some o ∧ ∃ a, o = .hostRead (some p) c.port a 128)
      ∧ ((P.ringOn 0 = false ∨ P.ringSize 0 ≤ idx) → bad (.sqTail w p val))
      ∧ head (.cqHead w p val) 1 ∧ head (.eqHead w p val) 2 ∧ head (.streamHead w p n val) (3 + n.val)
      ∧ (¬ headOk 1 → bad (.cqHead w p val)) ∧ (¬ headOk 2 → bad (.eqHead w p val)) ∧ (¬ headOk (3 + n.val) → bad (.streamHead w p n val)))
    ∧ ((P.ring rid.num).unsignalled ≠ 0 → (P.ring rid.num).sinceUs + P.getR (Reg.RING_CFG_COAL_US rid.num) ≤ c.now → c.up = true →
        ends (.coalesceTimer p rid) fun s' => ((s'.m.part p.val).ring rid.num).unsignalled = 0
          ∧ Out.msix c.port c.func (P.getR (Reg.RING_CFG_VECTOR rid.num)) ∈ s'.m.out)

/-- R304, R305, R307, R316, R383, R395: of the oldest read in flight, a descriptor with a known TYPE and no reserved bit is handed on with its fields, another completes
with BAD_DESC, one whose envelope does not open completes with AUTH_FAIL; a failed read stops the fetch, drops what was read after it and sets FETCH_ERROR. R383: reads end while
the port's DMA engine serves the partition, in fixed-slot operation not in the slots of others. The model's own choices in it:
log entries 12, 105. -/
def Obligations.DescriptorFetch : Prop :=
  ∀ (s : State) (p : PartId) (f : Fetch) (fs : List Fetch) (bs : List Byte),
    let P := s.m.part p.val
    let ends := fun (i : Instr) (good : State → Prop) => ∃ s', exec i s = .next s' ∧ s.onlyPart s' p ∧ good s'
    let opens := fun (env : Option Envelope) => (P.openEnv env 0x01 0 f.seq 128).2
    let stopped := fun (s' : State) => (s'.m.part p.val).fetchStopped = true ∧ (s'.m.part p.val).flagR Reg.SERVE_EVT_FETCH_ERROR = true
      ∧ (s'.m.part p.val).fetching = [] ∧ (s'.m.part p.val).fetchNext = f.seq ∧ (s'.m.part p.val).owed = P.owed - (fs.length + 1)
      ∧ (s'.m.part p.val).handed = P.handed
    (s.m.boot.fixedSlots = true → (s.m.hostPort (P.getR Reg.SERVE_CFG_PORT)).serving ≠ some p → ∀ (n : Nat) (kind : PayloadKind) (data : HostRead),
      exec (.descriptorReadDone p n data) s = .next s ∧ exec (.payloadReadDone p n kind data) s = .next s)
    ∧ (s.m.boot.fixedSlots = false ∨ (s.m.hostPort (P.getR Reg.SERVE_CFG_PORT)).serving = some p →
    P.fetching = f :: fs → f.data = none → (∀ g ∈ fs, f.seq < g.seq) → P.faultEnds = 0 →
      (∀ env, fs = [] → P.fetchIdx = P.tail →
        (∀ d, opens env = true → readDesc bs = some d → ends (.descriptorReadDone p f.seq (.data env bs)) fun s' =>
          (s'.m.part p.val).handed = P.handed ++ [⟨f.seq, f.bellUs, d⟩] ∧ (s'.m.part p.val).fetching = [] ∧ (s'.m.part p.val).owed = P.owed)
        ∧ (opens env = false → (P.ring 3).waiting = [] → ends (.descriptorReadDone p f.seq (.data env bs)) fun s' =>
          s.completes s' p f.seq .authFail ∧ (s'.m.part p.val).handed = P.handed ∧ (s'.m.part p.val).fetching = [] ∧ (s'.m.part p.val).owed = P.owed - 1
          ∧ (s'.m.part p.val).flagR Reg.PART_EVT_AUTH_FAIL_SEEN = true)
        ∧ (opens env = true → readDesc bs = none → (P.ring 3).waiting = [] → ends (.descriptorReadDone p f.seq (.data env bs)) fun s' =>
          s.completes s' p f.seq .badDesc ∧ (s'.m.part p.val).handed = P.handed ∧ (s'.m.part p.val).fetching = [] ∧ (s'.m.part p.val).owed = P.owed - 1
          ∧ (s'.m.part p.val).flagR Reg.SERVE_EVT_BAD_DESC_SEEN = true))
      ∧ ends (.descriptorReadDone p f.seq .failed) stopped)
    ∧ (P.fetching = f :: fs → (∀ g ∈ fs, f.seq < g.seq) → P.faultEnds = 0 → ends (.ringFetchError p f.seq) stopped)

/-- R309 to R311, R323: the request at the front of the queue is examined: accepted, it claims the lowest free slot, reserves its pages and has its payload
read; held in DRAIN or RELOAD, it waits; refused, it completes with its status. The first checks in their order: FAULTED gives PART_FAULTED, a bad field BAD_DESC. The model's own choices in it:
log entries 24, 68. -/
def Obligations.Admission : Prop :=
  ∀ (s : State) (p : PartId) (h : Handed) (hs : List Handed) (c : Instr),
    let P := s.m.part p.val
    let v := Part.admission { P with handed := hs } s.m.timeUs h.desc
    let ends := fun (good : Part → Prop) => ∃ s', exec c s = .next s' ∧ s.onlyPart s' p ∧ good (s'.m.part p.val)
    P.handed = h :: hs → (h.desc.type = .generate ∧ c = .generate p ∨ h.desc.type = .tune ∧ c = .tune p) → (P.ring (3 + h.desc.stream)).waiting = [] →
      (P.faulted = true → v = .fail .partFaulted 0 0)
      ∧ (P.faulted = false → Part.descOk { P with handed := hs } h.desc = false → v = .fail .badDesc 0 0)
      ∧ (v = .accept → ∃ i, Part.freeSlot P = some i ∧ ends fun Q => Q.handed = hs ∧ (∃ r, (Q.slot i).req = some r ∧ r.seq = h.seq ∧ r.desc = h.desc
            ∧ r.acceptUs = s.m.timeUs ∧ r.done = 0 ∧ r.tokens = 0) ∧ (Q.slot i).bound = false ∧ (Q.slot i).reserved = P.pagesFor h.desc
            ∧ (∀ j, j ≠ i → Q.slot j = P.slot j) ∧ (h.desc.type = .tune → (Q.steer h.desc.steer).state = .tuning))
      ∧ (v = .hold → ends fun Q => Q.handed = hs ∧ Q.slots = P.slots ∧ ∃ r, Q.holdQueue = P.holdQueue ++ [r] ∧ r.seq = h.seq ∧ r.held = true)
      ∧ (∀ st reason wait, v = .fail st reason wait → ∃ s', exec c s = .next s' ∧ s.onlyPart s' p ∧ s.completes s' p h.seq st
            ∧ (s'.m.part p.val).slots = P.slots ∧ (s'.m.part p.val).holdQueue = P.holdQueue ∧ (s'.m.part p.val).handed = hs)

/-- R312 to R314, R329: CANCEL is accepted for a later boundary; DRAFT without a bound HOST request completes with NOT_FOUND, else its record is read; the entry of
a STEER_WRITE is read; STEER_READ writes the entry's header and records to the host and completes; a descriptor of these whose address or
index is out of its rule completes with BAD_DESC.
R305, R310, R311, R325, R395: a prompt whose envelope opens gives the request its tokens, and one that is out of the vocabulary ends it with BAD_DESC; a mask gives
its bits, and without one set ends it with BAD_DESC; an envelope that does not open ends it with AUTH_FAIL, a failed
read with FETCH_ERROR, both at the next boundary; a steering entry that is read waits for the boundary; a request not begun within its class's
bound is promoted. The model's own choices in it:
log entry 68. -/
def Obligations.ControlsAndPayloads : Prop :=
  (∀ (s : State) (p : PartId) (h : Handed) (hs : List Handed),
    let P := s.m.part p.val
    let d := h.desc
    let ends := fun (i : Instr) (good : State → Prop) => ∃ s', exec i s = .next s' ∧ s.onlyPart s' p ∧ (s'.m.part p.val).handed = hs
      ∧ (s'.m.part p.val).slots = P.slots ∧ good s'
    let inRange := d.steer < P.getR Reg.STEER_CFG_STEER_ENTRIES ∧ d.addr.toNat % 64 = 0 ∧ P.anyHeader.steerBytes ≤ d.len
    P.handed = h :: hs → (P.ring (3 + d.stream)).waiting = [] →
      (d.type = .cancel → ends (.cancel p) fun s' => (s'.m.part p.val).cancels = P.cancels ++ [⟨h.seq, d.tag, d.target.toNat, P.turnSeq⟩])
      ∧ (d.type = .draft → d.addr.toNat % 64 ≠ 0 → ends (.draft p) fun s' => s.completes s' p h.seq .badDesc)
      ∧ (d.type = .draft → d.addr.toNat % 64 = 0 → P.hostSlot d.target.toNat = none → ends (.draft p) fun s' => s.completes s' p h.seq .notFound)
      ∧ (d.type = .draft → d.addr.toNat % 64 = 0 → P.hostSlot d.target.toNat ≠ none → ends (.draft p) fun s' => (s'.m.part p.val).reads = P.reads ++ [h])
      ∧ (d.type = .steerWrite → d.steer ≠ 0 → inRange →
          ends (.steerWrite p) fun s' => (s'.m.part p.val).reads = P.reads ++ [h])
      ∧ (d.type = .steerWrite → (d.steer = 0 ∨ ¬ inRange) → ends (.steerWrite p) fun s' => s.completes s' p h.seq .badDesc)
      ∧ (d.type = .steerRead → inRange → ends (.steerRead p) fun s' => s.completes s' p h.seq .completed
          ∧ ∃ body env, Out.hostWrite p (s.m.hctx p).port d.addr body env ∈ s'.m.out ∧ body.take 64 = P.steerHeader d.steer)
      ∧ (d.type = .steerRead → ¬ inRange → ends (.steerRead p) fun s' => s.completes s' p h.seq .badDesc)
      ∧ (d.type ≠ .cancel → ∃ s', exec (.cancel p) s = .next s' ∧ s.onlyPart s' p ∧ (s'.m.part p.val).handed = P.handed ∧ (s'.m.part p.val).cancels = P.cancels))
  ∧ (∀ (s : State) (p : PartId) (i : SlotNo) (S : Slot) (r : Req) (rest : Map Slot) (bs : List Byte),
    let P := s.m.part p.val
    let vocab := ((P.place r.wver.val).header.getD {}).vocab
    let gives := fun (c : Instr) (good : Req → Prop) => ∃ s' r', exec c s = .next s' ∧ s.onlyPart s' p
      ∧ (s'.m.part p.val).slots = (i.val, { S with req := some r' }) :: rest ∧ good r'
    P.slots = (i.val, S) :: rest → S.req = some r → (∀ h ∈ P.reads, h.seq ≠ r.seq) → (∀ e ∈ rest, ∀ q, e.2.req = some q → q.seq ≠ r.seq) →
    (∀ e ∈ rest, i.val < e.1) → r.ending = none →
      (s.m.dmaServes p = true → (bs.length = 4 * r.desc.len → ∀ env, (P.openEnv env 0x02 0 r.seq (4 * r.desc.len)).2 = true →
        ((∀ k, k < r.desc.len → leNat ((bs.drop (4 * k)).take 4) < vocab) → gives (.payloadReadDone p r.seq .prompt (.data env bs)) fun r' =>
          r'.promptRead = true ∧ r'.prompt.length = r.desc.len ∧ r'.ending = none
          ∧ ∀ k, k < r.desc.len → (r'.prompt.getD k 0).toNat = leNat ((bs.drop (4 * k)).take 4))
        ∧ ((∃ k, k < r.desc.len ∧ vocab ≤ leNat ((bs.drop (4 * k)).take 4)) → gives (.payloadReadDone p r.seq .prompt (.data env bs)) fun r' =>
          r'.ending = some .badDesc))
      ∧ (∀ env, (P.openEnv env 0x02 0 r.seq (4 * r.desc.len)).2 = false → gives (.payloadReadDone p r.seq .prompt (.data env bs)) fun r' =>
          r' = { r with ending := some .authFail })
      ∧ (∀ env, (P.openEnv env 0x03 0 r.seq ((r.desc.len + 7) / 8)).2 = true → gives (.payloadReadDone p r.seq .mask (.data env bs)) fun r' =>
          r' = if leNat bs % 2 ^ r.desc.len = 0 then { r with ending := some .badDesc } else { r with mask := bs })
      ∧ gives (.payloadReadDone p r.seq .prompt .failed) (fun r' => r' = { r with ending := some .fetchError }))
      ∧ (r.desc.type = .generate → r.done = 0 → r.back = false → r.tokens = 0 → r.acceptUs + 1000 * P.getR (Reg.CLASS_TIME_QUEUE_BOUND r.desc.cls) ≤ s.m.timeUs →
          gives (.prefillPromotion p i) fun r' => r' = { r with promoted := true })
      ∧ (s.m.timeUs < r.acceptUs + 1000 * P.getR (Reg.CLASS_TIME_QUEUE_BOUND r.desc.cls) → gives (.prefillPromotion p i) fun r' => r' = r))
  ∧ (∀ (s : State) (p : PartId) (h : Handed) (rest : List Handed) (bs : List Byte) (env : Option Envelope),
    let P := s.m.part p.val
    let ends := fun (data : HostRead) (good : State → Prop) => ∃ s', exec (.payloadReadDone p h.seq .steer data) s = .next s' ∧ s.onlyPart s' p
      ∧ (s'.m.part p.val).slots = P.slots ∧ (s'.m.part p.val).reads = rest ∧ good s'
    let opens := (P.openEnv env 0x05 0 h.seq P.anyHeader.steerBytes).2
    let due := fun (st : Status) (s' : State) => (s'.m.part p.val).boundaryDone = P.boundaryDone ++ [plainDone h.seq h.desc st P.turnSeq]
      ∧ (s'.m.part p.val).steerOps = P.steerOps
    s.m.dmaServes p = true → P.reads = h :: rest → (∀ g ∈ rest, g.seq ≠ h.seq) → h.desc.type = .steerWrite → (P.ring (3 + h.desc.stream)).waiting = [] →
      ends .failed (due .fetchError)
      ∧ (opens = false → ends (.data env bs) (due .authFail))
      ∧ (opens = true → P.steerHeaderOk h.desc.steer bs = true → ends (.data env bs) fun s' =>
          (s'.m.part p.val).steerOps = P.steerOps ++ [⟨h.seq, h.desc.tag, h.desc.steer, some bs, false⟩])
      ∧ (opens = true → P.steerHeaderOk h.desc.steer bs = false → ends (.data env bs) fun s' =>
          s.completes s' p h.seq .badDesc ∧ (s'.m.part p.val).steerOps = P.steerOps))

/-! ### Beats and turns -/

/-- R226 to R228, R230, R232, R255, R418, R419: the call point decides once in a beat. With nothing in the way the next beat is not held, and a turn boundary follows
where every member is in TURN and the turn's records are there; a late tile, the chain, a forced item or a service hold holds it, in that order,
and the end of the beat numbers sets TURN_LIMIT. At the end of the beat a held one leaves the beat number and counts, another advances it, and the gaps of the
arrays are noted. A forced item of a member tile's array asks for a held beat. A partition without member tiles has no beats. The model's own choices in it:
log entries 65, 69, 101. -/
def Obligations.Beats : Prop :=
  ∀ (s : State) (p : PartId) (t : TileId) (a : ArrId),
    let m := s.m
    let P := m.part p.val
    let ms := m.members p.val
    let ends := fun (c : Instr) (good : Part → Prop) => ∃ s', exec c s = .next s' ∧ s.onlyPart s' p ∧ good (s'.m.part p.val)
    let late := fun (u : Nat) => (m.tile u).beatDue = some (P.beatNow + 1) ∧ (m.tile u).beatWait = false ∧ (m.tile u).run ≠ .inTurn
    let beat := fun (good : Part → Prop) => ∃ s', exec (.beatBoundary p) s = .next s' ∧ (∀ q, q ≠ p.val → s'.m.part q = m.part q)
      ∧ (∀ u, u ∉ ms → s'.m.tile u = m.tile u) ∧ (∀ u ∈ ms, s'.m.tile u = (m.tile u).noteGaps P.beatNow) ∧ good (s'.m.part p.val)
    (ms = [] → exec (.callPoint p) s = .next s ∧ exec (.beatBoundary p) s = .next s)
    ∧ (ms ≠ [] → P.decided = false →
      ((∀ u ∈ ms, ¬ late u) → P.flagR Reg.TURN_CFG_CHAINED = true → (m.linkWaits p.val = true ∨ m.allInTurn p.val = true ∧ m.chainReady P = false) →
        ends (.callPoint p) fun Q => Q.decided = true ∧ Q.nextHeld = true ∧ Q.boundaryNext = false ∧ Q.heldSrc = 2)
      ∧ (P.beatNow = 65535 → m.allInTurn p.val = false →
        ends (.callPoint p) fun Q => Q.decided = true ∧ Q.nextHeld = true ∧ Q.boundaryNext = false ∧ Q.flagR Reg.TURN_EVT_TURN_LIMIT = true)
      ∧ (P.inService = true → ends (.callPoint p) fun Q => Q.decided = true ∧ Q.flagR Reg.TURN_EVT_SERVICE_HOLD = true)
      ∧ ((∀ u ∈ ms, ¬ late u) → P.flagR Reg.TURN_CFG_CHAINED = false →
        (P.forced = [] → P.inService = false → P.abandonReq = false → P.abandoning = false → P.beatNow < 65535 →
          exec (.callPoint p) s = .next (s.withPart p { P with
            decided := true, chainFound := P.chainFound || m.allInTurn p.val, nextHeld := false
            boundaryNext := m.allInTurn p.val && m.recordsIn P, holding := false, heldSrc := 0 }))
        ∧ (P.forced ≠ [] → ends (.callPoint p) fun Q => Q.decided = true ∧ Q.nextHeld = true ∧ Q.boundaryNext = false ∧ Q.heldSrc = 3)
        ∧ (P.forced = [] → P.inService = true → ends (.callPoint p) fun Q => Q.decided = true ∧ Q.nextHeld = true ∧ Q.boundaryNext = false
          ∧ Q.heldSrc = 4 ∧ Q.flagR Reg.TURN_EVT_SERVICE_HOLD = true))
      ∧ ((∃ u ∈ ms, late u) → ends (.callPoint p) fun Q => Q.decided = true ∧ Q.nextHeld = true ∧ Q.boundaryNext = false ∧ Q.heldSrc = 1))
    ∧ (ms ≠ [] → P.decided = true → exec (.callPoint p) s = .next s)
    ∧ (ms ≠ [] → P.decided = false → exec (.beatBoundary p) s = .next s)
    ∧ (ms ≠ [] → P.decided = true → m.ordered →
      ((P.nextHeld = true ∨ P.boundaryNext = true ∧ (P.abandonReq = true ∨ P.abandoning = true)) → beat fun Q => Q.beatNow = P.beatNow ∧ Q.decided = false
        ∧ Q.turnHeld = P.turnHeld + 1 ∧ Q.forced = []
        ∧ Q.getR Reg.TURN_HOLD_COUNT_HOLD_BEATS = Reg.TURN_HOLD_COUNT_HOLD_BEATS.more (P.getR Reg.TURN_HOLD_COUNT_HOLD_BEATS))
      ∧ (P.nextHeld = false → P.boundaryNext = false → beat fun Q => Q.beatNow = Nat.min (P.beatNow + 1) 65535 ∧ Q.decided = false
          ∧ Q.turnHeld = P.turnHeld ∧ Q.forced = P.forced ∧ Q.holdUs = 0)
      ∧ (P.nextHeld = false → P.boundaryNext = true → P.abandonReq = false → P.abandoning = false → exec (.beatBoundary p) s = .next s))
    ∧ (m.owner t.val = some p → (m.tile t.val).member = true → m.forcedItem t.val a.val = true → P.inService = false → (t.val, a.val) ∉ P.forced →
        exec (.forcedSlotDue t a) s = .next (s.withPart p { P with forced := P.forced ++ [(t.val, a.val)] }))
    ∧ (m.owner t.val = none ∨ (m.tile t.val).member = false ∨ m.forcedItem t.val a.val = false ∨ (m.ownerPart t.val).inService = true →
        exec (.forcedSlotDue t a) s = .next s)

/-- R244, R499 to R501, R536: at a turn mark a chained partition whose call point has found its members all in TURN releases CHAIN_HOLD_OUT, and one that has not, or
is halted, keeps it asserted; the deassertion of CHAIN_HOLD_IN latches the nearest turn mark; the input that reads deasserted while the output is asserted sets CHAIN_WIRE. The model's own choices in it:
log entry 64. -/
def Obligations.ChainHold : Prop :=
  ∀ (s : State) (p : PartId) (at_ : Nat),
    let P := s.m.part p.val
    let halted := P.haltReq = true ∧ P.stepping = false
    (s.m.chained = some p.val →
      (P.inTurn = true → P.chainFound = true → ¬ halted → ∃ s', exec .turnMarkInstant s = .next s' ∧ s'.m.chainOut = false
          ∧ s'.m.part p.val = { P with chainRelease := true } ∧ s'.m.tiles = s.m.tiles)
      ∧ (P.inTurn = false → ∃ s', exec .turnMarkInstant s = .next s' ∧ s'.m.chainOut = false ∧ s'.m.parts = s.m.parts ∧ s'.m.tiles = s.m.tiles)
      ∧ (P.inTurn = true → P.chainRelease = false → P.chainFound = false ∨ halted →
          exec .turnMarkInstant s = .next { s with m := { s.m with chainOut := true, chainIn := s.m.chainIn || !s.m.chainOut } })
      ∧ (∃ s' k, exec (.chainHoldInDeassert at_) s = .next s' ∧ s'.m.chainIn = false ∧ s'.m.tiles = s.m.tiles
          ∧ s'.m.part p.val = { P with chainLatched := true, chainM0 := 64 * k } ∧ 64 * k ≤ at_ - 100 + 32 ∧ at_ - 100 ≤ 64 * k + 32))
    ∧ (s.m.chained = none → exec (.chainHoldInDeassert at_) s = .next { s with m := { s.m with chainIn := false } })
    ∧ (s.m.chainOut = true → ∃ s', exec .chainWire s = .next s' ∧ s'.m.chainIn = false ∧ s'.m.flagR Reg.SB_STATUS_CHAIN_WIRE = true
        ∧ s'.m.parts = s.m.parts ∧ s'.m.tiles = s.m.tiles)
    ∧ (s.m.chainOut = false → exec .chainWire s = .next s)

/-- R239, R241 to R243: the watchdog's first expiry calls for an abandonment of the whole turn, one in the replay turn that follows ends the requests replayed with
SCHED_FAULT and calls for another, one during an abandonment ends the requests of the card, and both set FAULTED; an abandonment stops every core of the partition's tiles and what only they could complete; its boundary
restarts the member tiles at 0x0000 and begins the replay turn, with REPLAY set on the affected entries of the same card. The model's own choices in it:
log entries 22, 23, 65. -/
def Obligations.Abandonment : Prop :=
  ∀ (s : State) (p : PartId),
    let m := s.m
    let P := m.part p.val
    let ends := fun (c : Instr) (good : Part → Prop) => ∃ s', exec c s = .next s' ∧ s.onlyPart s' p ∧ good (s'.m.part p.val)
    let expired := 75 * P.getR Reg.TURN_CFG_HOLD_WD ≤ 8 * P.holdUs
    (m.members p.val ≠ [] →
      (¬ expired ∨ P.decided = false → exec (.holdWatchdogExpiry p) s = .next s)
      ∧ (P.decided = true → expired →
        (P.abandonReq = false → P.abandoning = false → (P.replay = false ∨ P.wdFirst = false) → ends (.holdWatchdogExpiry p) fun Q =>
          Q.abandonReq = true ∧ Q.affectAll = true ∧ Q.wdFirst = true ∧ Q.holdUs = 0 ∧ Q.flagR Reg.TURN_EVT_HOLD_WD = true ∧ Q.slots = P.slots
          ∧ (P.flagR Reg.TURN_CFG_CHAINED = true → m.allInTurn p.val = true → m.chainReady P = false → Q.flagR Reg.TURN_EVT_CHAIN_FAULT = true)
          ∧ (P.flagR Reg.TURN_CFG_CHAINED = false →
            Q = { P.evt Reg.TURN_EVT_HOLD_WD with holdUs := 0, abandonReq := true, affectAll := true, wdFirst := true }))
        ∧ (P.abandonReq = false → P.abandoning = false → P.replay = true → P.wdFirst = true → Map.sortedFrom 0 P.slots = true →
          ends (.holdWatchdogExpiry p) fun Q => Q.abandonReq = true ∧ Q.affectAll = true ∧ Q.faulted = true ∧ Q.holdUs = 0
            ∧ ∀ e ∈ P.card, e.replay = true → (Q.slot e.slot.val).req = none)
        ∧ (P.abandoning = true ∨ P.abandonReq = true → Map.sortedFrom 0 P.slots = true → ends (.holdWatchdogExpiry p) fun Q => Q.faulted = true
          ∧ Q.holdUs = 0 ∧ Q.flagR Reg.TURN_EVT_HOLD_WD = true ∧ ∀ e ∈ P.card, (Q.slot e.slot.val).req = none))
      ∧ (P.abandonReq = false ∨ P.abandoning = true → exec (.turnAbandon p) s = .next s)
      ∧ (P.abandonReq = true → P.abandoning = false → m.ordered → ∃ s', exec (.turnAbandon p) s = .next s'
        ∧ (s'.m.part p.val).abandoning = true ∧ (s'.m.part p.val).boundaryNext = false ∧ (s'.m.part p.val).flagR Reg.TURN_EVT_ABANDON = true
        ∧ (s'.m.part p.val).getR Reg.TURN_ABANDON_COUNT_ABANDONS = Reg.TURN_ABANDON_COUNT_ABANDONS.more (P.getR Reg.TURN_ABANDON_COUNT_ABANDONS)
        ∧ (∀ q, q ≠ p.val → s'.m.part q = m.part q)
        ∧ (∀ u, u ∉ m.tilesOf p.val → s'.m.tile u = m.tile u)
        ∧ ∀ u ∈ m.tilesOf p.val, s'.m.tile u = { m.tile u with
            run := if (m.tile u).run = .stopped then .stopped else .abandoned
            park := [], watch := if (m.tile u).member then [] else (m.tile u).watch, beatWait := false, mq := (m.tile u).mq.map fun o => { o with stale := true } }))
    ∧ ((P.abandoning = false ∨ m.drained p = false) → exec (.abandonmentBoundary p) s = .next s)
    ∧ (P.abandoning = true → m.drained p = true → m.ordered → P.regsOk → P.turnSeq + 1 < 2 ^ 64 →
      (∀ e ∈ P.card, (P.slot e.slot.val).failedOnce = false ∧ (P.slot e.slot.val).kvLost = false) →
      ∃ s', exec (.abandonmentBoundary p) s = .next s' ∧ (∀ q, q ≠ p.val → s'.m.part q = m.part q)
        ∧ (let Q := s'.m.part p.val
          Q.abandoning = false ∧ Q.abandonReq = false ∧ Q.replay = true ∧ Q.inTurn = true ∧ Q.beatNow = 0 ∧ Q.turnSeq = P.turnSeq + 1
            ∧ Q.card = P.card.filterMap fun e => if (P.slot e.slot.val).req = none then none
                else some { e with replay := e.replay || P.affectAll || (P.slot e.slot.val).affected })
        ∧ ∀ u ∈ m.members p.val, (s'.m.tile u).run = .running ∧ (s'.m.tile u).pc = 0 ∧ (s'.m.tile u).x = [] ∧ (s'.m.tile u).v = []
            ∧ (s'.m.tile u).p = [] ∧ (s'.m.tile u).banks = (m.tile u).banks ∧ (s'.m.tile u).arrs = (m.tile u).arrs)

/-- R24, R25, R219, R232, R279 to R283, R418: in slot order a result record is collected once its line 0 is full, with its tag cleared, or calls for an abandonment where
it does not fit its entry or is poisoned; a refused read is reported; the turn ends once every record of the card is collected; with no
request left the partition goes idle. An idle boundary binds what has been admitted and starts a turn, and every member waiting in TURN goes on; without
members there is one at each module beat. A record advances its slot. The model's own choices in it:
log entries 65, 68, 69. -/
def Obligations.TurnBoundaries : Prop :=
  ∀ (s : State) (p : PartId) (e : CardEntry) (u at_ : Nat),
    let m := s.m
    let P := m.part p.val
    let T := m.tile u
    let i := e.slot.val
    let bytes := T.readBytes at_ 192
    let tune := (P.slot i).req.any fun q => q.desc.type == .tune
    let draft := (P.turnDrafts.find? fun d => d.1 == i).map fun d => leNat d.2
    let collects := fun (good : State → Part → Prop) => ∃ s', exec (.resultCollect p e.slot) s = .next s' ∧ good s' (s'.m.part p.val)
    let abandons := fun (Q : Part) => Q.abandonReq = true ∧ Q.flagR Reg.GEN_EVT_RESULT_BAD = true ∧ Q.collected = P.collected
      ∧ (Q.slot i).affected = true
    (e ∈ P.card → (∀ f ∈ P.card, f.slot = e.slot → f = e) → P.resultAt i = some (u, at_) → at_ % 64 = 0 →
      (∀ x ∈ P.collected, x.1 ≠ i) → P.abandonReq = false → P.abandoning = false →
        ((∃ f ∈ P.card.takeWhile fun f => f.slot.val != i, ∀ x ∈ P.collected, x.1 ≠ f.slot.val) → exec (.resultCollect p e.slot) s = .next s)
        ∧ ((∀ f ∈ P.card.takeWhile fun f => f.slot.val != i, ∃ x ∈ P.collected, x.1 = f.slot.val) →
          (∀ r, T.refuseAccess at_ 192 = some r → exec (.resultCollect p e.slot) s = .next (s.withPart p (P.stationRefused r.1)))
          ∧ (T.refuseAccess at_ 192 = none →
            (T.tagFull (at_ / 64) = false → exec (.resultCollect p e.slot) s = .next s)
            ∧ (T.tagFull (at_ / 64) = true → (∀ k, k < 3 → T.found (at_ / 64 + k) = .clean) → collects fun s' Q =>
              s'.m.tiles = (m.setTile u (T.setTag (at_ / 64) false)).tiles
              ∧ (recordOk e tune draft P.turnSeq (leNat bytes) = true → Q = { P with collected := P.collected ++ [(i, bytes)] })
              ∧ (recordOk e tune draft P.turnSeq (leNat bytes) = false → abandons Q))
            ∧ (T.tagFull (at_ / 64) = true → (∃ k, k < 3 ∧ T.found (at_ / 64 + k) = .bad) → collects fun _ Q => abandons Q))))
    ∧ (m.mayTurn p = false → exec (.turnBoundary p) s = .next s)
    ∧ (P.isSealed = true → m.mayTurn p = true → P.flagR Reg.TURN_CFG_CHAINED = false → P.quiet → P.regsOk →
      (P.card ≠ [] → (∀ f ∈ P.card, ∃ x ∈ P.collected, x.1 = f.slot.val) → P.slots = [] → P.tablesOut = [] → P.beatNow < 65535 → m.ordered →
        ∃ s', exec (.turnBoundary p) s = .next s' ∧ (∀ q, q ≠ p.val → s'.m.part q = m.part q)
          ∧ (∀ v, v ∉ m.members p.val → s'.m.tile v = m.tile v) ∧ (∀ v ∈ m.members p.val, s'.m.tile v = (m.tile v).turnGaps)
          ∧ (s'.m.part p.val).inTurn = false ∧ (s'.m.part p.val).card = []
          ∧ (s'.m.part p.val).collected = [] ∧ (s'.m.part p.val).decided = false ∧ (s'.m.part p.val).turnSeq = P.turnSeq
          ∧ (s'.m.part p.val).getR Reg.TURN_LAST_BEATS = P.beatNow + 1)
      ∧ (∀ k S r, m.members p.val ≠ [] → P.steerReady r.desc.steer = true → P.card = [] → P.inTurn = false → P.slots = [(k, S)] → S.req = some r → S.bound = false → S.paused = false → S.rebuildTo = none →
          r.promptRead = false → r.ending = none → r.desc.type = .generate → r.done = 0 → 0 < r.desc.len → m.ordered → P.turnSeq + 1 < 2 ^ 64 →
        ∃ s', exec (.idleBoundary p) s = .next s' ∧ (∀ q, q ≠ p.val → s'.m.part q = m.part q)
          ∧ (s'.m.part p.val).inTurn = true ∧ (s'.m.part p.val).card = [] ∧ (s'.m.part p.val).beatNow = 0
          ∧ (s'.m.part p.val).turnSeq = P.turnSeq + 1 ∧ ((s'.m.part p.val).slot k).bound = true
          ∧ ((s'.m.part p.val).slot k).req = some { r with bindUs := m.timeUs, wver :=
                if r.desc.wver = 0xFF ∧ P.normal = true ∧ P.isResident P.active = true then Fin.ofNat 4 P.active else r.wver }
          ∧ ∀ u ∈ m.members p.val, (m.tile u).run = .inTurn → (s'.m.tile u).run = .running ∧ (s'.m.tile u).pc = (m.tile u).pc + 4))
    ∧ (P.isSealed = false → P.getR Reg.COMMIT_STATUS_STATE ≠ 1 → exec (.idleBoundary p) s = .next
        (if m.members p.val = [] ∧ P.idleAt < m.beats then s.withPart p { P with idleAt := m.beats } else s))
    ∧ (m.members p.val = [] → m.beats ≤ P.idleAt → exec (.idleBoundary p) s = .next s)
    ∧ (∀ (c : HCtx) (n : Nat) (r : Req), (P.slot i).req = some r → r.ending = none → e.rebuild = false → r.desc.type = .generate →
        (e.decode = false → e.lastChunk = false → (P.applyRecord c e n).1.slot i = { P.slot i with
          failedOnce := false, committed := e.committed + e.chunkLen
          history := Map.writeFrom 0 (P.slot i).history e.committed ((r.prompt.drop r.done).take e.chunkLen)
          req := some { r with done := r.done + e.chunkLen } })
        ∧ (e.decode = true → ((P.applyRecord c e n).1.slot i).committed = e.committed + n / 2 ^ 24 % 2 ^ 8 + 1
          ∧ ((P.applyRecord c e n).1.slot i).sampleCtr = e.sampleCtr + n / 2 ^ 48 % 2 ^ 16))


/-! ### Loading -/

/-- R339, R340, R356, R365, R368, R373: REGISTER and LOAD of an EMPTY place begin a load that reads its manifest, or are refused with a reason; ABORT ends
the load of its place and erases what it has programmed, where an array may keep charge; RESUME takes a held load up again; a removal leaves its place EMPTY. The model's own choices in it:
log entries 20, 25. -/
def Obligations.LoadCommands : Prop :=
  ∀ (s : State) (w : Writer) (p : PartId) (v : PlaceNo) (L : Load),
    let m := s.m
    let P := m.part p.val
    let ends := fun (c : Instr) (good : State → Part → Prop) => ∃ s', exec c s = .next s' ∧ (∀ q, q ≠ p.val → s'.m.part q = m.part q)
      ∧ good s' (s'.m.part p.val)
    (m.reaches w p.val = false → ∀ c, c = Instr.register w p v ∨ c = .load w p v ∨ c = .resume w p → exec c s = .next s)
    ∧ (m.reaches w p.val = true → P.regsOk → Map.sortedFrom 0 P.places = true →
      (P.isSealed = true → (P.confidential = true → P.keys.inKey ≠ none) →
        (m.loadBusy p = false → m.sourceBad p = false →
          ((P.place v.val).state = .empty ∨ (P.place v.val).state = .registered → ends (.load w p v) fun s' Q => (∃ K, Q.loadOp = some K ∧ K.place = v ∧ K.registerOnly = false ∧ K.applied = [])
              ∧ (Q.place v.val).state = .loading ∧ Q.getR Reg.LOAD_STATUS_STATE = 1 ∧ Q.getR Reg.LOAD_STATUS_PLACE = v.val ∧ s'.m.tiles = m.tiles
              ∧ (P.fromUp = false → P.flagR Reg.LOAD_SRC_SRC_PE0 = true → ∃ a n, Out.hostRead (some p) 0 a n ∈ s'.m.out))
          ∧ ((P.place v.val).state = .empty → ends (.register w p v) fun s' Q => (∃ K, Q.loadOp = some K ∧ K.place = v ∧ K.registerOnly = true)
              ∧ (Q.place v.val).state = .empty ∧ Q.getR Reg.LOAD_STATUS_STATE = 1 ∧ s'.m.tiles = m.tiles))
        ∧ (∀ c, c = Instr.register w p v ∨ c = .load w p v →
          (P.loadOp ≠ none → ends c fun s' Q => Q.loadOp = P.loadOp ∧ Q.getR Reg.LOAD_STATUS_REASON = 1
              ∧ Q.flagR Reg.LOAD_EVT_REFUSED = true ∧ s'.m.tiles = m.tiles)
          ∧ (m.loadBusy p = false → m.sourceBad p = true → ends c fun s' Q => Q.loadOp = none ∧ Q.getR Reg.LOAD_STATUS_REASON = 2
              ∧ Q.flagR Reg.LOAD_EVT_REFUSED = true ∧ s'.m.tiles = m.tiles)))
      ∧ (P.loadOp = some L →
        (L.place ≠ v → exec (.abort w p v) s = .next s)
        ∧ (L.place = v → L.registerOnly = false → m.ordered → ends (.abort w p v) fun s' Q => Q.loadOp = none
            ∧ Q.getR Reg.LOAD_STATUS_STATE = 5 ∧ Q.getR Reg.LOAD_STATUS_REASON = 0x0F
            ∧ (Q.place v.val).state = (if (P.place v.val).manifest = none then .empty else .registered)
            ∧ ∀ x ∈ L.programmed, ∃ k, let A := (s'.m.tile x.1).arr x.2
                A.content = (if Config.eraseFails k x.1 x.2 then .failed else .empty) ∧ (A.content = .empty → A.rows = []))
        ∧ (L.place = v → L.registerOnly = true → ends (.abort w p v) fun s' Q => Q.loadOp = none ∧ Q.place v.val = {}
            ∧ Q.getR Reg.LOAD_STATUS_STATE = 5 ∧ Q.getR Reg.LOAD_STATUS_REASON = 0x0F ∧ s'.m.tiles = m.tiles)
        ∧ (L.held = false → exec (.resume w p) s = .next s)
        ∧ (∀ i, L.held = true → L.failedShard = some i → Map.sortedFrom 0 L.failures = true → ends (.resume w p) fun s' Q =>
            Q.getR Reg.LOAD_STATUS_STATE = (if i = manifestIx then 1 else 2) ∧ s'.m.tiles = m.tiles
            ∧ ∃ K, Q.loadOp = some K ∧ K.held = false ∧ K.failedShard = none ∧ Map.get 0 K.failures i = 0 ∧ K.applied = L.applied))
      ∧ (P.loadOp = none → exec (.abort w p v) s = .next s ∧ exec (.resume w p) s = .next s))
    ∧ ((P.place v.val).state ≠ .removing → exec (.removalDone p v) s = .next s)
    ∧ ((P.place v.val).state = .removing → Map.sortedFrom 0 P.places = true → ends (.removalDone p v) fun _ Q => Q.place v.val = {}
        ∧ Q.flagR Reg.LOAD_EVT_REMOVED = true)

/-- R341 to R345, R355, R356, R364, R365, R373, R395: the manifest read for a load is kept if its signature is of an installed key, else the load ends with
a reason; shards are asked for in order; one that arrives with its digest waits for its turn and is applied in it; one that
fails is read again, as is one or a manifest whose envelope does not open, and the eighth failure holds the load. The model's own choices in it:
log entry 42. -/
def Obligations.LoadShards : Prop :=
  ∀ (s : State) (p : PartId) (L : Load) (mf : Manifest) (bs : List Byte) (dg : BitVec 512) (sig : Bool) (i j : Nat) (e : ShardEnt)
    (env : Option Envelope),
    let m := s.m
    let P := m.part p.val
    let ends := fun (c : Instr) (good : State → Part → Prop) => ∃ s', exec c s = .next s' ∧ (∀ q, q ≠ p.val → s'.m.part q = m.part q)
      ∧ good s' (s'.m.part p.val)
    let fails := fun (c : Instr) (reason : Nat) => ends c fun _ Q => Q.loadOp = none ∧ Q.getR Reg.LOAD_STATUS_STATE = 5 ∧ Q.getR Reg.LOAD_STATUS_REASON = reason
    let retried := fun (c : Instr) (k : Nat) => ends c fun s' Q => s'.m.tiles = m.tiles ∧ Q.flagR Reg.LOAD_EVT_SHARD_RETRY = true
      ∧ ∃ K, Q.loadOp = some K ∧ K.applied = L.applied ∧ Map.get 0 K.failures k = Map.get 0 L.failures k + 1
        ∧ (Map.get 0 L.failures k < 7 → K.held = L.held ∧ Q.getR Reg.LOAD_STATUS_STATE = P.getR Reg.LOAD_STATUS_STATE)
        ∧ (7 ≤ Map.get 0 L.failures k → K.held = true ∧ K.failedShard = some k ∧ Q.getR Reg.LOAD_STATUS_STATE = 4 ∧ Q.getR Reg.LOAD_STATUS_REASON = 0x0D)
    let seq := fun (k : Nat) => P.keys.loads * 2 ^ 32 + k
    let opensM := (P.openEnv env 0x06 L.place.val (seq manifestIx) (P.getR Reg.MANIFEST_LEN)).2
    let opens := (P.openEnv env 0x07 L.place.val (seq i) e.len).2
    let rising := ((mf.shards.map (·.off)).zip ((mf.shards.map (·.off)).drop 1)).all fun x => decide (x.1 < x.2)
    (P.loadOp = none → exec (.manifestVerified p ⟨bs, env⟩ sig dg) s = .next s ∧ exec (.shardMissingTimeout p i) s = .next s)
    ∧ (P.loadOp = some L → P.hop = 0 → P.flagR Reg.LOAD_SRC_SRC_PE0 = true → P.flagR Reg.LOAD_SRC_SRC_PE1 = false →
      P.flagR Reg.LOAD_SRC_SRC_UP = false → P.flagR Reg.RELAY_CFG_DOWN_EN = false →
      (P.getR Reg.LOAD_STATUS_STATE = 1 → L.registerOnly = false → P.loadManifest L = none → P.getR Reg.MANIFEST_LEN = bs.length → Map.sortedFrom 0 P.places = true →
        let key := ∃ x ∈ P.keys.image, ∃ k, x.2 = some k ∧ k.id = mf.keyId
        (opensM = false → L.relayed = false → retried (.manifestVerified p ⟨bs, env⟩ sig dg) manifestIx)
        ∧ (opensM = true → parseManifest bs dg = none ∨ parseManifest bs dg = some mf ∧ P.confidential = true ∧ rising = false →
          fails (.manifestVerified p ⟨bs, env⟩ sig dg) 3)
        ∧ (opensM = true → parseManifest bs dg = some mf → (P.confidential = true → rising = true) → (sig = false ∨ ¬ key) →
          fails (.manifestVerified p ⟨bs, env⟩ sig dg) 4)
        ∧ (opensM = true → parseManifest bs dg = some mf → (P.confidential = true → rising = true) → sig = true → key →
          ends (.manifestVerified p ⟨bs, env⟩ sig dg) fun s' Q => s'.m.tiles = m.tiles
          ∧ (Q.place L.place.val).manifest = some mf ∧ Q.getR Reg.LOAD_STATUS_STATE = 2))
      ∧ (P.getR Reg.LOAD_STATUS_STATE ≠ 1 → P.awaits L mf j →
        (L.runs = [] → (P.takenIdx L mf).find? (fun k => decide (L.next ≤ k)) = some i → mf.shards[i]? = some e → (m.hostPort 0).up = true →
          m.storeUsed p.val + e.len ≤ m.storeRoom p.val → (∀ x ∈ P.residentPlaces, (x.2.header.any fun h => h.overflow) = false) →
            ends (.loaderShardFetch p) fun s' Q => s'.m.tiles = m.tiles
              ∧ (∃ K, Q.loadOp = some K ∧ K.inFlight = L.inFlight ++ [i] ∧ K.next = i + 1 ∧ K.applied = L.applied)
              ∧ ∃ a, Out.hostRead (some p) 0 a (e.len + if P.confidential then 32 else 0) ∈ s'.m.out)
        ∧ (i ∉ L.inFlight → exec (.shardArrival p i bs true env) s = .next s)
        ∧ (i ∈ L.inFlight → mf.shards[i]? = some e →
          (opens = true → i ≠ j → bs.length = e.len → L.forward = [] → ends (.shardArrival p i bs true env) fun s' Q => s'.m.tiles = m.tiles
            ∧ ∃ K, Q.loadOp = some K ∧ Map.find K.keptShards i = some bs ∧ K.inFlight = L.inFlight.erase i ∧ K.applied = L.applied)
          ∧ (∀ h k, opens = true → i = j → bs.length = e.len → L.forward = [] → e.kind = 9 → parseShard i 9 bs = some h → orderOk L.seen h = true →
            h.payload.length = 8 * (P.loadHeader L).layers * (P.loadHeader L).kvHeads →
            (P.ownIdx mf).find? (fun x => !(L.applied ++ [i]).contains x) = some k → k ≠ i → Map.find L.keptShards k = none →
              ends (.shardArrival p i bs true env) fun s' Q => s'.m.tiles = m.tiles ∧ ∃ K, Q.loadOp = some K ∧ K.applied = L.applied ++ [i])
          ∧ retried (.shardArrival p i bs false env) i
          ∧ (opens = false ∨ bs.length ≠ e.len → retried (.shardArrival p i bs true env) i)
          ∧ (P.ownShard e = true → L.heldUp = false → Map.find L.keptShards i = none → i ∉ L.applied → retried (.shardMissingTimeout p i) i))))

/-- R361 to R365: what comes over the chain from upstream reaches the load that names the port: a manifest, a HELD that stops the timers, a shard that is kept and acknowledged, one that is already there and
is acknowledged again, one without its digest that is asked for again. What comes from below reaches the load that forwards on
the port: an ACK, a NACK answered with the kept shard, a FAIL, a RESUME, a DROP. Otherwise a message has no effect. The model's own choices in it:
log entry 43. -/
def Obligations.Relay : Prop :=
  ∀ (s : State) (l : LinkId) (p : PartId) (L : Load) (mf : Manifest) (bs : List Byte) (i j hop n : Nat) (e : ShardEnt) (why : Byte),
    let m := s.m
    let P := m.part p.val
    let ends := fun (c : Instr) (good : State → Load → Prop) => ∃ s' K, exec c s = .next s' ∧ s.onlyPart s' p ∧ (s'.m.part p.val).loadOp = some K ∧ good s' K
    (m.upPart l = none → ∀ c, c = Instr.relayManifest l bs ∨ c = .relayShard l i bs true ∨ c = .relayHeld l i → exec c s = .next s)
    ∧ (m.downPart l = none → ∀ c, c = Instr.relayAck l i ∨ c = .relayNack l i why ∨ c = .relayFail l i hop n ∨ c = .relayResume l i
        ∨ c = .relayDrop l hop → exec c s = .next s)
    ∧ (m.upPart l = some p → P.loadOp = some L →
      (bs = [] → exec (.relayManifest l bs) s = .next s)
      ∧ (bs ≠ [] → exec (.relayManifest l bs) s = .next (s.withPart p { P with loadOp := some { L with relayed := true, heldUp := false } }))
      ∧ exec (.relayHeld l i) s = .next (s.withPart p { P with loadOp := some { L with heldUp := true } })
      ∧ (P.getR Reg.LOAD_STATUS_STATE ≠ 1 → L.held = false →
        ((Map.find L.keptShards i ≠ none ∨ i ∈ L.applied) → ends (.relayShard l i bs true) fun s' K => Out.relay l 3 i 0 ∈ s'.m.out
          ∧ K = { L with heldUp := false })
        ∧ (P.awaits L mf j → Map.find L.keptShards i = none → i ∉ L.applied → i ≠ j → mf.shards[i]? = some e → bs.length = e.len → L.forward = [] →
          m.storeUsed p.val + e.len ≤ m.storeRoom p.val → ends (.relayShard l i bs true) fun s' K => Out.relay l 3 i 0 ∈ s'.m.out ∧ Map.find K.keptShards i = some bs ∧ K.applied = L.applied)
        ∧ (i ≠ manifestIx → Map.find L.keptShards i = none → i ∉ L.applied → P.loadManifest L = some mf → mf.shards[i]? = some e →
          m.storeUsed p.val + e.len ≤ m.storeRoom p.val → Map.get 0 L.failures i + 1 < 8 → ends (.relayShard l i bs false) fun s' K => Out.relay l 4 i 1 ∈ s'.m.out
            ∧ Map.get 0 K.failures i = Map.get 0 L.failures i + 1 ∧ K.applied = L.applied)))
    ∧ (m.downPart l = some p → P.loadOp = some L → P.awaits L mf j →
      (ends (.relayAck l i) fun _ K => i ∈ K.acked ∧ ∀ k ∈ L.acked, k ∈ K.acked)
      ∧ (∀ f, Map.find L.keptShards i = some f → mf.shards[i]? = some e → L.forwards e = true → L.stopAt = none →
          exec (.relayNack l i why) s = .next { s with m := { m with out := m.out ++ [.relay l 2 i 0] } })
      ∧ (Map.find L.keptShards i = none → exec (.relayNack l i why) s = .next s)
      ∧ (ends (.relayFail l i hop n) fun s' K => K = { L with stopAt := some i } ∧ (s'.m.part p.val).flagR Reg.LOAD_EVT_RELAY_HELD = true)
      ∧ (∀ k f, L.keptShards = [(k, f)] → i ≤ k → k ∉ L.acked → mf.shards[k]? = some e → L.forwards e = true →
          ends (.relayResume l i) fun s' K => K = { L with stopAt := none } ∧ s'.m.out = m.out ++ [.relay l 2 k 0])
      ∧ (ends (.relayDrop l hop) fun _ K => K.stopAt = none ∧ K.forward = L.forward.filter fun h => decide (h < hop)))


/-! ### Links, security and debug -/

/-- R489 to R495, R508: a port comes up by its training states, and stays in PEER_BAD where the peer is none of the module's kind; a data frame in sequence is taken and a bad one answered
with NAK; a control frame gives credits and acknowledges, or has kept frames sent again, and the port retrain at the sixteenth time; a frame is sent while credits last and kept for replay; a suspect lane leaves
the port on its other half while it is tested; a plug-in above 25 W is held in low power. The model's own choices in it:
log entries 51, 52. -/
def Obligations.AlpiunPorts : Prop :=
  ∀ (s : State) (l : LinkId) (peer : PeerId) (x : LinkMsg) (f : Frame) (pre post : List Frame) (lane : Fin 8) (watts : Nat) (sq ak nk : BitVec 12) (cr : W32),
    let m := s.m
    let K := m.link l.val
    let st := fun (m : Mach) => m.getR (Reg.AL_STATUS_STATE l.val)
    let ends := fun (c : Instr) (good : Mach → Prop) => ∃ s', exec c s = .next s' ∧ s'.m.tiles = m.tiles ∧ s'.m.parts = m.parts ∧ good s'.m
    let naks := fun (c : Instr) => ends c fun m' => m'.out = m.out ++ [.linkControl l K.freed (some K.expected)] ∧ (m'.link l.val).expected = K.expected
    (m.boot.moduleUp = false → exec (.dataFrame l sq ak true [x]) s = .next s)
    ∧ (m.boot.moduleUp = true → m.ordered →
      (st m = 0 → m.alBarred l.val = false → ends (.portTraining l .powered) fun m' => st m' = 1)
      ∧ (st m = 0 → m.alBarred l.val = true → exec (.portTraining l .powered) s = .next s)
      ∧ (st m = 1 → ends (.portTraining l .receiverFound) fun m' => st m' = 2)
      ∧ (st m = 2 → ends (.portTraining l .equalised) fun m' => st m' = 3 ∧ (m'.link l.val).trained = true)
      ∧ (st m = 3 → ends (.portTraining l .aligned) fun m' => st m' = 4 ∧ m'.out = m.out ++ [.linkControl l K.freed none])
      ∧ (st m = 4 → peer.serial ≠ Config.serial → ends (.portTraining l (.identified peer true)) fun m' => st m' = 5
          ∧ m'.getR (Reg.AL_PEER_PEER_SERIAL l.val) = peer.serial.toNat % 2 ^ 32)
      ∧ (st m = 4 → ends (.portTraining l (.identified peer false)) fun m' => st m' = 6)
      ∧ (ends (.portTraining l .lost) fun m' => st m' = 0 ∧ (m'.link l.val).trained = false)
      ∧ (st m = 5 → K.trained = true → ends (.portTraining l .retrain) fun m' => st m' = 3)
      ∧ (st m ≠ 5 → exec (.dataFrame l sq ak true [x]) s = .next s ∧ exec (.controlFrame l cr none peer true ak) s = .next s)
      ∧ (st m = 5 → naks (.dataFrame l sq ak false [x]) ∧ naks (.controlFrame l cr none peer false ak)
        ∧ (sq.toNat ≠ K.expected → naks (.dataFrame l sq ak true [x]))
        ∧ (sq.toNat = K.expected → ends (.dataFrame l sq ak true []) fun m' => (m'.link l.val).expected = (K.expected + 1) % 4096
            ∧ (m'.link l.val).lastAck = sq.toNat ∧ m'.out = m.out)
        ∧ (∀ p d, sq.toNat = K.expected → m.chainPart = some p → x.op = 1 → K.turnOff = some d →
            ((x.turn.toNat : Int) - d) % 256 ≠ (m.part p.val).turnSeq % 256 → ((x.turn.toNat : Int) - d) % 256 ≠ ((m.part p.val).turnSeq + 1) % 256 →
            ∃ s', exec (.dataFrame l sq ak true [x]) s = .next s' ∧ (s'.m.part p.val).abandonReq = true
              ∧ (s'.m.part p.val).flagR Reg.TURN_EVT_CHAIN_FAULT = true ∧ s'.m.flight = m.flight)
        ∧ (K.replayBuf = pre ++ f :: post → (∀ g ∈ pre, g.seq ≠ ak.toNat) → f.seq = ak.toNat →
            ends (.controlFrame l cr none peer true ak) fun m' => (m'.link l.val).credits = K.credits + cr.toNat ∧ (m'.link l.val).replayBuf = post)
        ∧ (K.replayBuf = pre ++ f :: post → (∀ g ∈ pre, g.seq ≠ nk.toNat) → f.seq = nk.toNat → (∀ g ∈ K.replayBuf, g.seq ≠ ak.toNat) →
            ends (.controlFrame l cr (some nk) peer true ak) fun m' => m'.out = m.out ++ (f :: post).map (fun g => Out.linkData l g)
              ∧ (m'.link l.val).replayBuf = K.replayBuf ∧ st m' = (if K.replays < 15 then 5 else 3))
        ∧ (K.outbox = [] → m.chainPart = none → x.units.length ≤ K.credits → 16 + 64 * x.units.length ≤ 2048 → K.replayBuf.length < 128 →
            ends (.frameSend l [x]) fun m' => m'.out = m.out ++ [.linkData l ⟨K.nextSeq, [x]⟩] ∧ (m'.link l.val).outbox = []
              ∧ (m'.link l.val).credits = K.credits - x.units.length ∧ (m'.link l.val).replayBuf = K.replayBuf ++ [⟨K.nextSeq, [x]⟩])
        ∧ (K.outbox = [] → m.chainPart = none → K.credits < x.units.length → ends (.frameSend l [x]) fun m' => m'.out = m.out
            ∧ (m'.link l.val).outbox = [x]))
      ∧ ((∀ k, k < 8 → m.laneFault l.val k = false) → K.lanesTest = [] → K.lowPower = false → (m.pallet (linkPallet l.val)).dark = false →
          ends (.laneSuspect l lane) fun m' => m'.getR (Reg.AL_STATUS_HALF l.val) = 1 ∧ m'.getR (Reg.AL_STATUS_UPPER l.val) = (if lane.val < 4 then 1 else 0)
            ∧ (m'.link l.val).lanesTest = [lane.val] ∧ TestUnit.lane l.val lane.val ∈ m'.tests)
      ∧ (lane.val ∈ K.lanesTest → exec (.laneSuspect l lane) s = .next s)
      ∧ (25 < watts → ends (.osfpPlugIn l watts) fun m' => (m'.link l.val).lowPower = true ∧ st m' = 0)
      ∧ (watts ≤ 25 → ends (.osfpPlugIn l watts) fun m' => (m'.link l.val).lowPower = false ∧ st m' = st m))

/-- R2, R384 to R386, R409, R487, R514: the SPDM responder answers Busy until READY, takes its requests in their order, answers slot 0 alone, and refuses what it does
not support; an attestation without an alias key fails, and measurements then carry no signature. Sensors and the inventory answer over
PLDM. Nothing but the answer, and how far the connection has come, changes. The model's own choices in it:
log entries 14, 53, 54. -/
def Obligations.Attestation : Prop :=
  ∀ (s : State) (d : Requester) (slot : Fin 8) (nonce : BitVec 256) (ix code : Byte) (n : Nat),
    let m := s.m
    let tells := fun (c : Instr) (code : Nat) (body : List Nat) => exec c s = .next { s with m := { m with out := m.out ++ [.spdm d code body] } }
    let moves := fun (c : Instr) (n : Nat) => ∃ s' code body, exec c s = .next s' ∧ s'.m.spdmState d = n ∧ s'.m.out = m.out ++ [.spdm d code body]
      ∧ code ≠ 0x7F ∧ s'.m.parts = m.parts ∧ s'.m.tiles = m.tiles
    let all := [Instr.getVersion d, .getCapabilities d, .negotiateAlgorithms d, .getDigests d, .getCertificate d slot, .challenge d slot nonce,
      .getMeasurements d ix nonce, .spdmUnsupported d code]
    (∀ w, d = .doe w → (m.hostPort w.port.val).up = false → ∀ c ∈ all, exec c s = .next s)
    ∧ (m.ready = false → (m.boot.moduleUp = false ∨ d = .mctp) → ∀ c ∈ all, exec c s = .next s)
    ∧ (∀ w, m.ready = false → m.boot.moduleUp = true → d = .doe w → (m.hostPort w.port.val).up = true → ∀ c ∈ all, tells c 0x7F [3])
    ∧ (m.ready = true → (∀ w, d = .doe w → (m.hostPort w.port.val).up = true) →
      (m.spdmBusy d = true → ∀ c ∈ all, tells c 0x7F [3])
      ∧ (m.spdmBusy d = false →
        moves (.getVersion d) 1
        ∧ (1 ≤ m.spdmState d → moves (.getCapabilities d) (Nat.max 2 (m.spdmState d)))
        ∧ (2 ≤ m.spdmState d → moves (.negotiateAlgorithms d) 3)
        ∧ tells (.spdmUnsupported d code) 0x7F [7]
        ∧ (m.spdmState d < 3 → ∀ c, c = Instr.getDigests d ∨ c = .getCertificate d slot ∨ c = .challenge d slot nonce
            ∨ c = .getMeasurements d ix nonce → tells c 0x7F [4])
        ∧ (3 ≤ m.spdmState d →
          (slot ≠ 0 → tells (.getCertificate d slot) 0x7F [1] ∧ tells (.challenge d slot nonce) 0x7F [1])
          ∧ (m.boot.aliasKey = none → tells (.getDigests d) 0x7F [5] ∧ tells (.getCertificate d 0) 0x7F [5] ∧ tells (.challenge d 0 nonce) 0x7F [5])
          ∧ (m.attests = false → tells (.getMeasurements d 0 nonce) 0x60 [(m.blocks d).length, nonce.toNat, 0])
          ∧ (∀ k, m.boot.aliasKey = some k → m.boot.tampered = false →
            tells (.getDigests d) 0x01 [1, (Config.digest m.certChain).toNat]
            ∧ tells (.getCertificate d 0) 0x02 m.certChain
            ∧ tells (.challenge d 0 nonce) 0x03 [(Config.digest m.certChain).toNat, nonce.toNat,
                Config.sign k.2 [(Config.digest m.certChain).toNat, nonce.toNat]]
            ∧ tells (.getMeasurements d 0 nonce) 0x60 [(m.blocks d).length, nonce.toNat, Config.sign k.2 [(m.blocks d).length, nonce.toNat]]
            ∧ tells (.getMeasurements d 0xFF nonce) 0x60 (((m.blocks d).flatMap fun x => x.1 :: x.2) ++ [nonce.toNat]
                ++ [Config.sign k.2 (((m.blocks d).flatMap fun x => x.1 :: x.2) ++ [nonce.toNat])])
            ∧ (∀ b, 0 < ix.toNat → ix.toNat < 255 → m.block d ix.toNat = some b →
                tells (.getMeasurements d ix nonce) 0x60 (ix.toNat :: b ++ [nonce.toNat] ++ [Config.sign k.2 (ix.toNat :: b ++ [nonce.toNat])])))
          ∧ (0 < ix.toNat → ix.toNat < 255 → m.block d ix.toNat = none → tells (.getMeasurements d ix nonce) 0x7F [1]))))
    ∧ (m.boot.moduleUp = true → exec (.pldmMonitoring (.sensor n)) s = .next { s with m := { m with out := m.out ++ [.pldm n (m.sensor n)] } }
      ∧ exec (.pldmMonitoring .inventory) s = .next { s with m := { m with out := m.out ++ [.pldmInventory 0x6120 steppingCode Config.serial] } })
    ∧ (m.boot.moduleUp = false → ∀ r, exec (.pldmMonitoring r) s = .next s)

/-- R387 to R391, R409: a delivery with the wrong epoch or a bad tag installs nothing; the first good one installs its host keys and advances KEY_EPOCH; zeroise clears every key and
scrubs what was sealed, and an opened enclosure also destroys the identity. The model's own choices in it:
log entries 54, 55. -/
def Obligations.KeysAndZeroise : Prop :=
  ∀ (s : State) (w : Writer) (p : PartId) (x : KeyMsg),
    let m := s.m
    let P := m.part p.val
    let ep := P.getR Reg.KEY_EPOCH
    let gone := fun (s' : State) => s'.m.boot.aliasKey = none ∧ ∀ q, q < 16 → (s'.m.part q).keys.session = none ∧ (s'.m.part q).keys.inKey = none
      ∧ (s'.m.part q).keys.outKey = none ∧ (s'.m.part q).keys.inOld = none ∧ (s'.m.part q).keys.outOld = none ∧ (s'.m.part q).keys.link = none
      ∧ (s'.m.part q).keys.image = [] ∧ ((m.part q).isSealed = true → (s'.m.part q).state = 2)
    (m.boot.moduleUp = true → m.ready = true → (m.hostPort w.port.val).up = true → m.funcOn p.val w.port.val = some w.func.val → m.spdmBusy (.doe w) = false → P.state ≠ 2 →
      let refused := fun (st : Nat) => exec (.keyDelivery w p x) s = .next
        { s with m := { m.setPart p.val (P.evt Reg.PART_EVT_KEY_REFUSED) with out := m.out ++ [.spdm (.doe w) 0x7E [0x81, p.val, st, ep, 0]] } }
      (x.epoch.toNat ≠ ep → refused 1)
      ∧ (x.epoch.toNat = ep → ep < 0xFFFFFFFF → x.tagOk = false → refused 2)
      ∧ (x.epoch.toNat = ep → ep < 0xFFFFFFFF → x.tagOk = true → P.isSealed = true → x.op = 1 → x.zeros = true → x.flags = 1 → P.keys.inKey = none →
        ∃ s', exec (.keyDelivery w p x) s = .next s' ∧ s.onlyPart s' p
          ∧ (s'.m.part p.val).keys = { P.keys with inKey := some x.inKey, outKey := some x.outKey, gen := 0 }
          ∧ (s'.m.part p.val).getR Reg.KEY_EPOCH = ep + 1 ∧ (s'.m.part p.val).flagR Reg.PART_EVT_KEY_DELIVERED = true
          ∧ Out.spdm (.doe w) 0x7E [0x81, p.val, 0, ep + 1, Config.deliveryTag [0x81, p.val, 0, ep + 1]] ∈ s'.m.out))
    ∧ (m.boot.moduleUp = true → m.ready = false → (m.hostPort w.port.val).up = true →
        exec (.keyDelivery w p x) s = .next { s with m := { m with out := m.out ++ [.spdm (.doe w) 0x7F [3]] } })
    ∧ (m.boot.moduleUp = true → m.ready = true → (m.hostPort w.port.val).up = true → m.funcOn p.val w.port.val ≠ some w.func.val →
        exec (.keyDelivery w p x) s = .next { s with m := { m with out := m.out ++ [.spdm (.doe w) 0x7F [1]] } })
    ∧ (m.boot.moduleUp = true → m.ordered →
      (∃ s', exec .zeroise s = .next s' ∧ gone s' ∧ s'.m.boot.tampered = m.boot.tampered)
      ∧ ∃ s', exec .enclosureOpened s = .next s' ∧ gone s' ∧ s'.m.boot.tampered = true ∧ Out.alert 5 0 ∈ s'.m.out)

/-- R402, R530 to R532, R536, R537: an operation of DBG_CTRL is dropped at CLOSED and refused with LEVEL at PROFILE; at OPEN a halt is asked for, a step and an access need the
halt, and an access reads or writes its tile through the mailbox and touches no other tile; MOD_DIAG starts one test at a time. The model's own choices in it:
log entries 57, 58. -/
def Obligations.DebugAccess : Prop :=
  ∀ (s : State) (w : Writer) (p : PartId) (test : Byte) (u : TestUnit) (phys : ArrPhys),
    let m := s.m
    let P := m.part p.val
    let t := P.getR Reg.DBG_TILE_TILE_INDEX
    let T := m.tile t
    let adr := P.getR Reg.DBG_ADDR
    let a := adr / 512 % 64
    let res := fun (Q : Part) => Q.getR Reg.DBG_STATUS_DBG_RESULT
    let ends := fun (c : Instr) (good : Part → Prop) => ∃ s', exec c s = .next s' ∧ s.onlyPart s' p ∧ good (s'.m.part p.val)
    let acts := fun (c : Instr) (good : Tile → Part → Prop) => ∃ s', exec c s = .next s' ∧ (∀ q, q ≠ p.val → s'.m.part q = m.part q)
      ∧ (∀ k, k ≠ t → s'.m.tile k = m.tile k) ∧ good (s'.m.tile t) (s'.m.part p.val)
    let ops := [Instr.halt w p, .step w p, .dbgResume w p, .accessScratchpad w p, .accessInstructionStore w p, .accessArrayLevels w p,
      .accessCtrlRegister w p, .accessArrayProgram w p phys, .accessArrayErase w p phys]
    ((m.reaches w p.val = false ∨ m.debugLevel p.val = 0) → ∀ c ∈ ops, exec c s = .next s)
    ∧ (m.reaches w p.val = true → m.debugLevel p.val = 1 → ∀ c ∈ ops, exec c s = .next (s.withPart p (P.setR Reg.DBG_STATUS_DBG_RESULT 1)))
    ∧ (m.reaches w p.val = true → m.debugLevel p.val = 2 → P.regsOk →
      (P.haltReq = false → ends (.halt w p) fun Q => Q.haltReq = true ∧ Q.getR Reg.DBG_STATUS_DBG_STATE = 1 ∧ res Q = 0)
      ∧ (P.haltReq = true → ends (.halt w p) fun Q => Q.haltReq = true ∧ Q.dbgState = P.dbgState ∧ res Q = 0)
      ∧ (P.dbgState ≠ 2 → ends (.step w p) fun Q => Q.stepping = P.stepping ∧ res Q = 2)
      ∧ (P.dbgState = 2 → ends (.step w p) fun Q => Q.stepping = true ∧ Q.getR Reg.DBG_STATUS_DBG_STATE = 1 ∧ res Q = 0)
      ∧ (P.haltReq = true → ends (.dbgResume w p) fun Q => Q.haltReq = false ∧ Q.getR Reg.DBG_STATUS_DBG_STATE = 0 ∧ res Q = 0)
      ∧ (P.haltReq = false → ends (.dbgResume w p) fun Q => res Q = 2)
      ∧ (P.dbgState ≠ 2 → P.getR Reg.DBG_ADDR_SPACE = 0 → ends (.accessScratchpad w p) fun Q => res Q = 2)
      ∧ (P.dbgState = 2 → m.boot.inHold = false → m.replaces = [] → t < 52800 → m.owner t = some p → m.ordered →
        (P.getR Reg.DBG_ADDR_SPACE = 0 → adr % 64 = 0 → adr + 256 ≤ padSize →
          (∀ b ∈ banksOf adr 256, (T.bank b).pwr = .on ∧ (T.bank b).changing = false ∧ (T.bank b).scrub = false) →
          (P.flagR Reg.DBG_ADDR_WRITE = true → Map.wf 0 T.mem → acts (.accessScratchpad w p) fun T' Q => res Q = 0 ∧ T'.full = T.full ∧ T'.x = T.x
            ∧ (∀ k, k < 256 → Map.get 0 T'.mem (adr + k) = BitVec.ofNat 8 (P.getR (Reg.DBG_DATA (k / 4)) / 256 ^ (k % 4)))
            ∧ ∀ k, (k < adr ∨ adr + 256 ≤ k) → Map.get 0 T'.mem k = Map.get 0 T.mem k)
          ∧ (P.flagR Reg.DBG_ADDR_WRITE = false → (∀ l ∈ linesOf adr 256, T.found l = .clean) → acts (.accessScratchpad w p) fun T' Q => T' = T ∧ res Q = 0
            ∧ ∀ k, k < 64 → Q.getR (Reg.DBG_DATA k) = leNat (T.readBytes (adr + 4 * k) 4)))
        ∧ (P.getR Reg.DBG_ADDR_SPACE = 1 → adr + 64 ≤ 16384 → P.flagR Reg.DBG_ADDR_WRITE = false →
          (∀ k, k < 64 → T.storeFlips (T.storeWord (adr + k)) = []) → acts (.accessInstructionStore w p) fun T' Q => T' = T ∧ res Q = 0
            ∧ ∀ k, k < 64 → Q.getR (Reg.DBG_DATA k) = (T.readStore (T.storeWord (adr + k))).toNat)
        ∧ (P.getR Reg.DBG_ADDR_SPACE = 2 → adr < 2 ^ 15 → P.flagR Reg.DBG_ADDR_WRITE = false → (T.arr a).power ≠ .off →
          ((T.arr a).content = .valid → acts (.accessArrayLevels w p) fun T' Q => T' = T ∧ res Q = 0
            ∧ ∀ k, k < 512 → Q.getR (Reg.DBG_DATA (k / 8)) / 16 ^ (k % 8) % 16 = (T.arr a).level (adr % 512) k % 16)
          ∧ ((T.arr a).content = .failed → acts (.accessArrayLevels w p) fun T' Q => T' = T ∧ res Q = 7))
        ∧ (P.getR Reg.DBG_ADDR_SPACE = 3 → adr < 0x40 →
          (P.flagR Reg.DBG_ADDR_WRITE = false → acts (.accessCtrlRegister w p) fun T' Q => T' = T ∧ res Q = 0
            ∧ Q.getR (Reg.DBG_DATA 0) = (Map.get 0 T.grout adr).toNat)
          ∧ (P.flagR Reg.DBG_ADDR_WRITE = true → P.getR (Reg.DBG_DATA 0) % 512 ≤ 256 → acts (.accessCtrlRegister w p) fun T' Q => res Q = 0
            ∧ T' = { T with grout := Map.set 0 T.grout adr (BitVec.ofNat 32
                (P.getR (Reg.DBG_DATA 0) / 2 ^ 16 % 2 ^ 15 * 2 ^ 16 + P.getR (Reg.DBG_DATA 0) % 512)) }))
        ∧ (P.getR Reg.DBG_ADDR_SPACE = 4 → P.flagR Reg.DBG_ADDR_WRITE = false → acts (.accessArrayProgram w p phys) fun T' Q => T' = T ∧ res Q = 3)
        ∧ (P.getR Reg.DBG_ADDR_SPACE = 4 → P.flagR Reg.DBG_ADDR_WRITE = true → adr < 2 ^ 16 → P.getR Reg.DBG_SRC % 64 = 0 →
          P.getR Reg.DBG_SRC + 131072 ≤ padSize → (∀ b ∈ banksOf (P.getR Reg.DBG_SRC) 131072, (T.bank b).pwr = .on ∧ (T.bank b).changing = false ∧ (T.bank b).scrub = false) →
          (∀ l ∈ linesOf (P.getR Reg.DBG_SRC) 131072, T.found l = .clean) → (T.arr a).content = .empty → (T.arr a).power = .active → T.aq = [] →
            acts (.accessArrayProgram w p phys) fun T' Q => res Q = 0 ∧ T'.mem = T.mem ∧ (∀ k, k ≠ a → T'.arr k = T.arr k)
              ∧ (phys.stuck = [] → (T'.arr a).content = .valid))
        ∧ (P.getR Reg.DBG_ADDR_SPACE = 5 → P.flagR Reg.DBG_ADDR_WRITE = true → adr < 2 ^ 15 → (T.arr a).power ≠ .off → (T.arr a).content ≠ .loading → T.aq = [] →
          a ∉ phys.eraseFail → acts (.accessArrayErase w p phys) fun T' Q => res Q = 0 ∧ (T'.arr a).content = .empty ∧ (T'.arr a).rows = []
            ∧ T'.mem = T.mem ∧ ∀ k, k ≠ a → T'.arr k = T.arr k)))
    ∧ (m.ready = true → w.func.val = 0 → m.leaseOk w = true → 1 ≤ test.toNat → test.toNat ≤ 7 →
      let un := m.getR Reg.DIAG_UNIT_LO_UNIT + 2 ^ 32 * m.getR Reg.DIAG_UNIT_HI_UNIT
      (m.diag = none → m.diagUnit test.toNat un = some u → m.diagAllowed u = true → ∃ s', exec (.diagRun w test) s = .next s' ∧ s'.m.diag = some u ∧ u ∈ s'.m.tests
          ∧ s'.m.getR Reg.DIAG_STATUS_RESULT = 1 ∧ s'.m.tiles = m.tiles ∧ s'.m.parts = m.parts)
      ∧ (m.diag = none → m.diagUnit test.toNat un = none → ∃ s', exec (.diagRun w test) s = .next s' ∧ s'.m.diag = none ∧ s'.m.getR Reg.DIAG_STATUS_RESULT = 4
          ∧ s'.m.tests = m.tests)
      ∧ (m.diag ≠ none → ∃ s', exec (.diagRun w test) s = .next s' ∧ s'.m.diag = m.diag ∧ s'.m.tests = m.tests))


/-! ### The queue, and what every step keeps -/

/-- A step takes the command at the front of the queue and performs it with the rest; an empty queue idles (log entry 2). -/
def Obligations.QueueStep : Prop :=
  ∀ (s : State), (∀ c cs, s.pending = c :: cs → step s = exec c { s with pending := cs })
    ∧ (s.pending = [] → step s = .next s)
    ∧ core.step = step ∧ core.reset = State.reset

/-- What State.reset holds (R14, R513): an unpowered module with no command waiting, and what the invariants below ask for. -/
def Obligations.ResetState : Prop :=
  State.reset.pending = [] ∧ State.reset.m.boot.moduleUp = false ∧ State.reset.m.boot.tampered = false ∧ State.reset.m.wear.cycles = []
    ∧ State.reset.m.ordered ∧ State.reset.m.stagedOk ∧ State.reset.m.getR Reg.SVN_FLOOR = 0
    ∧ ∀ p, (State.reset.m.part p).state = 0 ∧ (State.reset.m.part p).regsOk

/-- R10, R524: only RWS fields are ever staged in the module's blocks, whatever command a step performs. -/
def Obligations.StagedFields : Prop :=
  ∀ (s s' : State), s.m.stagedOk → step s = .next s' → s'.m.stagedOk

/-- R518: once an image has run for 24 h the security version floor is raised to its SVN, and the floor, as its 32 bits read, never falls, whatever command
a step performs. -/
def Obligations.SecurityFloor : Prop :=
  (∀ (s : State) (r : FwImage), s.m.ready = true → s.m.boot.running = some r → s.m.boot.runSince + 86400000000 ≤ s.m.timeUs →
      s.m.getR Reg.SVN_FLOOR ≤ r.svn.toNat → Map.sortedFrom 0 s.m.regs = true →
      ∃ s', exec .svnFloorRaise s = .next s' ∧ s'.m.getR Reg.SVN_FLOOR = r.svn.toNat)
  ∧ ∀ (s s' : State), s.m.stagedOk → step s = .next s' → s.m.getR Reg.SVN_FLOOR % 2 ^ 32 ≤ s'.m.getR Reg.SVN_FLOOR % 2 ^ 32

/-- R409, R84: an enclosure once opened stays so for every later step, and no program cycle of an array is ever uncounted. -/
def Obligations.LastingRecords : Prop :=
  ∀ (s s' : State), step s = .next s' → (s.m.boot.tampered = true → s'.m.boot.tampered = true)
    ∧ ∀ k, Map.get 0 s.m.wear.cycles k ≤ Map.get 0 s'.m.wear.cycles k
end

