-- ==== Sys2Proof/Laws/Map.lean ====
section
/-! SUPPORT. The sparse store: what a read gives after a write, and that every operation keeps the canonical form. -/
namespace Sys2Proof

variable {α : Type}

/-! ### Reads after writes -/

@[simp] theorem Map.find_insert_same (m : Map α) (k : Nat) (v : α) : Map.find (Map.insert m k v) k = some v := by
  induction m with
  | nil => simp [Map.insert, Map.find]
  | cons e m ih =>
    obtain ⟨k', v'⟩ := e
    simp only [Map.insert]
    split
    · simp [Map.find]
    · split
      · simp [Map.find]
      · simp [Map.find, *]

theorem Map.find_insert_other {k k' : Nat} (h : k' ≠ k) (m : Map α) (v : α) :
    Map.find (Map.insert m k v) k' = Map.find m k' := by
  induction m with
  | nil => simp [Map.insert, Map.find, h]
  | cons e m ih =>
    obtain ⟨j, w⟩ := e
    simp only [Map.insert]
    split
    · simp [Map.find, h]
    · split
      · subst_vars; simp [Map.find, h]
      · simp [Map.find, ih]

theorem Map.find_erase_other {k k' : Nat} (h : k' ≠ k) (m : Map α) : Map.find (Map.erase m k) k' = Map.find m k' := by
  induction m with
  | nil => rfl
  | cons e m ih =>
    obtain ⟨j, w⟩ := e
    simp only [Map.erase]
    split
    · subst_vars; simp [Map.find, h]
    · simp [Map.find, ih]

/-- A key below the first of a store is not listed. -/
theorem Map.find_none_of_lt {m : Map α} {lo k : Nat} (hs : Map.sortedFrom lo m = true) (h : k < lo) : Map.find m k = none := by
  induction m generalizing lo with
  | nil => rfl
  | cons e m ih =>
    obtain ⟨j, w⟩ := e
    simp only [Map.sortedFrom, Bool.and_eq_true, decide_eq_true_eq] at hs
    simp only [Map.find]
    rw [if_neg (by omega)]
    exact ih hs.2 (by omega)

theorem Map.find_erase_same {m : Map α} {lo : Nat} (k : Nat) (hs : Map.sortedFrom lo m = true) :
    Map.find (Map.erase m k) k = none := by
  induction m generalizing lo with
  | nil => rfl
  | cons e m ih =>
    obtain ⟨j, w⟩ := e
    simp only [Map.sortedFrom, Bool.and_eq_true, decide_eq_true_eq] at hs
    simp only [Map.erase]
    split
    · subst_vars; exact Map.find_none_of_lt hs.2 (by omega)
    · simp only [Map.find]
      rw [if_neg (by assumption)]
      exact ih hs.2

theorem Map.sortedFrom_mono {m : Map α} {lo lo' : Nat} (h : lo' ≤ lo) (hs : Map.sortedFrom lo m = true) :
    Map.sortedFrom lo' m = true := by
  cases m with
  | nil => rfl
  | cons e m =>
    obtain ⟨j, w⟩ := e
    simp only [Map.sortedFrom, Bool.and_eq_true, decide_eq_true_eq] at hs ⊢
    exact ⟨by omega, hs.2⟩

theorem Map.sortedFrom_erase {m : Map α} {lo : Nat} (k : Nat) (hs : Map.sortedFrom lo m = true) :
    Map.sortedFrom lo (Map.erase m k) = true := by
  induction m generalizing lo with
  | nil => rfl
  | cons e m ih =>
    obtain ⟨j, w⟩ := e
    simp only [Map.sortedFrom, Bool.and_eq_true, decide_eq_true_eq] at hs
    simp only [Map.erase]
    split
    · exact Map.sortedFrom_mono (by omega) hs.2
    · simp only [Map.sortedFrom, Bool.and_eq_true, decide_eq_true_eq]
      exact ⟨hs.1, ih hs.2⟩

theorem Map.sortedFrom_insert {m : Map α} {lo k : Nat} (v : α) (hk : lo ≤ k) (hs : Map.sortedFrom lo m = true) :
    Map.sortedFrom lo (Map.insert m k v) = true := by
  induction m generalizing lo with
  | nil => simp [Map.insert, Map.sortedFrom, hk]
  | cons e m ih =>
    obtain ⟨j, w⟩ := e
    simp only [Map.sortedFrom, Bool.and_eq_true, decide_eq_true_eq] at hs
    simp only [Map.insert]
    split
    · simp only [Map.sortedFrom, Bool.and_eq_true, decide_eq_true_eq]
      exact ⟨hk, by omega, hs.2⟩
    · split
      · subst_vars
        simp only [Map.sortedFrom, Bool.and_eq_true, decide_eq_true_eq]
        exact ⟨hk, hs.2⟩
      · simp only [Map.sortedFrom, Bool.and_eq_true, decide_eq_true_eq]
        exact ⟨hs.1, ih (by omega) hs.2⟩

theorem Map.all_erase {p : Nat × α → Bool} {m : Map α} (k : Nat) (h : m.all p = true) : (Map.erase m k).all p = true := by
  induction m with
  | nil => rfl
  | cons e m ih =>
    obtain ⟨j, w⟩ := e
    simp only [List.all_cons, Bool.and_eq_true] at h
    simp only [Map.erase]
    split
    · exact h.2
    · simp only [List.all_cons, Bool.and_eq_true]; exact ⟨h.1, ih h.2⟩

theorem Map.all_insert {p : Nat × α → Bool} {m : Map α} {k : Nat} {v : α} (hv : p (k, v) = true) (h : m.all p = true) :
    (Map.insert m k v).all p = true := by
  induction m with
  | nil => simp [Map.insert, hv]
  | cons e m ih =>
    obtain ⟨j, w⟩ := e
    simp only [List.all_cons, Bool.and_eq_true] at h
    simp only [Map.insert]
    split
    · simp only [List.all_cons, Bool.and_eq_true]; exact ⟨hv, h⟩
    · split
      · simp only [List.all_cons, Bool.and_eq_true]; exact ⟨hv, h.2⟩
      · simp only [List.all_cons, Bool.and_eq_true]; exact ⟨h.1, ih h.2⟩

variable [DecidableEq α]

theorem Map.wf_sorted {d : α} {m : Map α} (h : Map.wf d m = true) : Map.sortedFrom 0 m = true := by
  simp only [Map.wf, Bool.and_eq_true] at h; exact h.1

theorem Map.find_set_other {k k' : Nat} (h : k' ≠ k) (d : α) (m : Map α) (v : α) :
    Map.find (Map.set d m k v) k' = Map.find m k' := by
  unfold Map.set
  split
  · exact Map.find_erase_other h m
  · exact Map.find_insert_other h m v

theorem Map.get_set_other {k k' : Nat} (h : k' ≠ k) (d d' : α) (m : Map α) (v : α) :
    Map.get d' (Map.set d m k v) k' = Map.get d' m k' := by simp [Map.get, Map.find_set_other h]

/-- A value that is listed is read back, whatever the store. -/
theorem Map.get_set_listed {d v : α} (hv : v ≠ d) (m : Map α) (k : Nat) : Map.get d (Map.set d m k v) k = v := by
  simp [Map.set, Map.get, hv]

/-- A read gives the value written to the same key. -/
theorem Map.get_set_same {d : α} {m : Map α} (h : Map.wf d m = true) (k : Nat) (v : α) :
    Map.get d (Map.set d m k v) k = v := by
  unfold Map.set Map.get
  split
  · rw [Map.find_erase_same k (Map.wf_sorted h)]; subst_vars; rfl
  · simp

/-! ### The canonical form -/

/-- A write keeps the canonical form. -/
theorem Map.wf_set {d : α} {m : Map α} (h : Map.wf d m = true) (k : Nat) (v : α) : Map.wf d (Map.set d m k v) = true := by
  simp only [Map.wf, Bool.and_eq_true] at h ⊢
  unfold Map.set
  split
  · exact ⟨Map.sortedFrom_erase k h.1, Map.all_erase k h.2⟩
  · exact ⟨Map.sortedFrom_insert v (Nat.zero_le k) h.1, Map.all_insert (by simpa using ‹¬v = d›) h.2⟩

theorem Map.wf_modify {d : α} {m : Map α} (h : Map.wf d m = true) (k : Nat) (f : α → α) :
    Map.wf d (Map.modify d m k f) = true := Map.wf_set h k _

theorem Map.wf_setAll {d : α} (v : α) (ks : List Nat) {m : Map α} (h : Map.wf d m = true) :
    Map.wf d (Map.setAll d v ks m) = true := by
  induction ks generalizing m with
  | nil => exact h
  | cons k ks ih => exact ih (Map.wf_set h k v)

theorem Map.wf_writeFrom {d : α} (vs : List α) {m : Map α} (k : Nat) (h : Map.wf d m = true) :
    Map.wf d (Map.writeFrom d m k vs) = true := by
  induction vs generalizing m k with
  | nil => exact h
  | cons v vs ih => exact ih (k + 1) (Map.wf_set h k v)

theorem Map.get_modify_other {k k' : Nat} (h : k' ≠ k) (d : α) (m : Map α) (f : α → α) :
    Map.get d (Map.modify d m k f) k' = Map.get d m k' := Map.get_set_other h d d m _

theorem Map.get_modify_same {d : α} {m : Map α} (h : Map.wf d m = true) (k : Nat) (f : α → α) :
    Map.get d (Map.modify d m k f) k = f (Map.get d m k) := Map.get_set_same h k _

/-- A key outside the written range reads as before. -/
theorem Map.get_writeFrom_other (d : α) (vs : List α) (m : Map α) (k k' : Nat) (h : k' < k ∨ k + vs.length ≤ k') :
    Map.get d (Map.writeFrom d m k vs) k' = Map.get d m k' := by
  induction vs generalizing m k with
  | nil => rfl
  | cons v vs ih =>
    simp only [List.length_cons] at h
    simp only [Map.writeFrom]
    rw [ih _ _ (by omega), Map.get_set_other (by omega)]

end Sys2Proof
end

