-- ==== Sys2Proof/Laws/State.lean ====
section
/-! SUPPORT. What each update of the state leaves as it was: one lemma per field, each true by rfl. -/
namespace Sys2Proof.Machine

variable (m : Mach) (P : Part) (T : Tile)

/-! ### The module -/

@[simp] theorem Mach.setTile_ctr (t : Nat) (T : Tile) : (m.setTile t T).ctr = m.ctr := rfl
@[simp] theorem Mach.setTile_nextPkt (t : Nat) (T : Tile) : (m.setTile t T).nextPkt = m.nextPkt := rfl
@[simp] theorem Mach.setTile_beats (t : Nat) (T : Tile) : (m.setTile t T).beats = m.beats := rfl
@[simp] theorem Mach.setTile_timeAdj (t : Nat) (T : Tile) : (m.setTile t T).timeAdj = m.timeAdj := rfl
@[simp] theorem Mach.setTile_syncValid (t : Nat) (T : Tile) : (m.setTile t T).syncValid = m.syncValid := rfl
@[simp] theorem Mach.setTile_syncStepped (t : Nat) (T : Tile) : (m.setTile t T).syncStepped = m.syncStepped := rfl
@[simp] theorem Mach.setTile_syncLost (t : Nat) (T : Tile) : (m.setTile t T).syncLost = m.syncLost := rfl
@[simp] theorem Mach.setTile_leaseAt (t : Nat) (T : Tile) : (m.setTile t T).leaseAt = m.leaseAt := rfl
@[simp] theorem Mach.setTile_regs (t : Nat) (T : Tile) : (m.setTile t T).regs = m.regs := rfl
@[simp] theorem Mach.setTile_staged (t : Nat) (T : Tile) : (m.setTile t T).staged = m.staged := rfl
@[simp] theorem Mach.setTile_boot (t : Nat) (T : Tile) : (m.setTile t T).boot = m.boot := rfl
@[simp] theorem Mach.setTile_wear (t : Nat) (T : Tile) : (m.setTile t T).wear = m.wear := rfl
@[simp] theorem Mach.setTile_zeroed (t : Nat) (T : Tile) : (m.setTile t T).zeroed = m.zeroed := rfl
@[simp] theorem Mach.setTile_parts (t : Nat) (T : Tile) : (m.setTile t T).parts = m.parts := rfl
@[simp] theorem Mach.setTile_pallets (t : Nat) (T : Tile) : (m.setTile t T).pallets = m.pallets := rfl
@[simp] theorem Mach.setTile_flight (t : Nat) (T : Tile) : (m.setTile t T).flight = m.flight := rfl
@[simp] theorem Mach.setTile_routersOut (t : Nat) (T : Tile) : (m.setTile t T).routersOut = m.routersOut := rfl
@[simp] theorem Mach.setTile_bridgesOut (t : Nat) (T : Tile) : (m.setTile t T).bridgesOut = m.bridgesOut := rfl
@[simp] theorem Mach.setTile_linksOut (t : Nat) (T : Tile) : (m.setTile t T).linksOut = m.linksOut := rfl
@[simp] theorem Mach.setTile_tables (t : Nat) (T : Tile) : (m.setTile t T).tables = m.tables := rfl
@[simp] theorem Mach.setTile_routesStale (t : Nat) (T : Tile) : (m.setTile t T).routesStale = m.routesStale := rfl
@[simp] theorem Mach.setTile_routeHolds (t : Nat) (T : Tile) : (m.setTile t T).routeHolds = m.routeHolds := rfl
@[simp] theorem Mach.setTile_feedHold (t : Nat) (T : Tile) : (m.setTile t T).feedHold = m.feedHold := rfl
@[simp] theorem Mach.setTile_tests (t : Nat) (T : Tile) : (m.setTile t T).tests = m.tests := rfl
@[simp] theorem Mach.setTile_diag (t : Nat) (T : Tile) : (m.setTile t T).diag = m.diag := rfl
@[simp] theorem Mach.setTile_replaces (t : Nat) (T : Tile) : (m.setTile t T).replaces = m.replaces := rfl
@[simp] theorem Mach.setTile_ports (t : Nat) (T : Tile) : (m.setTile t T).ports = m.ports := rfl
@[simp] theorem Mach.setTile_links (t : Nat) (T : Tile) : (m.setTile t T).links = m.links := rfl
@[simp] theorem Mach.setTile_feeds (t : Nat) (T : Tile) : (m.setTile t T).feeds = m.feeds := rfl
@[simp] theorem Mach.setTile_blades (t : Nat) (T : Tile) : (m.setTile t T).blades = m.blades := rfl
@[simp] theorem Mach.setTile_walls (t : Nat) (T : Tile) : (m.setTile t T).walls = m.walls := rfl
@[simp] theorem Mach.setTile_telemetry (t : Nat) (T : Tile) : (m.setTile t T).telemetry = m.telemetry := rfl
@[simp] theorem Mach.setTile_spdmMctp (t : Nat) (T : Tile) : (m.setTile t T).spdmMctp = m.spdmMctp := rfl
@[simp] theorem Mach.setTile_shareCut (t : Nat) (T : Tile) : (m.setTile t T).shareCut = m.shareCut := rfl
@[simp] theorem Mach.setTile_chainIn (t : Nat) (T : Tile) : (m.setTile t T).chainIn = m.chainIn := rfl
@[simp] theorem Mach.setTile_chainOut (t : Nat) (T : Tile) : (m.setTile t T).chainOut = m.chainOut := rfl
@[simp] theorem Mach.setTile_out (t : Nat) (T : Tile) : (m.setTile t T).out = m.out := rfl
@[simp] theorem Mach.modTile_ctr (t : Nat) (f : Tile → Tile) : (m.modTile t f).ctr = m.ctr := rfl
@[simp] theorem Mach.modTile_nextPkt (t : Nat) (f : Tile → Tile) : (m.modTile t f).nextPkt = m.nextPkt := rfl
@[simp] theorem Mach.modTile_beats (t : Nat) (f : Tile → Tile) : (m.modTile t f).beats = m.beats := rfl
@[simp] theorem Mach.modTile_timeAdj (t : Nat) (f : Tile → Tile) : (m.modTile t f).timeAdj = m.timeAdj := rfl
@[simp] theorem Mach.modTile_syncValid (t : Nat) (f : Tile → Tile) : (m.modTile t f).syncValid = m.syncValid := rfl
@[simp] theorem Mach.modTile_syncStepped (t : Nat) (f : Tile → Tile) : (m.modTile t f).syncStepped = m.syncStepped := rfl
@[simp] theorem Mach.modTile_syncLost (t : Nat) (f : Tile → Tile) : (m.modTile t f).syncLost = m.syncLost := rfl
@[simp] theorem Mach.modTile_leaseAt (t : Nat) (f : Tile → Tile) : (m.modTile t f).leaseAt = m.leaseAt := rfl
@[simp] theorem Mach.modTile_regs (t : Nat) (f : Tile → Tile) : (m.modTile t f).regs = m.regs := rfl
@[simp] theorem Mach.modTile_staged (t : Nat) (f : Tile → Tile) : (m.modTile t f).staged = m.staged := rfl
@[simp] theorem Mach.modTile_boot (t : Nat) (f : Tile → Tile) : (m.modTile t f).boot = m.boot := rfl
@[simp] theorem Mach.modTile_wear (t : Nat) (f : Tile → Tile) : (m.modTile t f).wear = m.wear := rfl
@[simp] theorem Mach.modTile_zeroed (t : Nat) (f : Tile → Tile) : (m.modTile t f).zeroed = m.zeroed := rfl
@[simp] theorem Mach.modTile_parts (t : Nat) (f : Tile → Tile) : (m.modTile t f).parts = m.parts := rfl
@[simp] theorem Mach.modTile_pallets (t : Nat) (f : Tile → Tile) : (m.modTile t f).pallets = m.pallets := rfl
@[simp] theorem Mach.modTile_flight (t : Nat) (f : Tile → Tile) : (m.modTile t f).flight = m.flight := rfl
@[simp] theorem Mach.modTile_routersOut (t : Nat) (f : Tile → Tile) : (m.modTile t f).routersOut = m.routersOut := rfl
@[simp] theorem Mach.modTile_bridgesOut (t : Nat) (f : Tile → Tile) : (m.modTile t f).bridgesOut = m.bridgesOut := rfl
@[simp] theorem Mach.modTile_linksOut (t : Nat) (f : Tile → Tile) : (m.modTile t f).linksOut = m.linksOut := rfl
@[simp] theorem Mach.modTile_tables (t : Nat) (f : Tile → Tile) : (m.modTile t f).tables = m.tables := rfl
@[simp] theorem Mach.modTile_routesStale (t : Nat) (f : Tile → Tile) : (m.modTile t f).routesStale = m.routesStale := rfl
@[simp] theorem Mach.modTile_routeHolds (t : Nat) (f : Tile → Tile) : (m.modTile t f).routeHolds = m.routeHolds := rfl
@[simp] theorem Mach.modTile_feedHold (t : Nat) (f : Tile → Tile) : (m.modTile t f).feedHold = m.feedHold := rfl
@[simp] theorem Mach.modTile_tests (t : Nat) (f : Tile → Tile) : (m.modTile t f).tests = m.tests := rfl
@[simp] theorem Mach.modTile_diag (t : Nat) (f : Tile → Tile) : (m.modTile t f).diag = m.diag := rfl
@[simp] theorem Mach.modTile_replaces (t : Nat) (f : Tile → Tile) : (m.modTile t f).replaces = m.replaces := rfl
@[simp] theorem Mach.modTile_ports (t : Nat) (f : Tile → Tile) : (m.modTile t f).ports = m.ports := rfl
@[simp] theorem Mach.modTile_links (t : Nat) (f : Tile → Tile) : (m.modTile t f).links = m.links := rfl
@[simp] theorem Mach.modTile_feeds (t : Nat) (f : Tile → Tile) : (m.modTile t f).feeds = m.feeds := rfl
@[simp] theorem Mach.modTile_blades (t : Nat) (f : Tile → Tile) : (m.modTile t f).blades = m.blades := rfl
@[simp] theorem Mach.modTile_walls (t : Nat) (f : Tile → Tile) : (m.modTile t f).walls = m.walls := rfl
@[simp] theorem Mach.modTile_telemetry (t : Nat) (f : Tile → Tile) : (m.modTile t f).telemetry = m.telemetry := rfl
@[simp] theorem Mach.modTile_spdmMctp (t : Nat) (f : Tile → Tile) : (m.modTile t f).spdmMctp = m.spdmMctp := rfl
@[simp] theorem Mach.modTile_shareCut (t : Nat) (f : Tile → Tile) : (m.modTile t f).shareCut = m.shareCut := rfl
@[simp] theorem Mach.modTile_chainIn (t : Nat) (f : Tile → Tile) : (m.modTile t f).chainIn = m.chainIn := rfl
@[simp] theorem Mach.modTile_chainOut (t : Nat) (f : Tile → Tile) : (m.modTile t f).chainOut = m.chainOut := rfl
@[simp] theorem Mach.modTile_out (t : Nat) (f : Tile → Tile) : (m.modTile t f).out = m.out := rfl
@[simp] theorem Mach.setPart_ctr (p : Nat) (P : Part) : (m.setPart p P).ctr = m.ctr := rfl
@[simp] theorem Mach.setPart_nextPkt (p : Nat) (P : Part) : (m.setPart p P).nextPkt = m.nextPkt := rfl
@[simp] theorem Mach.setPart_beats (p : Nat) (P : Part) : (m.setPart p P).beats = m.beats := rfl
@[simp] theorem Mach.setPart_timeAdj (p : Nat) (P : Part) : (m.setPart p P).timeAdj = m.timeAdj := rfl
@[simp] theorem Mach.setPart_syncValid (p : Nat) (P : Part) : (m.setPart p P).syncValid = m.syncValid := rfl
@[simp] theorem Mach.setPart_syncStepped (p : Nat) (P : Part) : (m.setPart p P).syncStepped = m.syncStepped := rfl
@[simp] theorem Mach.setPart_syncLost (p : Nat) (P : Part) : (m.setPart p P).syncLost = m.syncLost := rfl
@[simp] theorem Mach.setPart_leaseAt (p : Nat) (P : Part) : (m.setPart p P).leaseAt = m.leaseAt := rfl
@[simp] theorem Mach.setPart_regs (p : Nat) (P : Part) : (m.setPart p P).regs = m.regs := rfl
@[simp] theorem Mach.setPart_staged (p : Nat) (P : Part) : (m.setPart p P).staged = m.staged := rfl
@[simp] theorem Mach.setPart_boot (p : Nat) (P : Part) : (m.setPart p P).boot = m.boot := rfl
@[simp] theorem Mach.setPart_wear (p : Nat) (P : Part) : (m.setPart p P).wear = m.wear := rfl
@[simp] theorem Mach.setPart_zeroed (p : Nat) (P : Part) : (m.setPart p P).zeroed = m.zeroed := rfl
@[simp] theorem Mach.setPart_tiles (p : Nat) (P : Part) : (m.setPart p P).tiles = m.tiles := rfl
@[simp] theorem Mach.setPart_pallets (p : Nat) (P : Part) : (m.setPart p P).pallets = m.pallets := rfl
@[simp] theorem Mach.setPart_flight (p : Nat) (P : Part) : (m.setPart p P).flight = m.flight := rfl
@[simp] theorem Mach.setPart_routersOut (p : Nat) (P : Part) : (m.setPart p P).routersOut = m.routersOut := rfl
@[simp] theorem Mach.setPart_bridgesOut (p : Nat) (P : Part) : (m.setPart p P).bridgesOut = m.bridgesOut := rfl
@[simp] theorem Mach.setPart_linksOut (p : Nat) (P : Part) : (m.setPart p P).linksOut = m.linksOut := rfl
@[simp] theorem Mach.setPart_tables (p : Nat) (P : Part) : (m.setPart p P).tables = m.tables := rfl
@[simp] theorem Mach.setPart_routesStale (p : Nat) (P : Part) : (m.setPart p P).routesStale = m.routesStale := rfl
@[simp] theorem Mach.setPart_routeHolds (p : Nat) (P : Part) : (m.setPart p P).routeHolds = m.routeHolds := rfl
@[simp] theorem Mach.setPart_feedHold (p : Nat) (P : Part) : (m.setPart p P).feedHold = m.feedHold := rfl
@[simp] theorem Mach.setPart_tests (p : Nat) (P : Part) : (m.setPart p P).tests = m.tests := rfl
@[simp] theorem Mach.setPart_diag (p : Nat) (P : Part) : (m.setPart p P).diag = m.diag := rfl
@[simp] theorem Mach.setPart_replaces (p : Nat) (P : Part) : (m.setPart p P).replaces = m.replaces := rfl
@[simp] theorem Mach.setPart_ports (p : Nat) (P : Part) : (m.setPart p P).ports = m.ports := rfl
@[simp] theorem Mach.setPart_links (p : Nat) (P : Part) : (m.setPart p P).links = m.links := rfl
@[simp] theorem Mach.setPart_feeds (p : Nat) (P : Part) : (m.setPart p P).feeds = m.feeds := rfl
@[simp] theorem Mach.setPart_blades (p : Nat) (P : Part) : (m.setPart p P).blades = m.blades := rfl
@[simp] theorem Mach.setPart_walls (p : Nat) (P : Part) : (m.setPart p P).walls = m.walls := rfl
@[simp] theorem Mach.setPart_telemetry (p : Nat) (P : Part) : (m.setPart p P).telemetry = m.telemetry := rfl
@[simp] theorem Mach.setPart_spdmMctp (p : Nat) (P : Part) : (m.setPart p P).spdmMctp = m.spdmMctp := rfl
@[simp] theorem Mach.setPart_shareCut (p : Nat) (P : Part) : (m.setPart p P).shareCut = m.shareCut := rfl
@[simp] theorem Mach.setPart_chainIn (p : Nat) (P : Part) : (m.setPart p P).chainIn = m.chainIn := rfl
@[simp] theorem Mach.setPart_chainOut (p : Nat) (P : Part) : (m.setPart p P).chainOut = m.chainOut := rfl
@[simp] theorem Mach.setPart_out (p : Nat) (P : Part) : (m.setPart p P).out = m.out := rfl
@[simp] theorem Mach.modPart_ctr (p : Nat) (f : Part → Part) : (m.modPart p f).ctr = m.ctr := rfl
@[simp] theorem Mach.modPart_nextPkt (p : Nat) (f : Part → Part) : (m.modPart p f).nextPkt = m.nextPkt := rfl
@[simp] theorem Mach.modPart_beats (p : Nat) (f : Part → Part) : (m.modPart p f).beats = m.beats := rfl
@[simp] theorem Mach.modPart_timeAdj (p : Nat) (f : Part → Part) : (m.modPart p f).timeAdj = m.timeAdj := rfl
@[simp] theorem Mach.modPart_syncValid (p : Nat) (f : Part → Part) : (m.modPart p f).syncValid = m.syncValid := rfl
@[simp] theorem Mach.modPart_syncStepped (p : Nat) (f : Part → Part) : (m.modPart p f).syncStepped = m.syncStepped := rfl
@[simp] theorem Mach.modPart_syncLost (p : Nat) (f : Part → Part) : (m.modPart p f).syncLost = m.syncLost := rfl
@[simp] theorem Mach.modPart_leaseAt (p : Nat) (f : Part → Part) : (m.modPart p f).leaseAt = m.leaseAt := rfl
@[simp] theorem Mach.modPart_regs (p : Nat) (f : Part → Part) : (m.modPart p f).regs = m.regs := rfl
@[simp] theorem Mach.modPart_staged (p : Nat) (f : Part → Part) : (m.modPart p f).staged = m.staged := rfl
@[simp] theorem Mach.modPart_boot (p : Nat) (f : Part → Part) : (m.modPart p f).boot = m.boot := rfl
@[simp] theorem Mach.modPart_wear (p : Nat) (f : Part → Part) : (m.modPart p f).wear = m.wear := rfl
@[simp] theorem Mach.modPart_zeroed (p : Nat) (f : Part → Part) : (m.modPart p f).zeroed = m.zeroed := rfl
@[simp] theorem Mach.modPart_tiles (p : Nat) (f : Part → Part) : (m.modPart p f).tiles = m.tiles := rfl
@[simp] theorem Mach.modPart_pallets (p : Nat) (f : Part → Part) : (m.modPart p f).pallets = m.pallets := rfl
@[simp] theorem Mach.modPart_flight (p : Nat) (f : Part → Part) : (m.modPart p f).flight = m.flight := rfl
@[simp] theorem Mach.modPart_routersOut (p : Nat) (f : Part → Part) : (m.modPart p f).routersOut = m.routersOut := rfl
@[simp] theorem Mach.modPart_bridgesOut (p : Nat) (f : Part → Part) : (m.modPart p f).bridgesOut = m.bridgesOut := rfl
@[simp] theorem Mach.modPart_linksOut (p : Nat) (f : Part → Part) : (m.modPart p f).linksOut = m.linksOut := rfl
@[simp] theorem Mach.modPart_tables (p : Nat) (f : Part → Part) : (m.modPart p f).tables = m.tables := rfl
@[simp] theorem Mach.modPart_routesStale (p : Nat) (f : Part → Part) : (m.modPart p f).routesStale = m.routesStale := rfl
@[simp] theorem Mach.modPart_routeHolds (p : Nat) (f : Part → Part) : (m.modPart p f).routeHolds = m.routeHolds := rfl
@[simp] theorem Mach.modPart_feedHold (p : Nat) (f : Part → Part) : (m.modPart p f).feedHold = m.feedHold := rfl
@[simp] theorem Mach.modPart_tests (p : Nat) (f : Part → Part) : (m.modPart p f).tests = m.tests := rfl
@[simp] theorem Mach.modPart_diag (p : Nat) (f : Part → Part) : (m.modPart p f).diag = m.diag := rfl
@[simp] theorem Mach.modPart_replaces (p : Nat) (f : Part → Part) : (m.modPart p f).replaces = m.replaces := rfl
@[simp] theorem Mach.modPart_ports (p : Nat) (f : Part → Part) : (m.modPart p f).ports = m.ports := rfl
@[simp] theorem Mach.modPart_links (p : Nat) (f : Part → Part) : (m.modPart p f).links = m.links := rfl
@[simp] theorem Mach.modPart_feeds (p : Nat) (f : Part → Part) : (m.modPart p f).feeds = m.feeds := rfl
@[simp] theorem Mach.modPart_blades (p : Nat) (f : Part → Part) : (m.modPart p f).blades = m.blades := rfl
@[simp] theorem Mach.modPart_walls (p : Nat) (f : Part → Part) : (m.modPart p f).walls = m.walls := rfl
@[simp] theorem Mach.modPart_telemetry (p : Nat) (f : Part → Part) : (m.modPart p f).telemetry = m.telemetry := rfl
@[simp] theorem Mach.modPart_spdmMctp (p : Nat) (f : Part → Part) : (m.modPart p f).spdmMctp = m.spdmMctp := rfl
@[simp] theorem Mach.modPart_shareCut (p : Nat) (f : Part → Part) : (m.modPart p f).shareCut = m.shareCut := rfl
@[simp] theorem Mach.modPart_chainIn (p : Nat) (f : Part → Part) : (m.modPart p f).chainIn = m.chainIn := rfl
@[simp] theorem Mach.modPart_chainOut (p : Nat) (f : Part → Part) : (m.modPart p f).chainOut = m.chainOut := rfl
@[simp] theorem Mach.modPart_out (p : Nat) (f : Part → Part) : (m.modPart p f).out = m.out := rfl
@[simp] theorem Mach.modPallet_ctr (i : Nat) (f : Pallet → Pallet) : (m.modPallet i f).ctr = m.ctr := rfl
@[simp] theorem Mach.modPallet_nextPkt (i : Nat) (f : Pallet → Pallet) : (m.modPallet i f).nextPkt = m.nextPkt := rfl
@[simp] theorem Mach.modPallet_beats (i : Nat) (f : Pallet → Pallet) : (m.modPallet i f).beats = m.beats := rfl
@[simp] theorem Mach.modPallet_timeAdj (i : Nat) (f : Pallet → Pallet) : (m.modPallet i f).timeAdj = m.timeAdj := rfl
@[simp] theorem Mach.modPallet_syncValid (i : Nat) (f : Pallet → Pallet) : (m.modPallet i f).syncValid = m.syncValid := rfl
@[simp] theorem Mach.modPallet_syncStepped (i : Nat) (f : Pallet → Pallet) : (m.modPallet i f).syncStepped = m.syncStepped := rfl
@[simp] theorem Mach.modPallet_syncLost (i : Nat) (f : Pallet → Pallet) : (m.modPallet i f).syncLost = m.syncLost := rfl
@[simp] theorem Mach.modPallet_leaseAt (i : Nat) (f : Pallet → Pallet) : (m.modPallet i f).leaseAt = m.leaseAt := rfl
@[simp] theorem Mach.modPallet_regs (i : Nat) (f : Pallet → Pallet) : (m.modPallet i f).regs = m.regs := rfl
@[simp] theorem Mach.modPallet_staged (i : Nat) (f : Pallet → Pallet) : (m.modPallet i f).staged = m.staged := rfl
@[simp] theorem Mach.modPallet_boot (i : Nat) (f : Pallet → Pallet) : (m.modPallet i f).boot = m.boot := rfl
@[simp] theorem Mach.modPallet_wear (i : Nat) (f : Pallet → Pallet) : (m.modPallet i f).wear = m.wear := rfl
@[simp] theorem Mach.modPallet_zeroed (i : Nat) (f : Pallet → Pallet) : (m.modPallet i f).zeroed = m.zeroed := rfl
@[simp] theorem Mach.modPallet_tiles (i : Nat) (f : Pallet → Pallet) : (m.modPallet i f).tiles = m.tiles := rfl
@[simp] theorem Mach.modPallet_parts (i : Nat) (f : Pallet → Pallet) : (m.modPallet i f).parts = m.parts := rfl
@[simp] theorem Mach.modPallet_flight (i : Nat) (f : Pallet → Pallet) : (m.modPallet i f).flight = m.flight := rfl
@[simp] theorem Mach.modPallet_routersOut (i : Nat) (f : Pallet → Pallet) : (m.modPallet i f).routersOut = m.routersOut := rfl
@[simp] theorem Mach.modPallet_bridgesOut (i : Nat) (f : Pallet → Pallet) : (m.modPallet i f).bridgesOut = m.bridgesOut := rfl
@[simp] theorem Mach.modPallet_linksOut (i : Nat) (f : Pallet → Pallet) : (m.modPallet i f).linksOut = m.linksOut := rfl
@[simp] theorem Mach.modPallet_tables (i : Nat) (f : Pallet → Pallet) : (m.modPallet i f).tables = m.tables := rfl
@[simp] theorem Mach.modPallet_routesStale (i : Nat) (f : Pallet → Pallet) : (m.modPallet i f).routesStale = m.routesStale := rfl
@[simp] theorem Mach.modPallet_routeHolds (i : Nat) (f : Pallet → Pallet) : (m.modPallet i f).routeHolds = m.routeHolds := rfl
@[simp] theorem Mach.modPallet_feedHold (i : Nat) (f : Pallet → Pallet) : (m.modPallet i f).feedHold = m.feedHold := rfl
@[simp] theorem Mach.modPallet_tests (i : Nat) (f : Pallet → Pallet) : (m.modPallet i f).tests = m.tests := rfl
@[simp] theorem Mach.modPallet_diag (i : Nat) (f : Pallet → Pallet) : (m.modPallet i f).diag = m.diag := rfl
@[simp] theorem Mach.modPallet_replaces (i : Nat) (f : Pallet → Pallet) : (m.modPallet i f).replaces = m.replaces := rfl
@[simp] theorem Mach.modPallet_ports (i : Nat) (f : Pallet → Pallet) : (m.modPallet i f).ports = m.ports := rfl
@[simp] theorem Mach.modPallet_links (i : Nat) (f : Pallet → Pallet) : (m.modPallet i f).links = m.links := rfl
@[simp] theorem Mach.modPallet_feeds (i : Nat) (f : Pallet → Pallet) : (m.modPallet i f).feeds = m.feeds := rfl
@[simp] theorem Mach.modPallet_blades (i : Nat) (f : Pallet → Pallet) : (m.modPallet i f).blades = m.blades := rfl
@[simp] theorem Mach.modPallet_walls (i : Nat) (f : Pallet → Pallet) : (m.modPallet i f).walls = m.walls := rfl
@[simp] theorem Mach.modPallet_telemetry (i : Nat) (f : Pallet → Pallet) : (m.modPallet i f).telemetry = m.telemetry := rfl
@[simp] theorem Mach.modPallet_spdmMctp (i : Nat) (f : Pallet → Pallet) : (m.modPallet i f).spdmMctp = m.spdmMctp := rfl
@[simp] theorem Mach.modPallet_shareCut (i : Nat) (f : Pallet → Pallet) : (m.modPallet i f).shareCut = m.shareCut := rfl
@[simp] theorem Mach.modPallet_chainIn (i : Nat) (f : Pallet → Pallet) : (m.modPallet i f).chainIn = m.chainIn := rfl
@[simp] theorem Mach.modPallet_chainOut (i : Nat) (f : Pallet → Pallet) : (m.modPallet i f).chainOut = m.chainOut := rfl
@[simp] theorem Mach.modPallet_out (i : Nat) (f : Pallet → Pallet) : (m.modPallet i f).out = m.out := rfl
@[simp] theorem Mach.modHostPort_ctr (i : Nat) (f : HostPort → HostPort) : (m.modHostPort i f).ctr = m.ctr := rfl
@[simp] theorem Mach.modHostPort_nextPkt (i : Nat) (f : HostPort → HostPort) : (m.modHostPort i f).nextPkt = m.nextPkt := rfl
@[simp] theorem Mach.modHostPort_beats (i : Nat) (f : HostPort → HostPort) : (m.modHostPort i f).beats = m.beats := rfl
@[simp] theorem Mach.modHostPort_timeAdj (i : Nat) (f : HostPort → HostPort) : (m.modHostPort i f).timeAdj = m.timeAdj := rfl
@[simp] theorem Mach.modHostPort_syncValid (i : Nat) (f : HostPort → HostPort) : (m.modHostPort i f).syncValid = m.syncValid := rfl
@[simp] theorem Mach.modHostPort_syncStepped (i : Nat) (f : HostPort → HostPort) : (m.modHostPort i f).syncStepped = m.syncStepped := rfl
@[simp] theorem Mach.modHostPort_syncLost (i : Nat) (f : HostPort → HostPort) : (m.modHostPort i f).syncLost = m.syncLost := rfl
@[simp] theorem Mach.modHostPort_leaseAt (i : Nat) (f : HostPort → HostPort) : (m.modHostPort i f).leaseAt = m.leaseAt := rfl
@[simp] theorem Mach.modHostPort_regs (i : Nat) (f : HostPort → HostPort) : (m.modHostPort i f).regs = m.regs := rfl
@[simp] theorem Mach.modHostPort_staged (i : Nat) (f : HostPort → HostPort) : (m.modHostPort i f).staged = m.staged := rfl
@[simp] theorem Mach.modHostPort_boot (i : Nat) (f : HostPort → HostPort) : (m.modHostPort i f).boot = m.boot := rfl
@[simp] theorem Mach.modHostPort_wear (i : Nat) (f : HostPort → HostPort) : (m.modHostPort i f).wear = m.wear := rfl
@[simp] theorem Mach.modHostPort_zeroed (i : Nat) (f : HostPort → HostPort) : (m.modHostPort i f).zeroed = m.zeroed := rfl
@[simp] theorem Mach.modHostPort_tiles (i : Nat) (f : HostPort → HostPort) : (m.modHostPort i f).tiles = m.tiles := rfl
@[simp] theorem Mach.modHostPort_parts (i : Nat) (f : HostPort → HostPort) : (m.modHostPort i f).parts = m.parts := rfl
@[simp] theorem Mach.modHostPort_pallets (i : Nat) (f : HostPort → HostPort) : (m.modHostPort i f).pallets = m.pallets := rfl
@[simp] theorem Mach.modHostPort_flight (i : Nat) (f : HostPort → HostPort) : (m.modHostPort i f).flight = m.flight := rfl
@[simp] theorem Mach.modHostPort_routersOut (i : Nat) (f : HostPort → HostPort) : (m.modHostPort i f).routersOut = m.routersOut := rfl
@[simp] theorem Mach.modHostPort_bridgesOut (i : Nat) (f : HostPort → HostPort) : (m.modHostPort i f).bridgesOut = m.bridgesOut := rfl
@[simp] theorem Mach.modHostPort_linksOut (i : Nat) (f : HostPort → HostPort) : (m.modHostPort i f).linksOut = m.linksOut := rfl
@[simp] theorem Mach.modHostPort_tables (i : Nat) (f : HostPort → HostPort) : (m.modHostPort i f).tables = m.tables := rfl
@[simp] theorem Mach.modHostPort_routesStale (i : Nat) (f : HostPort → HostPort) : (m.modHostPort i f).routesStale = m.routesStale := rfl
@[simp] theorem Mach.modHostPort_routeHolds (i : Nat) (f : HostPort → HostPort) : (m.modHostPort i f).routeHolds = m.routeHolds := rfl
@[simp] theorem Mach.modHostPort_feedHold (i : Nat) (f : HostPort → HostPort) : (m.modHostPort i f).feedHold = m.feedHold := rfl
@[simp] theorem Mach.modHostPort_tests (i : Nat) (f : HostPort → HostPort) : (m.modHostPort i f).tests = m.tests := rfl
@[simp] theorem Mach.modHostPort_diag (i : Nat) (f : HostPort → HostPort) : (m.modHostPort i f).diag = m.diag := rfl
@[simp] theorem Mach.modHostPort_replaces (i : Nat) (f : HostPort → HostPort) : (m.modHostPort i f).replaces = m.replaces := rfl
@[simp] theorem Mach.modHostPort_links (i : Nat) (f : HostPort → HostPort) : (m.modHostPort i f).links = m.links := rfl
@[simp] theorem Mach.modHostPort_feeds (i : Nat) (f : HostPort → HostPort) : (m.modHostPort i f).feeds = m.feeds := rfl
@[simp] theorem Mach.modHostPort_blades (i : Nat) (f : HostPort → HostPort) : (m.modHostPort i f).blades = m.blades := rfl
@[simp] theorem Mach.modHostPort_walls (i : Nat) (f : HostPort → HostPort) : (m.modHostPort i f).walls = m.walls := rfl
@[simp] theorem Mach.modHostPort_telemetry (i : Nat) (f : HostPort → HostPort) : (m.modHostPort i f).telemetry = m.telemetry := rfl
@[simp] theorem Mach.modHostPort_spdmMctp (i : Nat) (f : HostPort → HostPort) : (m.modHostPort i f).spdmMctp = m.spdmMctp := rfl
@[simp] theorem Mach.modHostPort_shareCut (i : Nat) (f : HostPort → HostPort) : (m.modHostPort i f).shareCut = m.shareCut := rfl
@[simp] theorem Mach.modHostPort_chainIn (i : Nat) (f : HostPort → HostPort) : (m.modHostPort i f).chainIn = m.chainIn := rfl
@[simp] theorem Mach.modHostPort_chainOut (i : Nat) (f : HostPort → HostPort) : (m.modHostPort i f).chainOut = m.chainOut := rfl
@[simp] theorem Mach.modHostPort_out (i : Nat) (f : HostPort → HostPort) : (m.modHostPort i f).out = m.out := rfl
@[simp] theorem Mach.modLink_ctr (i : Nat) (f : Link → Link) : (m.modLink i f).ctr = m.ctr := rfl
@[simp] theorem Mach.modLink_nextPkt (i : Nat) (f : Link → Link) : (m.modLink i f).nextPkt = m.nextPkt := rfl
@[simp] theorem Mach.modLink_beats (i : Nat) (f : Link → Link) : (m.modLink i f).beats = m.beats := rfl
@[simp] theorem Mach.modLink_timeAdj (i : Nat) (f : Link → Link) : (m.modLink i f).timeAdj = m.timeAdj := rfl
@[simp] theorem Mach.modLink_syncValid (i : Nat) (f : Link → Link) : (m.modLink i f).syncValid = m.syncValid := rfl
@[simp] theorem Mach.modLink_syncStepped (i : Nat) (f : Link → Link) : (m.modLink i f).syncStepped = m.syncStepped := rfl
@[simp] theorem Mach.modLink_syncLost (i : Nat) (f : Link → Link) : (m.modLink i f).syncLost = m.syncLost := rfl
@[simp] theorem Mach.modLink_leaseAt (i : Nat) (f : Link → Link) : (m.modLink i f).leaseAt = m.leaseAt := rfl
@[simp] theorem Mach.modLink_regs (i : Nat) (f : Link → Link) : (m.modLink i f).regs = m.regs := rfl
@[simp] theorem Mach.modLink_staged (i : Nat) (f : Link → Link) : (m.modLink i f).staged = m.staged := rfl
@[simp] theorem Mach.modLink_boot (i : Nat) (f : Link → Link) : (m.modLink i f).boot = m.boot := rfl
@[simp] theorem Mach.modLink_wear (i : Nat) (f : Link → Link) : (m.modLink i f).wear = m.wear := rfl
@[simp] theorem Mach.modLink_zeroed (i : Nat) (f : Link → Link) : (m.modLink i f).zeroed = m.zeroed := rfl
@[simp] theorem Mach.modLink_tiles (i : Nat) (f : Link → Link) : (m.modLink i f).tiles = m.tiles := rfl
@[simp] theorem Mach.modLink_parts (i : Nat) (f : Link → Link) : (m.modLink i f).parts = m.parts := rfl
@[simp] theorem Mach.modLink_pallets (i : Nat) (f : Link → Link) : (m.modLink i f).pallets = m.pallets := rfl
@[simp] theorem Mach.modLink_flight (i : Nat) (f : Link → Link) : (m.modLink i f).flight = m.flight := rfl
@[simp] theorem Mach.modLink_routersOut (i : Nat) (f : Link → Link) : (m.modLink i f).routersOut = m.routersOut := rfl
@[simp] theorem Mach.modLink_bridgesOut (i : Nat) (f : Link → Link) : (m.modLink i f).bridgesOut = m.bridgesOut := rfl
@[simp] theorem Mach.modLink_linksOut (i : Nat) (f : Link → Link) : (m.modLink i f).linksOut = m.linksOut := rfl
@[simp] theorem Mach.modLink_tables (i : Nat) (f : Link → Link) : (m.modLink i f).tables = m.tables := rfl
@[simp] theorem Mach.modLink_routesStale (i : Nat) (f : Link → Link) : (m.modLink i f).routesStale = m.routesStale := rfl
@[simp] theorem Mach.modLink_routeHolds (i : Nat) (f : Link → Link) : (m.modLink i f).routeHolds = m.routeHolds := rfl
@[simp] theorem Mach.modLink_feedHold (i : Nat) (f : Link → Link) : (m.modLink i f).feedHold = m.feedHold := rfl
@[simp] theorem Mach.modLink_tests (i : Nat) (f : Link → Link) : (m.modLink i f).tests = m.tests := rfl
@[simp] theorem Mach.modLink_diag (i : Nat) (f : Link → Link) : (m.modLink i f).diag = m.diag := rfl
@[simp] theorem Mach.modLink_replaces (i : Nat) (f : Link → Link) : (m.modLink i f).replaces = m.replaces := rfl
@[simp] theorem Mach.modLink_ports (i : Nat) (f : Link → Link) : (m.modLink i f).ports = m.ports := rfl
@[simp] theorem Mach.modLink_feeds (i : Nat) (f : Link → Link) : (m.modLink i f).feeds = m.feeds := rfl
@[simp] theorem Mach.modLink_blades (i : Nat) (f : Link → Link) : (m.modLink i f).blades = m.blades := rfl
@[simp] theorem Mach.modLink_walls (i : Nat) (f : Link → Link) : (m.modLink i f).walls = m.walls := rfl
@[simp] theorem Mach.modLink_telemetry (i : Nat) (f : Link → Link) : (m.modLink i f).telemetry = m.telemetry := rfl
@[simp] theorem Mach.modLink_spdmMctp (i : Nat) (f : Link → Link) : (m.modLink i f).spdmMctp = m.spdmMctp := rfl
@[simp] theorem Mach.modLink_shareCut (i : Nat) (f : Link → Link) : (m.modLink i f).shareCut = m.shareCut := rfl
@[simp] theorem Mach.modLink_chainIn (i : Nat) (f : Link → Link) : (m.modLink i f).chainIn = m.chainIn := rfl
@[simp] theorem Mach.modLink_chainOut (i : Nat) (f : Link → Link) : (m.modLink i f).chainOut = m.chainOut := rfl
@[simp] theorem Mach.modLink_out (i : Nat) (f : Link → Link) : (m.modLink i f).out = m.out := rfl
@[simp] theorem Mach.setR_ctr (f : Fld) (v : Nat) : (m.setR f v).ctr = m.ctr := rfl
@[simp] theorem Mach.setR_nextPkt (f : Fld) (v : Nat) : (m.setR f v).nextPkt = m.nextPkt := rfl
@[simp] theorem Mach.setR_beats (f : Fld) (v : Nat) : (m.setR f v).beats = m.beats := rfl
@[simp] theorem Mach.setR_timeAdj (f : Fld) (v : Nat) : (m.setR f v).timeAdj = m.timeAdj := rfl
@[simp] theorem Mach.setR_syncValid (f : Fld) (v : Nat) : (m.setR f v).syncValid = m.syncValid := rfl
@[simp] theorem Mach.setR_syncStepped (f : Fld) (v : Nat) : (m.setR f v).syncStepped = m.syncStepped := rfl
@[simp] theorem Mach.setR_syncLost (f : Fld) (v : Nat) : (m.setR f v).syncLost = m.syncLost := rfl
@[simp] theorem Mach.setR_leaseAt (f : Fld) (v : Nat) : (m.setR f v).leaseAt = m.leaseAt := rfl
@[simp] theorem Mach.setR_staged (f : Fld) (v : Nat) : (m.setR f v).staged = m.staged := rfl
@[simp] theorem Mach.setR_boot (f : Fld) (v : Nat) : (m.setR f v).boot = m.boot := rfl
@[simp] theorem Mach.setR_wear (f : Fld) (v : Nat) : (m.setR f v).wear = m.wear := rfl
@[simp] theorem Mach.setR_zeroed (f : Fld) (v : Nat) : (m.setR f v).zeroed = m.zeroed := rfl
@[simp] theorem Mach.setR_tiles (f : Fld) (v : Nat) : (m.setR f v).tiles = m.tiles := rfl
@[simp] theorem Mach.setR_parts (f : Fld) (v : Nat) : (m.setR f v).parts = m.parts := rfl
@[simp] theorem Mach.setR_pallets (f : Fld) (v : Nat) : (m.setR f v).pallets = m.pallets := rfl
@[simp] theorem Mach.setR_flight (f : Fld) (v : Nat) : (m.setR f v).flight = m.flight := rfl
@[simp] theorem Mach.setR_routersOut (f : Fld) (v : Nat) : (m.setR f v).routersOut = m.routersOut := rfl
@[simp] theorem Mach.setR_bridgesOut (f : Fld) (v : Nat) : (m.setR f v).bridgesOut = m.bridgesOut := rfl
@[simp] theorem Mach.setR_linksOut (f : Fld) (v : Nat) : (m.setR f v).linksOut = m.linksOut := rfl
@[simp] theorem Mach.setR_tables (f : Fld) (v : Nat) : (m.setR f v).tables = m.tables := rfl
@[simp] theorem Mach.setR_routesStale (f : Fld) (v : Nat) : (m.setR f v).routesStale = m.routesStale := rfl
@[simp] theorem Mach.setR_routeHolds (f : Fld) (v : Nat) : (m.setR f v).routeHolds = m.routeHolds := rfl
@[simp] theorem Mach.setR_feedHold (f : Fld) (v : Nat) : (m.setR f v).feedHold = m.feedHold := rfl
@[simp] theorem Mach.setR_tests (f : Fld) (v : Nat) : (m.setR f v).tests = m.tests := rfl
@[simp] theorem Mach.setR_diag (f : Fld) (v : Nat) : (m.setR f v).diag = m.diag := rfl
@[simp] theorem Mach.setR_replaces (f : Fld) (v : Nat) : (m.setR f v).replaces = m.replaces := rfl
@[simp] theorem Mach.setR_ports (f : Fld) (v : Nat) : (m.setR f v).ports = m.ports := rfl
@[simp] theorem Mach.setR_links (f : Fld) (v : Nat) : (m.setR f v).links = m.links := rfl
@[simp] theorem Mach.setR_feeds (f : Fld) (v : Nat) : (m.setR f v).feeds = m.feeds := rfl
@[simp] theorem Mach.setR_blades (f : Fld) (v : Nat) : (m.setR f v).blades = m.blades := rfl
@[simp] theorem Mach.setR_walls (f : Fld) (v : Nat) : (m.setR f v).walls = m.walls := rfl
@[simp] theorem Mach.setR_telemetry (f : Fld) (v : Nat) : (m.setR f v).telemetry = m.telemetry := rfl
@[simp] theorem Mach.setR_spdmMctp (f : Fld) (v : Nat) : (m.setR f v).spdmMctp = m.spdmMctp := rfl
@[simp] theorem Mach.setR_shareCut (f : Fld) (v : Nat) : (m.setR f v).shareCut = m.shareCut := rfl
@[simp] theorem Mach.setR_chainIn (f : Fld) (v : Nat) : (m.setR f v).chainIn = m.chainIn := rfl
@[simp] theorem Mach.setR_chainOut (f : Fld) (v : Nat) : (m.setR f v).chainOut = m.chainOut := rfl
@[simp] theorem Mach.setR_out (f : Fld) (v : Nat) : (m.setR f v).out = m.out := rfl
@[simp] theorem Mach.evt_ctr (f : Fld) : (m.evt f).ctr = m.ctr := rfl
@[simp] theorem Mach.evt_nextPkt (f : Fld) : (m.evt f).nextPkt = m.nextPkt := rfl
@[simp] theorem Mach.evt_beats (f : Fld) : (m.evt f).beats = m.beats := rfl
@[simp] theorem Mach.evt_timeAdj (f : Fld) : (m.evt f).timeAdj = m.timeAdj := rfl
@[simp] theorem Mach.evt_syncValid (f : Fld) : (m.evt f).syncValid = m.syncValid := rfl
@[simp] theorem Mach.evt_syncStepped (f : Fld) : (m.evt f).syncStepped = m.syncStepped := rfl
@[simp] theorem Mach.evt_syncLost (f : Fld) : (m.evt f).syncLost = m.syncLost := rfl
@[simp] theorem Mach.evt_leaseAt (f : Fld) : (m.evt f).leaseAt = m.leaseAt := rfl
@[simp] theorem Mach.evt_staged (f : Fld) : (m.evt f).staged = m.staged := rfl
@[simp] theorem Mach.evt_boot (f : Fld) : (m.evt f).boot = m.boot := rfl
@[simp] theorem Mach.evt_wear (f : Fld) : (m.evt f).wear = m.wear := rfl
@[simp] theorem Mach.evt_zeroed (f : Fld) : (m.evt f).zeroed = m.zeroed := rfl
@[simp] theorem Mach.evt_tiles (f : Fld) : (m.evt f).tiles = m.tiles := rfl
@[simp] theorem Mach.evt_parts (f : Fld) : (m.evt f).parts = m.parts := rfl
@[simp] theorem Mach.evt_pallets (f : Fld) : (m.evt f).pallets = m.pallets := rfl
@[simp] theorem Mach.evt_flight (f : Fld) : (m.evt f).flight = m.flight := rfl
@[simp] theorem Mach.evt_routersOut (f : Fld) : (m.evt f).routersOut = m.routersOut := rfl
@[simp] theorem Mach.evt_bridgesOut (f : Fld) : (m.evt f).bridgesOut = m.bridgesOut := rfl
@[simp] theorem Mach.evt_linksOut (f : Fld) : (m.evt f).linksOut = m.linksOut := rfl
@[simp] theorem Mach.evt_tables (f : Fld) : (m.evt f).tables = m.tables := rfl
@[simp] theorem Mach.evt_routesStale (f : Fld) : (m.evt f).routesStale = m.routesStale := rfl
@[simp] theorem Mach.evt_routeHolds (f : Fld) : (m.evt f).routeHolds = m.routeHolds := rfl
@[simp] theorem Mach.evt_feedHold (f : Fld) : (m.evt f).feedHold = m.feedHold := rfl
@[simp] theorem Mach.evt_tests (f : Fld) : (m.evt f).tests = m.tests := rfl
@[simp] theorem Mach.evt_diag (f : Fld) : (m.evt f).diag = m.diag := rfl
@[simp] theorem Mach.evt_replaces (f : Fld) : (m.evt f).replaces = m.replaces := rfl
@[simp] theorem Mach.evt_ports (f : Fld) : (m.evt f).ports = m.ports := rfl
@[simp] theorem Mach.evt_links (f : Fld) : (m.evt f).links = m.links := rfl
@[simp] theorem Mach.evt_feeds (f : Fld) : (m.evt f).feeds = m.feeds := rfl
@[simp] theorem Mach.evt_blades (f : Fld) : (m.evt f).blades = m.blades := rfl
@[simp] theorem Mach.evt_walls (f : Fld) : (m.evt f).walls = m.walls := rfl
@[simp] theorem Mach.evt_telemetry (f : Fld) : (m.evt f).telemetry = m.telemetry := rfl
@[simp] theorem Mach.evt_spdmMctp (f : Fld) : (m.evt f).spdmMctp = m.spdmMctp := rfl
@[simp] theorem Mach.evt_shareCut (f : Fld) : (m.evt f).shareCut = m.shareCut := rfl
@[simp] theorem Mach.evt_chainIn (f : Fld) : (m.evt f).chainIn = m.chainIn := rfl
@[simp] theorem Mach.evt_chainOut (f : Fld) : (m.evt f).chainOut = m.chainOut := rfl
@[simp] theorem Mach.evt_out (f : Fld) : (m.evt f).out = m.out := rfl
@[simp] theorem Mach.cnt_ctr (f : Fld) (n : Nat) : (m.cnt f n).ctr = m.ctr := rfl
@[simp] theorem Mach.cnt_nextPkt (f : Fld) (n : Nat) : (m.cnt f n).nextPkt = m.nextPkt := rfl
@[simp] theorem Mach.cnt_beats (f : Fld) (n : Nat) : (m.cnt f n).beats = m.beats := rfl
@[simp] theorem Mach.cnt_timeAdj (f : Fld) (n : Nat) : (m.cnt f n).timeAdj = m.timeAdj := rfl
@[simp] theorem Mach.cnt_syncValid (f : Fld) (n : Nat) : (m.cnt f n).syncValid = m.syncValid := rfl
@[simp] theorem Mach.cnt_syncStepped (f : Fld) (n : Nat) : (m.cnt f n).syncStepped = m.syncStepped := rfl
@[simp] theorem Mach.cnt_syncLost (f : Fld) (n : Nat) : (m.cnt f n).syncLost = m.syncLost := rfl
@[simp] theorem Mach.cnt_leaseAt (f : Fld) (n : Nat) : (m.cnt f n).leaseAt = m.leaseAt := rfl
@[simp] theorem Mach.cnt_staged (f : Fld) (n : Nat) : (m.cnt f n).staged = m.staged := rfl
@[simp] theorem Mach.cnt_boot (f : Fld) (n : Nat) : (m.cnt f n).boot = m.boot := rfl
@[simp] theorem Mach.cnt_wear (f : Fld) (n : Nat) : (m.cnt f n).wear = m.wear := rfl
@[simp] theorem Mach.cnt_zeroed (f : Fld) (n : Nat) : (m.cnt f n).zeroed = m.zeroed := rfl
@[simp] theorem Mach.cnt_tiles (f : Fld) (n : Nat) : (m.cnt f n).tiles = m.tiles := rfl
@[simp] theorem Mach.cnt_parts (f : Fld) (n : Nat) : (m.cnt f n).parts = m.parts := rfl
@[simp] theorem Mach.cnt_pallets (f : Fld) (n : Nat) : (m.cnt f n).pallets = m.pallets := rfl
@[simp] theorem Mach.cnt_flight (f : Fld) (n : Nat) : (m.cnt f n).flight = m.flight := rfl
@[simp] theorem Mach.cnt_routersOut (f : Fld) (n : Nat) : (m.cnt f n).routersOut = m.routersOut := rfl
@[simp] theorem Mach.cnt_bridgesOut (f : Fld) (n : Nat) : (m.cnt f n).bridgesOut = m.bridgesOut := rfl
@[simp] theorem Mach.cnt_linksOut (f : Fld) (n : Nat) : (m.cnt f n).linksOut = m.linksOut := rfl
@[simp] theorem Mach.cnt_tables (f : Fld) (n : Nat) : (m.cnt f n).tables = m.tables := rfl
@[simp] theorem Mach.cnt_routesStale (f : Fld) (n : Nat) : (m.cnt f n).routesStale = m.routesStale := rfl
@[simp] theorem Mach.cnt_routeHolds (f : Fld) (n : Nat) : (m.cnt f n).routeHolds = m.routeHolds := rfl
@[simp] theorem Mach.cnt_feedHold (f : Fld) (n : Nat) : (m.cnt f n).feedHold = m.feedHold := rfl
@[simp] theorem Mach.cnt_tests (f : Fld) (n : Nat) : (m.cnt f n).tests = m.tests := rfl
@[simp] theorem Mach.cnt_diag (f : Fld) (n : Nat) : (m.cnt f n).diag = m.diag := rfl
@[simp] theorem Mach.cnt_replaces (f : Fld) (n : Nat) : (m.cnt f n).replaces = m.replaces := rfl
@[simp] theorem Mach.cnt_ports (f : Fld) (n : Nat) : (m.cnt f n).ports = m.ports := rfl
@[simp] theorem Mach.cnt_links (f : Fld) (n : Nat) : (m.cnt f n).links = m.links := rfl
@[simp] theorem Mach.cnt_feeds (f : Fld) (n : Nat) : (m.cnt f n).feeds = m.feeds := rfl
@[simp] theorem Mach.cnt_blades (f : Fld) (n : Nat) : (m.cnt f n).blades = m.blades := rfl
@[simp] theorem Mach.cnt_walls (f : Fld) (n : Nat) : (m.cnt f n).walls = m.walls := rfl
@[simp] theorem Mach.cnt_telemetry (f : Fld) (n : Nat) : (m.cnt f n).telemetry = m.telemetry := rfl
@[simp] theorem Mach.cnt_spdmMctp (f : Fld) (n : Nat) : (m.cnt f n).spdmMctp = m.spdmMctp := rfl
@[simp] theorem Mach.cnt_shareCut (f : Fld) (n : Nat) : (m.cnt f n).shareCut = m.shareCut := rfl
@[simp] theorem Mach.cnt_chainIn (f : Fld) (n : Nat) : (m.cnt f n).chainIn = m.chainIn := rfl
@[simp] theorem Mach.cnt_chainOut (f : Fld) (n : Nat) : (m.cnt f n).chainOut = m.chainOut := rfl
@[simp] theorem Mach.cnt_out (f : Fld) (n : Nat) : (m.cnt f n).out = m.out := rfl

/-! ### Partitions -/

@[simp] theorem Part.setR_staged (f : Fld) (v : Nat) : (P.setR f v).staged = P.staged := rfl
@[simp] theorem Part.setR_sealPending (f : Fld) (v : Nat) : (P.setR f v).sealPending = P.sealPending := rfl
@[simp] theorem Part.setR_teardownPending (f : Fld) (v : Nat) : (P.setR f v).teardownPending = P.teardownPending := rfl
@[simp] theorem Part.setR_sealCount (f : Fld) (v : Nat) : (P.setR f v).sealCount = P.sealCount := rfl
@[simp] theorem Part.setR_dmaSlots (f : Fld) (v : Nat) : (P.setR f v).dmaSlots = P.dmaSlots := rfl
@[simp] theorem Part.setR_keys (f : Fld) (v : Nat) : (P.setR f v).keys = P.keys := rfl
@[simp] theorem Part.setR_beatNow (f : Fld) (v : Nat) : (P.setR f v).beatNow = P.beatNow := rfl
@[simp] theorem Part.setR_inTurn (f : Fld) (v : Nat) : (P.setR f v).inTurn = P.inTurn := rfl
@[simp] theorem Part.setR_turnHeld (f : Fld) (v : Nat) : (P.setR f v).turnHeld = P.turnHeld := rfl
@[simp] theorem Part.setR_turnUnits (f : Fld) (v : Nat) : (P.setR f v).turnUnits = P.turnUnits := rfl
@[simp] theorem Part.setR_turnHist (f : Fld) (v : Nat) : (P.setR f v).turnHist = P.turnHist := rfl
@[simp] theorem Part.setR_prefillHist (f : Fld) (v : Nat) : (P.setR f v).prefillHist = P.prefillHist := rfl
@[simp] theorem Part.setR_decided (f : Fld) (v : Nat) : (P.setR f v).decided = P.decided := rfl
@[simp] theorem Part.setR_heldSrc (f : Fld) (v : Nat) : (P.setR f v).heldSrc = P.heldSrc := rfl
@[simp] theorem Part.setR_heldBy (f : Fld) (v : Nat) : (P.setR f v).heldBy = P.heldBy := rfl
@[simp] theorem Part.setR_lateTile (f : Fld) (v : Nat) : (P.setR f v).lateTile = P.lateTile := rfl
@[simp] theorem Part.setR_nextHeld (f : Fld) (v : Nat) : (P.setR f v).nextHeld = P.nextHeld := rfl
@[simp] theorem Part.setR_boundaryNext (f : Fld) (v : Nat) : (P.setR f v).boundaryNext = P.boundaryNext := rfl
@[simp] theorem Part.setR_holding (f : Fld) (v : Nat) : (P.setR f v).holding = P.holding := rfl
@[simp] theorem Part.setR_holdUs (f : Fld) (v : Nat) : (P.setR f v).holdUs = P.holdUs := rfl
@[simp] theorem Part.setR_service (f : Fld) (v : Nat) : (P.setR f v).service = P.service := rfl
@[simp] theorem Part.setR_forced (f : Fld) (v : Nat) : (P.setR f v).forced = P.forced := rfl
@[simp] theorem Part.setR_chainLatched (f : Fld) (v : Nat) : (P.setR f v).chainLatched = P.chainLatched := rfl
@[simp] theorem Part.setR_chainM0 (f : Fld) (v : Nat) : (P.setR f v).chainM0 = P.chainM0 := rfl
@[simp] theorem Part.setR_chainFound (f : Fld) (v : Nat) : (P.setR f v).chainFound = P.chainFound := rfl
@[simp] theorem Part.setR_chainRelease (f : Fld) (v : Nat) : (P.setR f v).chainRelease = P.chainRelease := rfl
@[simp] theorem Part.setR_abandonReq (f : Fld) (v : Nat) : (P.setR f v).abandonReq = P.abandonReq := rfl
@[simp] theorem Part.setR_abandonUnit (f : Fld) (v : Nat) : (P.setR f v).abandonUnit = P.abandonUnit := rfl
@[simp] theorem Part.setR_affectAll (f : Fld) (v : Nat) : (P.setR f v).affectAll = P.affectAll := rfl
@[simp] theorem Part.setR_abandoning (f : Fld) (v : Nat) : (P.setR f v).abandoning = P.abandoning := rfl
@[simp] theorem Part.setR_replay (f : Fld) (v : Nat) : (P.setR f v).replay = P.replay := rfl
@[simp] theorem Part.setR_wdFirst (f : Fld) (v : Nat) : (P.setR f v).wdFirst = P.wdFirst := rfl
@[simp] theorem Part.setR_reloadUs (f : Fld) (v : Nat) : (P.setR f v).reloadUs = P.reloadUs := rfl
@[simp] theorem Part.setR_card (f : Fld) (v : Nat) : (P.setR f v).card = P.card := rfl
@[simp] theorem Part.setR_collected (f : Fld) (v : Nat) : (P.setR f v).collected = P.collected := rfl
@[simp] theorem Part.setR_cardOut (f : Fld) (v : Nat) : (P.setR f v).cardOut = P.cardOut := rfl
@[simp] theorem Part.setR_turnDrafts (f : Fld) (v : Nat) : (P.setR f v).turnDrafts = P.turnDrafts := rfl
@[simp] theorem Part.setR_tablesOut (f : Fld) (v : Nat) : (P.setR f v).tablesOut = P.tablesOut := rfl
@[simp] theorem Part.setR_idleAt (f : Fld) (v : Nat) : (P.setR f v).idleAt = P.idleAt := rfl
@[simp] theorem Part.setR_slots (f : Fld) (v : Nat) : (P.setR f v).slots = P.slots := rfl
@[simp] theorem Part.setR_holdQueue (f : Fld) (v : Nat) : (P.setR f v).holdQueue = P.holdQueue := rfl
@[simp] theorem Part.setR_cancels (f : Fld) (v : Nat) : (P.setR f v).cancels = P.cancels := rfl
@[simp] theorem Part.setR_steerOps (f : Fld) (v : Nat) : (P.setR f v).steerOps = P.steerOps := rfl
@[simp] theorem Part.setR_waitingDone (f : Fld) (v : Nat) : (P.setR f v).waitingDone = P.waitingDone := rfl
@[simp] theorem Part.setR_boundaryDone (f : Fld) (v : Nat) : (P.setR f v).boundaryDone = P.boundaryDone := rfl
@[simp] theorem Part.setR_steers (f : Fld) (v : Nat) : (P.setR f v).steers = P.steers := rfl
@[simp] theorem Part.setR_fetchNext (f : Fld) (v : Nat) : (P.setR f v).fetchNext = P.fetchNext := rfl
@[simp] theorem Part.setR_fetchIdx (f : Fld) (v : Nat) : (P.setR f v).fetchIdx = P.fetchIdx := rfl
@[simp] theorem Part.setR_tail (f : Fld) (v : Nat) : (P.setR f v).tail = P.tail := rfl
@[simp] theorem Part.setR_bells (f : Fld) (v : Nat) : (P.setR f v).bells = P.bells := rfl
@[simp] theorem Part.setR_fetching (f : Fld) (v : Nat) : (P.setR f v).fetching = P.fetching := rfl
@[simp] theorem Part.setR_handed (f : Fld) (v : Nat) : (P.setR f v).handed = P.handed := rfl
@[simp] theorem Part.setR_endedNow (f : Fld) (v : Nat) : (P.setR f v).endedNow = P.endedNow := rfl
@[simp] theorem Part.setR_reads (f : Fld) (v : Nat) : (P.setR f v).reads = P.reads := rfl
@[simp] theorem Part.setR_owed (f : Fld) (v : Nat) : (P.setR f v).owed = P.owed := rfl
@[simp] theorem Part.setR_fetchStopped (f : Fld) (v : Nat) : (P.setR f v).fetchStopped = P.fetchStopped := rfl
@[simp] theorem Part.setR_hostLost (f : Fld) (v : Nat) : (P.setR f v).hostLost = P.hostLost := rfl
@[simp] theorem Part.setR_rings (f : Fld) (v : Nat) : (P.setR f v).rings = P.rings := rfl
@[simp] theorem Part.setR_msixPending (f : Fld) (v : Nat) : (P.setR f v).msixPending = P.msixPending := rfl
@[simp] theorem Part.setR_places (f : Fld) (v : Nat) : (P.setR f v).places = P.places := rfl
@[simp] theorem Part.setR_loadOp (f : Fld) (v : Nat) : (P.setR f v).loadOp = P.loadOp := rfl
@[simp] theorem Part.setR_powerReq (f : Fld) (v : Nat) : (P.setR f v).powerReq = P.powerReq := rfl
@[simp] theorem Part.setR_drawHist (f : Fld) (v : Nat) : (P.setR f v).drawHist = P.drawHist := rfl
@[simp] theorem Part.setR_overAt1 (f : Fld) (v : Nat) : (P.setR f v).overAt1 = P.overAt1 := rfl
@[simp] theorem Part.setR_belowMs (f : Fld) (v : Nat) : (P.setR f v).belowMs = P.belowMs := rfl
@[simp] theorem Part.setR_loan (f : Fld) (v : Nat) : (P.setR f v).loan = P.loan := rfl
@[simp] theorem Part.setR_lent (f : Fld) (v : Nat) : (P.setR f v).lent = P.lent := rfl
@[simp] theorem Part.setR_haltReq (f : Fld) (v : Nat) : (P.setR f v).haltReq = P.haltReq := rfl
@[simp] theorem Part.setR_stepping (f : Fld) (v : Nat) : (P.setR f v).stepping = P.stepping := rfl
@[simp] theorem Part.setR_haltBeats (f : Fld) (v : Nat) : (P.setR f v).haltBeats = P.haltBeats := rfl
@[simp] theorem Part.setR_faultEnds (f : Fld) (v : Nat) : (P.setR f v).faultEnds = P.faultEnds := rfl
@[simp] theorem Part.setR_trace (f : Fld) (v : Nat) : (P.setR f v).trace = P.trace := rfl
@[simp] theorem Part.evt_staged (f : Fld) : (P.evt f).staged = P.staged := rfl
@[simp] theorem Part.evt_sealPending (f : Fld) : (P.evt f).sealPending = P.sealPending := rfl
@[simp] theorem Part.evt_teardownPending (f : Fld) : (P.evt f).teardownPending = P.teardownPending := rfl
@[simp] theorem Part.evt_sealCount (f : Fld) : (P.evt f).sealCount = P.sealCount := rfl
@[simp] theorem Part.evt_dmaSlots (f : Fld) : (P.evt f).dmaSlots = P.dmaSlots := rfl
@[simp] theorem Part.evt_keys (f : Fld) : (P.evt f).keys = P.keys := rfl
@[simp] theorem Part.evt_beatNow (f : Fld) : (P.evt f).beatNow = P.beatNow := rfl
@[simp] theorem Part.evt_inTurn (f : Fld) : (P.evt f).inTurn = P.inTurn := rfl
@[simp] theorem Part.evt_turnHeld (f : Fld) : (P.evt f).turnHeld = P.turnHeld := rfl
@[simp] theorem Part.evt_turnUnits (f : Fld) : (P.evt f).turnUnits = P.turnUnits := rfl
@[simp] theorem Part.evt_turnHist (f : Fld) : (P.evt f).turnHist = P.turnHist := rfl
@[simp] theorem Part.evt_prefillHist (f : Fld) : (P.evt f).prefillHist = P.prefillHist := rfl
@[simp] theorem Part.evt_decided (f : Fld) : (P.evt f).decided = P.decided := rfl
@[simp] theorem Part.evt_heldSrc (f : Fld) : (P.evt f).heldSrc = P.heldSrc := rfl
@[simp] theorem Part.evt_heldBy (f : Fld) : (P.evt f).heldBy = P.heldBy := rfl
@[simp] theorem Part.evt_lateTile (f : Fld) : (P.evt f).lateTile = P.lateTile := rfl
@[simp] theorem Part.evt_nextHeld (f : Fld) : (P.evt f).nextHeld = P.nextHeld := rfl
@[simp] theorem Part.evt_boundaryNext (f : Fld) : (P.evt f).boundaryNext = P.boundaryNext := rfl
@[simp] theorem Part.evt_holding (f : Fld) : (P.evt f).holding = P.holding := rfl
@[simp] theorem Part.evt_holdUs (f : Fld) : (P.evt f).holdUs = P.holdUs := rfl
@[simp] theorem Part.evt_service (f : Fld) : (P.evt f).service = P.service := rfl
@[simp] theorem Part.evt_forced (f : Fld) : (P.evt f).forced = P.forced := rfl
@[simp] theorem Part.evt_chainLatched (f : Fld) : (P.evt f).chainLatched = P.chainLatched := rfl
@[simp] theorem Part.evt_chainM0 (f : Fld) : (P.evt f).chainM0 = P.chainM0 := rfl
@[simp] theorem Part.evt_chainFound (f : Fld) : (P.evt f).chainFound = P.chainFound := rfl
@[simp] theorem Part.evt_chainRelease (f : Fld) : (P.evt f).chainRelease = P.chainRelease := rfl
@[simp] theorem Part.evt_abandonReq (f : Fld) : (P.evt f).abandonReq = P.abandonReq := rfl
@[simp] theorem Part.evt_abandonUnit (f : Fld) : (P.evt f).abandonUnit = P.abandonUnit := rfl
@[simp] theorem Part.evt_affectAll (f : Fld) : (P.evt f).affectAll = P.affectAll := rfl
@[simp] theorem Part.evt_abandoning (f : Fld) : (P.evt f).abandoning = P.abandoning := rfl
@[simp] theorem Part.evt_replay (f : Fld) : (P.evt f).replay = P.replay := rfl
@[simp] theorem Part.evt_wdFirst (f : Fld) : (P.evt f).wdFirst = P.wdFirst := rfl
@[simp] theorem Part.evt_reloadUs (f : Fld) : (P.evt f).reloadUs = P.reloadUs := rfl
@[simp] theorem Part.evt_card (f : Fld) : (P.evt f).card = P.card := rfl
@[simp] theorem Part.evt_collected (f : Fld) : (P.evt f).collected = P.collected := rfl
@[simp] theorem Part.evt_cardOut (f : Fld) : (P.evt f).cardOut = P.cardOut := rfl
@[simp] theorem Part.evt_turnDrafts (f : Fld) : (P.evt f).turnDrafts = P.turnDrafts := rfl
@[simp] theorem Part.evt_tablesOut (f : Fld) : (P.evt f).tablesOut = P.tablesOut := rfl
@[simp] theorem Part.evt_idleAt (f : Fld) : (P.evt f).idleAt = P.idleAt := rfl
@[simp] theorem Part.evt_slots (f : Fld) : (P.evt f).slots = P.slots := rfl
@[simp] theorem Part.evt_holdQueue (f : Fld) : (P.evt f).holdQueue = P.holdQueue := rfl
@[simp] theorem Part.evt_cancels (f : Fld) : (P.evt f).cancels = P.cancels := rfl
@[simp] theorem Part.evt_steerOps (f : Fld) : (P.evt f).steerOps = P.steerOps := rfl
@[simp] theorem Part.evt_waitingDone (f : Fld) : (P.evt f).waitingDone = P.waitingDone := rfl
@[simp] theorem Part.evt_boundaryDone (f : Fld) : (P.evt f).boundaryDone = P.boundaryDone := rfl
@[simp] theorem Part.evt_steers (f : Fld) : (P.evt f).steers = P.steers := rfl
@[simp] theorem Part.evt_fetchNext (f : Fld) : (P.evt f).fetchNext = P.fetchNext := rfl
@[simp] theorem Part.evt_fetchIdx (f : Fld) : (P.evt f).fetchIdx = P.fetchIdx := rfl
@[simp] theorem Part.evt_tail (f : Fld) : (P.evt f).tail = P.tail := rfl
@[simp] theorem Part.evt_bells (f : Fld) : (P.evt f).bells = P.bells := rfl
@[simp] theorem Part.evt_fetching (f : Fld) : (P.evt f).fetching = P.fetching := rfl
@[simp] theorem Part.evt_handed (f : Fld) : (P.evt f).handed = P.handed := rfl
@[simp] theorem Part.evt_endedNow (f : Fld) : (P.evt f).endedNow = P.endedNow := rfl
@[simp] theorem Part.evt_reads (f : Fld) : (P.evt f).reads = P.reads := rfl
@[simp] theorem Part.evt_owed (f : Fld) : (P.evt f).owed = P.owed := rfl
@[simp] theorem Part.evt_fetchStopped (f : Fld) : (P.evt f).fetchStopped = P.fetchStopped := rfl
@[simp] theorem Part.evt_hostLost (f : Fld) : (P.evt f).hostLost = P.hostLost := rfl
@[simp] theorem Part.evt_rings (f : Fld) : (P.evt f).rings = P.rings := rfl
@[simp] theorem Part.evt_msixPending (f : Fld) : (P.evt f).msixPending = P.msixPending := rfl
@[simp] theorem Part.evt_places (f : Fld) : (P.evt f).places = P.places := rfl
@[simp] theorem Part.evt_loadOp (f : Fld) : (P.evt f).loadOp = P.loadOp := rfl
@[simp] theorem Part.evt_powerReq (f : Fld) : (P.evt f).powerReq = P.powerReq := rfl
@[simp] theorem Part.evt_drawHist (f : Fld) : (P.evt f).drawHist = P.drawHist := rfl
@[simp] theorem Part.evt_overAt1 (f : Fld) : (P.evt f).overAt1 = P.overAt1 := rfl
@[simp] theorem Part.evt_belowMs (f : Fld) : (P.evt f).belowMs = P.belowMs := rfl
@[simp] theorem Part.evt_loan (f : Fld) : (P.evt f).loan = P.loan := rfl
@[simp] theorem Part.evt_lent (f : Fld) : (P.evt f).lent = P.lent := rfl
@[simp] theorem Part.evt_haltReq (f : Fld) : (P.evt f).haltReq = P.haltReq := rfl
@[simp] theorem Part.evt_stepping (f : Fld) : (P.evt f).stepping = P.stepping := rfl
@[simp] theorem Part.evt_haltBeats (f : Fld) : (P.evt f).haltBeats = P.haltBeats := rfl
@[simp] theorem Part.evt_faultEnds (f : Fld) : (P.evt f).faultEnds = P.faultEnds := rfl
@[simp] theorem Part.evt_trace (f : Fld) : (P.evt f).trace = P.trace := rfl
@[simp] theorem Part.cnt_staged (f : Fld) (n : Nat) : (P.cnt f n).staged = P.staged := rfl
@[simp] theorem Part.cnt_sealPending (f : Fld) (n : Nat) : (P.cnt f n).sealPending = P.sealPending := rfl
@[simp] theorem Part.cnt_teardownPending (f : Fld) (n : Nat) : (P.cnt f n).teardownPending = P.teardownPending := rfl
@[simp] theorem Part.cnt_sealCount (f : Fld) (n : Nat) : (P.cnt f n).sealCount = P.sealCount := rfl
@[simp] theorem Part.cnt_dmaSlots (f : Fld) (n : Nat) : (P.cnt f n).dmaSlots = P.dmaSlots := rfl
@[simp] theorem Part.cnt_keys (f : Fld) (n : Nat) : (P.cnt f n).keys = P.keys := rfl
@[simp] theorem Part.cnt_beatNow (f : Fld) (n : Nat) : (P.cnt f n).beatNow = P.beatNow := rfl
@[simp] theorem Part.cnt_inTurn (f : Fld) (n : Nat) : (P.cnt f n).inTurn = P.inTurn := rfl
@[simp] theorem Part.cnt_turnHeld (f : Fld) (n : Nat) : (P.cnt f n).turnHeld = P.turnHeld := rfl
@[simp] theorem Part.cnt_turnUnits (f : Fld) (n : Nat) : (P.cnt f n).turnUnits = P.turnUnits := rfl
@[simp] theorem Part.cnt_turnHist (f : Fld) (n : Nat) : (P.cnt f n).turnHist = P.turnHist := rfl
@[simp] theorem Part.cnt_prefillHist (f : Fld) (n : Nat) : (P.cnt f n).prefillHist = P.prefillHist := rfl
@[simp] theorem Part.cnt_decided (f : Fld) (n : Nat) : (P.cnt f n).decided = P.decided := rfl
@[simp] theorem Part.cnt_heldSrc (f : Fld) (n : Nat) : (P.cnt f n).heldSrc = P.heldSrc := rfl
@[simp] theorem Part.cnt_heldBy (f : Fld) (n : Nat) : (P.cnt f n).heldBy = P.heldBy := rfl
@[simp] theorem Part.cnt_lateTile (f : Fld) (n : Nat) : (P.cnt f n).lateTile = P.lateTile := rfl
@[simp] theorem Part.cnt_nextHeld (f : Fld) (n : Nat) : (P.cnt f n).nextHeld = P.nextHeld := rfl
@[simp] theorem Part.cnt_boundaryNext (f : Fld) (n : Nat) : (P.cnt f n).boundaryNext = P.boundaryNext := rfl
@[simp] theorem Part.cnt_holding (f : Fld) (n : Nat) : (P.cnt f n).holding = P.holding := rfl
@[simp] theorem Part.cnt_holdUs (f : Fld) (n : Nat) : (P.cnt f n).holdUs = P.holdUs := rfl
@[simp] theorem Part.cnt_service (f : Fld) (n : Nat) : (P.cnt f n).service = P.service := rfl
@[simp] theorem Part.cnt_forced (f : Fld) (n : Nat) : (P.cnt f n).forced = P.forced := rfl
@[simp] theorem Part.cnt_chainLatched (f : Fld) (n : Nat) : (P.cnt f n).chainLatched = P.chainLatched := rfl
@[simp] theorem Part.cnt_chainM0 (f : Fld) (n : Nat) : (P.cnt f n).chainM0 = P.chainM0 := rfl
@[simp] theorem Part.cnt_chainFound (f : Fld) (n : Nat) : (P.cnt f n).chainFound = P.chainFound := rfl
@[simp] theorem Part.cnt_chainRelease (f : Fld) (n : Nat) : (P.cnt f n).chainRelease = P.chainRelease := rfl
@[simp] theorem Part.cnt_abandonReq (f : Fld) (n : Nat) : (P.cnt f n).abandonReq = P.abandonReq := rfl
@[simp] theorem Part.cnt_abandonUnit (f : Fld) (n : Nat) : (P.cnt f n).abandonUnit = P.abandonUnit := rfl
@[simp] theorem Part.cnt_affectAll (f : Fld) (n : Nat) : (P.cnt f n).affectAll = P.affectAll := rfl
@[simp] theorem Part.cnt_abandoning (f : Fld) (n : Nat) : (P.cnt f n).abandoning = P.abandoning := rfl
@[simp] theorem Part.cnt_replay (f : Fld) (n : Nat) : (P.cnt f n).replay = P.replay := rfl
@[simp] theorem Part.cnt_wdFirst (f : Fld) (n : Nat) : (P.cnt f n).wdFirst = P.wdFirst := rfl
@[simp] theorem Part.cnt_reloadUs (f : Fld) (n : Nat) : (P.cnt f n).reloadUs = P.reloadUs := rfl
@[simp] theorem Part.cnt_card (f : Fld) (n : Nat) : (P.cnt f n).card = P.card := rfl
@[simp] theorem Part.cnt_collected (f : Fld) (n : Nat) : (P.cnt f n).collected = P.collected := rfl
@[simp] theorem Part.cnt_cardOut (f : Fld) (n : Nat) : (P.cnt f n).cardOut = P.cardOut := rfl
@[simp] theorem Part.cnt_turnDrafts (f : Fld) (n : Nat) : (P.cnt f n).turnDrafts = P.turnDrafts := rfl
@[simp] theorem Part.cnt_tablesOut (f : Fld) (n : Nat) : (P.cnt f n).tablesOut = P.tablesOut := rfl
@[simp] theorem Part.cnt_idleAt (f : Fld) (n : Nat) : (P.cnt f n).idleAt = P.idleAt := rfl
@[simp] theorem Part.cnt_slots (f : Fld) (n : Nat) : (P.cnt f n).slots = P.slots := rfl
@[simp] theorem Part.cnt_holdQueue (f : Fld) (n : Nat) : (P.cnt f n).holdQueue = P.holdQueue := rfl
@[simp] theorem Part.cnt_cancels (f : Fld) (n : Nat) : (P.cnt f n).cancels = P.cancels := rfl
@[simp] theorem Part.cnt_steerOps (f : Fld) (n : Nat) : (P.cnt f n).steerOps = P.steerOps := rfl
@[simp] theorem Part.cnt_waitingDone (f : Fld) (n : Nat) : (P.cnt f n).waitingDone = P.waitingDone := rfl
@[simp] theorem Part.cnt_boundaryDone (f : Fld) (n : Nat) : (P.cnt f n).boundaryDone = P.boundaryDone := rfl
@[simp] theorem Part.cnt_steers (f : Fld) (n : Nat) : (P.cnt f n).steers = P.steers := rfl
@[simp] theorem Part.cnt_fetchNext (f : Fld) (n : Nat) : (P.cnt f n).fetchNext = P.fetchNext := rfl
@[simp] theorem Part.cnt_fetchIdx (f : Fld) (n : Nat) : (P.cnt f n).fetchIdx = P.fetchIdx := rfl
@[simp] theorem Part.cnt_tail (f : Fld) (n : Nat) : (P.cnt f n).tail = P.tail := rfl
@[simp] theorem Part.cnt_bells (f : Fld) (n : Nat) : (P.cnt f n).bells = P.bells := rfl
@[simp] theorem Part.cnt_fetching (f : Fld) (n : Nat) : (P.cnt f n).fetching = P.fetching := rfl
@[simp] theorem Part.cnt_handed (f : Fld) (n : Nat) : (P.cnt f n).handed = P.handed := rfl
@[simp] theorem Part.cnt_endedNow (f : Fld) (n : Nat) : (P.cnt f n).endedNow = P.endedNow := rfl
@[simp] theorem Part.cnt_reads (f : Fld) (n : Nat) : (P.cnt f n).reads = P.reads := rfl
@[simp] theorem Part.cnt_owed (f : Fld) (n : Nat) : (P.cnt f n).owed = P.owed := rfl
@[simp] theorem Part.cnt_fetchStopped (f : Fld) (n : Nat) : (P.cnt f n).fetchStopped = P.fetchStopped := rfl
@[simp] theorem Part.cnt_hostLost (f : Fld) (n : Nat) : (P.cnt f n).hostLost = P.hostLost := rfl
@[simp] theorem Part.cnt_rings (f : Fld) (n : Nat) : (P.cnt f n).rings = P.rings := rfl
@[simp] theorem Part.cnt_msixPending (f : Fld) (n : Nat) : (P.cnt f n).msixPending = P.msixPending := rfl
@[simp] theorem Part.cnt_places (f : Fld) (n : Nat) : (P.cnt f n).places = P.places := rfl
@[simp] theorem Part.cnt_loadOp (f : Fld) (n : Nat) : (P.cnt f n).loadOp = P.loadOp := rfl
@[simp] theorem Part.cnt_powerReq (f : Fld) (n : Nat) : (P.cnt f n).powerReq = P.powerReq := rfl
@[simp] theorem Part.cnt_drawHist (f : Fld) (n : Nat) : (P.cnt f n).drawHist = P.drawHist := rfl
@[simp] theorem Part.cnt_overAt1 (f : Fld) (n : Nat) : (P.cnt f n).overAt1 = P.overAt1 := rfl
@[simp] theorem Part.cnt_belowMs (f : Fld) (n : Nat) : (P.cnt f n).belowMs = P.belowMs := rfl
@[simp] theorem Part.cnt_loan (f : Fld) (n : Nat) : (P.cnt f n).loan = P.loan := rfl
@[simp] theorem Part.cnt_lent (f : Fld) (n : Nat) : (P.cnt f n).lent = P.lent := rfl
@[simp] theorem Part.cnt_haltReq (f : Fld) (n : Nat) : (P.cnt f n).haltReq = P.haltReq := rfl
@[simp] theorem Part.cnt_stepping (f : Fld) (n : Nat) : (P.cnt f n).stepping = P.stepping := rfl
@[simp] theorem Part.cnt_haltBeats (f : Fld) (n : Nat) : (P.cnt f n).haltBeats = P.haltBeats := rfl
@[simp] theorem Part.cnt_faultEnds (f : Fld) (n : Nat) : (P.cnt f n).faultEnds = P.faultEnds := rfl
@[simp] theorem Part.cnt_trace (f : Fld) (n : Nat) : (P.cnt f n).trace = P.trace := rfl
@[simp] theorem Part.modSlot_regs (i : Nat) (f : Slot → Slot) : (P.modSlot i f).regs = P.regs := rfl
@[simp] theorem Part.modSlot_staged (i : Nat) (f : Slot → Slot) : (P.modSlot i f).staged = P.staged := rfl
@[simp] theorem Part.modSlot_sealPending (i : Nat) (f : Slot → Slot) : (P.modSlot i f).sealPending = P.sealPending := rfl
@[simp] theorem Part.modSlot_teardownPending (i : Nat) (f : Slot → Slot) : (P.modSlot i f).teardownPending = P.teardownPending := rfl
@[simp] theorem Part.modSlot_sealCount (i : Nat) (f : Slot → Slot) : (P.modSlot i f).sealCount = P.sealCount := rfl
@[simp] theorem Part.modSlot_dmaSlots (i : Nat) (f : Slot → Slot) : (P.modSlot i f).dmaSlots = P.dmaSlots := rfl
@[simp] theorem Part.modSlot_keys (i : Nat) (f : Slot → Slot) : (P.modSlot i f).keys = P.keys := rfl
@[simp] theorem Part.modSlot_beatNow (i : Nat) (f : Slot → Slot) : (P.modSlot i f).beatNow = P.beatNow := rfl
@[simp] theorem Part.modSlot_inTurn (i : Nat) (f : Slot → Slot) : (P.modSlot i f).inTurn = P.inTurn := rfl
@[simp] theorem Part.modSlot_turnHeld (i : Nat) (f : Slot → Slot) : (P.modSlot i f).turnHeld = P.turnHeld := rfl
@[simp] theorem Part.modSlot_turnUnits (i : Nat) (f : Slot → Slot) : (P.modSlot i f).turnUnits = P.turnUnits := rfl
@[simp] theorem Part.modSlot_turnHist (i : Nat) (f : Slot → Slot) : (P.modSlot i f).turnHist = P.turnHist := rfl
@[simp] theorem Part.modSlot_prefillHist (i : Nat) (f : Slot → Slot) : (P.modSlot i f).prefillHist = P.prefillHist := rfl
@[simp] theorem Part.modSlot_decided (i : Nat) (f : Slot → Slot) : (P.modSlot i f).decided = P.decided := rfl
@[simp] theorem Part.modSlot_heldSrc (i : Nat) (f : Slot → Slot) : (P.modSlot i f).heldSrc = P.heldSrc := rfl
@[simp] theorem Part.modSlot_heldBy (i : Nat) (f : Slot → Slot) : (P.modSlot i f).heldBy = P.heldBy := rfl
@[simp] theorem Part.modSlot_lateTile (i : Nat) (f : Slot → Slot) : (P.modSlot i f).lateTile = P.lateTile := rfl
@[simp] theorem Part.modSlot_nextHeld (i : Nat) (f : Slot → Slot) : (P.modSlot i f).nextHeld = P.nextHeld := rfl
@[simp] theorem Part.modSlot_boundaryNext (i : Nat) (f : Slot → Slot) : (P.modSlot i f).boundaryNext = P.boundaryNext := rfl
@[simp] theorem Part.modSlot_holding (i : Nat) (f : Slot → Slot) : (P.modSlot i f).holding = P.holding := rfl
@[simp] theorem Part.modSlot_holdUs (i : Nat) (f : Slot → Slot) : (P.modSlot i f).holdUs = P.holdUs := rfl
@[simp] theorem Part.modSlot_service (i : Nat) (f : Slot → Slot) : (P.modSlot i f).service = P.service := rfl
@[simp] theorem Part.modSlot_forced (i : Nat) (f : Slot → Slot) : (P.modSlot i f).forced = P.forced := rfl
@[simp] theorem Part.modSlot_chainLatched (i : Nat) (f : Slot → Slot) : (P.modSlot i f).chainLatched = P.chainLatched := rfl
@[simp] theorem Part.modSlot_chainM0 (i : Nat) (f : Slot → Slot) : (P.modSlot i f).chainM0 = P.chainM0 := rfl
@[simp] theorem Part.modSlot_chainFound (i : Nat) (f : Slot → Slot) : (P.modSlot i f).chainFound = P.chainFound := rfl
@[simp] theorem Part.modSlot_chainRelease (i : Nat) (f : Slot → Slot) : (P.modSlot i f).chainRelease = P.chainRelease := rfl
@[simp] theorem Part.modSlot_abandonReq (i : Nat) (f : Slot → Slot) : (P.modSlot i f).abandonReq = P.abandonReq := rfl
@[simp] theorem Part.modSlot_abandonUnit (i : Nat) (f : Slot → Slot) : (P.modSlot i f).abandonUnit = P.abandonUnit := rfl
@[simp] theorem Part.modSlot_affectAll (i : Nat) (f : Slot → Slot) : (P.modSlot i f).affectAll = P.affectAll := rfl
@[simp] theorem Part.modSlot_abandoning (i : Nat) (f : Slot → Slot) : (P.modSlot i f).abandoning = P.abandoning := rfl
@[simp] theorem Part.modSlot_replay (i : Nat) (f : Slot → Slot) : (P.modSlot i f).replay = P.replay := rfl
@[simp] theorem Part.modSlot_wdFirst (i : Nat) (f : Slot → Slot) : (P.modSlot i f).wdFirst = P.wdFirst := rfl
@[simp] theorem Part.modSlot_reloadUs (i : Nat) (f : Slot → Slot) : (P.modSlot i f).reloadUs = P.reloadUs := rfl
@[simp] theorem Part.modSlot_card (i : Nat) (f : Slot → Slot) : (P.modSlot i f).card = P.card := rfl
@[simp] theorem Part.modSlot_collected (i : Nat) (f : Slot → Slot) : (P.modSlot i f).collected = P.collected := rfl
@[simp] theorem Part.modSlot_cardOut (i : Nat) (f : Slot → Slot) : (P.modSlot i f).cardOut = P.cardOut := rfl
@[simp] theorem Part.modSlot_turnDrafts (i : Nat) (f : Slot → Slot) : (P.modSlot i f).turnDrafts = P.turnDrafts := rfl
@[simp] theorem Part.modSlot_tablesOut (i : Nat) (f : Slot → Slot) : (P.modSlot i f).tablesOut = P.tablesOut := rfl
@[simp] theorem Part.modSlot_idleAt (i : Nat) (f : Slot → Slot) : (P.modSlot i f).idleAt = P.idleAt := rfl
@[simp] theorem Part.modSlot_holdQueue (i : Nat) (f : Slot → Slot) : (P.modSlot i f).holdQueue = P.holdQueue := rfl
@[simp] theorem Part.modSlot_cancels (i : Nat) (f : Slot → Slot) : (P.modSlot i f).cancels = P.cancels := rfl
@[simp] theorem Part.modSlot_steerOps (i : Nat) (f : Slot → Slot) : (P.modSlot i f).steerOps = P.steerOps := rfl
@[simp] theorem Part.modSlot_waitingDone (i : Nat) (f : Slot → Slot) : (P.modSlot i f).waitingDone = P.waitingDone := rfl
@[simp] theorem Part.modSlot_boundaryDone (i : Nat) (f : Slot → Slot) : (P.modSlot i f).boundaryDone = P.boundaryDone := rfl
@[simp] theorem Part.modSlot_steers (i : Nat) (f : Slot → Slot) : (P.modSlot i f).steers = P.steers := rfl
@[simp] theorem Part.modSlot_fetchNext (i : Nat) (f : Slot → Slot) : (P.modSlot i f).fetchNext = P.fetchNext := rfl
@[simp] theorem Part.modSlot_fetchIdx (i : Nat) (f : Slot → Slot) : (P.modSlot i f).fetchIdx = P.fetchIdx := rfl
@[simp] theorem Part.modSlot_tail (i : Nat) (f : Slot → Slot) : (P.modSlot i f).tail = P.tail := rfl
@[simp] theorem Part.modSlot_bells (i : Nat) (f : Slot → Slot) : (P.modSlot i f).bells = P.bells := rfl
@[simp] theorem Part.modSlot_fetching (i : Nat) (f : Slot → Slot) : (P.modSlot i f).fetching = P.fetching := rfl
@[simp] theorem Part.modSlot_handed (i : Nat) (f : Slot → Slot) : (P.modSlot i f).handed = P.handed := rfl
@[simp] theorem Part.modSlot_endedNow (i : Nat) (f : Slot → Slot) : (P.modSlot i f).endedNow = P.endedNow := rfl
@[simp] theorem Part.modSlot_reads (i : Nat) (f : Slot → Slot) : (P.modSlot i f).reads = P.reads := rfl
@[simp] theorem Part.modSlot_owed (i : Nat) (f : Slot → Slot) : (P.modSlot i f).owed = P.owed := rfl
@[simp] theorem Part.modSlot_fetchStopped (i : Nat) (f : Slot → Slot) : (P.modSlot i f).fetchStopped = P.fetchStopped := rfl
@[simp] theorem Part.modSlot_hostLost (i : Nat) (f : Slot → Slot) : (P.modSlot i f).hostLost = P.hostLost := rfl
@[simp] theorem Part.modSlot_rings (i : Nat) (f : Slot → Slot) : (P.modSlot i f).rings = P.rings := rfl
@[simp] theorem Part.modSlot_msixPending (i : Nat) (f : Slot → Slot) : (P.modSlot i f).msixPending = P.msixPending := rfl
@[simp] theorem Part.modSlot_places (i : Nat) (f : Slot → Slot) : (P.modSlot i f).places = P.places := rfl
@[simp] theorem Part.modSlot_loadOp (i : Nat) (f : Slot → Slot) : (P.modSlot i f).loadOp = P.loadOp := rfl
@[simp] theorem Part.modSlot_powerReq (i : Nat) (f : Slot → Slot) : (P.modSlot i f).powerReq = P.powerReq := rfl
@[simp] theorem Part.modSlot_drawHist (i : Nat) (f : Slot → Slot) : (P.modSlot i f).drawHist = P.drawHist := rfl
@[simp] theorem Part.modSlot_overAt1 (i : Nat) (f : Slot → Slot) : (P.modSlot i f).overAt1 = P.overAt1 := rfl
@[simp] theorem Part.modSlot_belowMs (i : Nat) (f : Slot → Slot) : (P.modSlot i f).belowMs = P.belowMs := rfl
@[simp] theorem Part.modSlot_loan (i : Nat) (f : Slot → Slot) : (P.modSlot i f).loan = P.loan := rfl
@[simp] theorem Part.modSlot_lent (i : Nat) (f : Slot → Slot) : (P.modSlot i f).lent = P.lent := rfl
@[simp] theorem Part.modSlot_haltReq (i : Nat) (f : Slot → Slot) : (P.modSlot i f).haltReq = P.haltReq := rfl
@[simp] theorem Part.modSlot_stepping (i : Nat) (f : Slot → Slot) : (P.modSlot i f).stepping = P.stepping := rfl
@[simp] theorem Part.modSlot_haltBeats (i : Nat) (f : Slot → Slot) : (P.modSlot i f).haltBeats = P.haltBeats := rfl
@[simp] theorem Part.modSlot_faultEnds (i : Nat) (f : Slot → Slot) : (P.modSlot i f).faultEnds = P.faultEnds := rfl
@[simp] theorem Part.modSlot_trace (i : Nat) (f : Slot → Slot) : (P.modSlot i f).trace = P.trace := rfl

/-! ### What a changed part of the state reads as -/

@[simp] theorem Mach.blankAt_setTile (t u : Nat) (T : Tile) : (m.setTile t T).blankAt u = m.blankAt u := rfl
theorem Mach.tile_setTile_other {t u : Nat} (h : u ≠ t) (T : Tile) : (m.setTile t T).tile u = m.tile u := by
  simp only [Mach.tile, Mach.blankAt_setTile]
  exact Map.get_set_other h _ _ _ _
theorem Mach.part_setPart_other {p q : Nat} (h : q ≠ p) (P : Part) : (m.setPart p P).part q = m.part q :=
  Map.get_set_other h _ _ _ _
theorem Mach.part_modPart_other {p q : Nat} (h : q ≠ p) (f : Part → Part) : (m.modPart p f).part q = m.part q :=
  Map.get_set_other h _ _ _ _
theorem Mach.pallet_modPallet_other {i j : Nat} (h : j ≠ i) (f : Pallet → Pallet) : (m.modPallet i f).pallet j = m.pallet j :=
  Map.get_set_other h _ _ _ _
theorem Mach.link_modLink_other {i j : Nat} (h : j ≠ i) (f : Link → Link) : (m.modLink i f).link j = m.link j :=
  Map.get_set_other h _ _ _ _
theorem Mach.hostPort_modHostPort_other {i j : Nat} (h : j ≠ i) (f : HostPort → HostPort) :
    (m.modHostPort i f).hostPort j = m.hostPort j := Map.get_set_other h _ _ _ _

theorem RegFile.get_set_other {f g : Fld} (h : g.key ≠ f.key) (r : RegFile) (v : Nat) : (r.set f v).get g = r.get g :=
  Map.get_set_other h _ _ _ _
theorem RegFile.get_set_same {v : Nat} {f : Fld} {r : RegFile} (h : Map.wf f.reset r = true ∨ v % 2 ^ f.width ≠ f.reset) :
    (r.set f v).get f = v % 2 ^ f.width := by
  unfold RegFile.get RegFile.set
  cases h with
  | inl h => exact Map.get_set_same h _ _
  | inr h => exact Map.get_set_listed h _ _

end Sys2Proof.Machine
end

