-- ==== Sys2Proof/Laws/Tiles.lean ====
section
/-! SUPPORT. What the issue of an instruction does, and what a tile's step leaves alone. -/
namespace Sys2Proof.Machine

/-- An instruction that issues acts as its body says. -/
theorem Tile.issue_runs {m : Mach} {t : TileId} {regs : List RegNo} (h : m.issues t regs) (rs : List Nat)
    (hr : ∀ r ∈ rs, ∃ q ∈ regs, q.val = r) (body : Tile → TRes) :
    (m.tile t.val).issue t.val rs body = body (m.tile t.val) := by
  obtain ⟨h1, h2, h3, h4⟩ := h
  have h5 : (rs.any fun r => (m.tile t.val).awaited.contains r) = false := by
    simp only [List.any_eq_false, List.contains_iff_mem]
    intro r hr'
    obtain ⟨q, hq, rfl⟩ := hr r hr'
    exact h4 q hq
  simp only [Tile.issue, h1, ne_eq, not_true_eq_false, if_false, if_neg (Nat.not_le.mpr h2), h3, h5, Bool.false_eq_true,
    ProtClass.finds, List.isEmpty_nil, if_true]

@[simp] theorem Mach.sigs_nil (m : Mach) (t : Nat) : m.sigs t [] = m := rfl
theorem Mach.act_eq (m : Mach) (t : Nat) (f : Tile → TRes) :
    m.act t f = (m.setTile t (f (m.tile t)).1).sigs t (f (m.tile t)).2 := rfl
/-- A step of a tile that signals nothing. -/
theorem Mach.act_quiet {m : Mach} {t : Nat} {f : Tile → TRes} {T : Tile} (h : f (m.tile t) = (T, [])) :
    m.act t f = m.setTile t T := by simp [Mach.act_eq, h]
theorem lift_next (f : Mach → Mach) (s : State) : lift f s = .next { s with m := f s.m } := rfl

/-- A lifted step of a tile that signals nothing. -/
theorem lift_act_quiet {s : State} {t : TileId} {f : Tile → TRes} {T : Tile} (h : f (s.m.tile t.val) = (T, [])) :
    lift (fun m => m.act t.val f) s = .next (s.withTile t T) := by
  simp [lift_next, State.withTile, Mach.act_quiet h]

end Sys2Proof.Machine
end

