-- ==== Sys2Proof/Laws/Effects.lean ====
section
/-! SUPPORT. What the shared operations can do: writes of stores and registers, signals of a tile, changes of a partition. -/
namespace Sys2Proof

/-! ### Stores -/

variable {α : Type} [DecidableEq α]

theorem Map.get_set_sorted {d v : α} {m : Map α} {lo : Nat} (h : Map.sortedFrom lo m = true) (k : Nat) :
    Map.get d (Map.set d m k v) k = v := by
  by_cases hv : v = d
  · simp [Map.set, hv, Map.get, Map.find_erase_same k h]
  · exact Map.get_set_listed hv m k
theorem Map.sortedFrom_set {d v : α} {m : Map α} (h : Map.sortedFrom 0 m = true) (k : Nat) :
    Map.sortedFrom 0 (Map.set d m k v) = true := by
  unfold Map.set
  split
  · exact Map.sortedFrom_erase k h
  · exact Map.sortedFrom_insert v (Nat.zero_le k) h

namespace Machine

/-! ### Registers -/

theorem RegFile.get_set_sorted {r : RegFile} (h : Map.sortedFrom 0 r = true) (f : Fld) (v : Nat) :
    (r.set f v).get f = v % 2 ^ f.width := Map.get_set_sorted h f.key
theorem RegFile.sorted_set {r : RegFile} (h : Map.sortedFrom 0 r = true) (f : Fld) (v : Nat) :
    Map.sortedFrom 0 (r.set f v) = true := Map.sortedFrom_set h f.key

/-! ### Signals of a tile: they reach the registers and records of the owner, counts, tests and packets, and nothing else -/

theorem Mach.sig_frame (m : Mach) (t : Nat) (x : Sig) :
    (m.sig t x).tiles = m.tiles ∧ (m.sig t x).pallets = m.pallets ∧ (m.sig t x).regs = m.regs ∧ (m.sig t x).staged = m.staged
      ∧ (m.sig t x).boot = m.boot ∧ (m.sig t x).beats = m.beats ∧ (m.sig t x).timeAdj = m.timeAdj ∧ (m.sig t x).zeroed = m.zeroed
      ∧ (m.sig t x).ports = m.ports ∧ (m.sig t x).links = m.links ∧ (m.sig t x).replaces = m.replaces ∧ (m.sig t x).out = m.out := by
  cases x <;> simp only [Mach.sig, Mach.startTest] <;>
    first
    | (and_intros <;> first | rfl | trivial)
    | (split <;> (and_intros <;> rfl))
    | (split <;> first | (and_intros <;> rfl) | (split <;> (and_intros <;> rfl)))
theorem Mach.sig_part_other (m : Mach) {t q : Nat} (x : Sig) (h : ∀ p, m.owner t = some p → q ≠ p.val) :
    (m.sig t x).part q = m.part q := by
  cases x <;> simp only [Mach.sig, Mach.startTest] <;> (repeat' split) <;>
    first | rfl | exact Mach.part_modPart_other m (h _ ‹_›) _
theorem Mach.sigs_frame (ss : List Sig) (m : Mach) (t : Nat) :
    (m.sigs t ss).tiles = m.tiles ∧ (m.sigs t ss).pallets = m.pallets ∧ (m.sigs t ss).regs = m.regs ∧ (m.sigs t ss).staged = m.staged
      ∧ (m.sigs t ss).boot = m.boot ∧ (m.sigs t ss).beats = m.beats ∧ (m.sigs t ss).timeAdj = m.timeAdj ∧ (m.sigs t ss).zeroed = m.zeroed
      ∧ (m.sigs t ss).ports = m.ports ∧ (m.sigs t ss).links = m.links ∧ (m.sigs t ss).replaces = m.replaces ∧ (m.sigs t ss).out = m.out := by
  induction ss generalizing m with
  | nil => and_intros <;> rfl
  | cons x xs ih =>
    have h := ih (m.sig t x)
    simp only [Mach.sig_frame m t x] at h
    exact h
theorem Mach.sigs_part_other (ss : List Sig) (m : Mach) {t q : Nat} (h : ∀ p, m.owner t = some p → q ≠ p.val) :
    (m.sigs t ss).part q = m.part q := by
  induction ss generalizing m with
  | nil => rfl
  | cons x xs ih =>
    have o : (m.sig t x).owner t = m.owner t := by
      unfold Mach.owner Mach.pallet; rw [(Mach.sig_frame m t x).2.1]
    exact (ih (m.sig t x) (by rw [o]; exact h)).trans (Mach.sig_part_other m x h)

/-! ### A step of a tile -/

/-- A step of tile `t` leaves every other tile, and the partitions that do not own it, as they were. -/
theorem Mach.act_frame (m : Mach) (t : Nat) (f : Tile → TRes) :
    (m.act t f).tiles = (m.setTile t (f (m.tile t)).1).tiles ∧ (m.act t f).pallets = m.pallets ∧ (m.act t f).regs = m.regs
      ∧ (m.act t f).staged = m.staged ∧ (m.act t f).boot = m.boot ∧ (m.act t f).beats = m.beats ∧ (m.act t f).out = m.out
      ∧ ∀ q, (∀ p, m.owner t = some p → q ≠ p.val) → (m.act t f).part q = m.part q := by
  obtain ⟨h1, h2, h3, h4, h5, h6, -, -, -, -, -, h12⟩ := Mach.sigs_frame (f (m.tile t)).2 (m.setTile t (f (m.tile t)).1) t
  exact ⟨h1, h2, h3, h4, h5, h6, h12, fun q h => Mach.sigs_part_other _ (m.setTile t _) h⟩
theorem Mach.act_tile_other (m : Mach) {t u : Nat} (h : u ≠ t) (f : Tile → TRes) : (m.act t f).tile u = m.tile u := by
  obtain ⟨h1, h2, -, -, -, -, -, h8, -⟩ := Mach.sigs_frame (f (m.tile t)).2 (m.setTile t (f (m.tile t)).1) t
  have b : (m.act t f).blankAt u = m.blankAt u := by
    unfold Mach.blankAt Mach.blank; rw [Mach.act_eq, h2, h8]; rfl
  unfold Mach.tile
  rw [b, Mach.act_eq, h1]
  exact Map.get_set_other h _ _ _ _

/-! ### A change of a partition with what it sends -/

theorem Mach.onPart_frame (m : Mach) (p : PartId) (f : HCtx → Part → PRes) :
    (m.onPart p f).tiles = m.tiles ∧ (m.onPart p f).pallets = m.pallets ∧ (m.onPart p f).staged = m.staged ∧ (m.onPart p f).boot = m.boot
      ∧ (m.onPart p f).wear = m.wear ∧ (m.onPart p f).flight = m.flight ∧ (m.onPart p f).tests = m.tests
      ∧ (m.onPart p f).out = m.out ++ (f (m.hctx p) (m.part p.val)).2 ∧ ∀ q, q ≠ p.val → (m.onPart p f).part q = m.part q := by
  unfold Mach.onPart Mach.cnt
  exact ⟨rfl, rfl, rfl, rfl, rfl, rfl, rfl, rfl, fun _ h => Mach.part_setPart_other m h _⟩
/-- What the partition reads as, where the store of partitions is in order. -/
theorem Mach.onPart_part {m : Mach} (h : Map.sortedFrom 0 m.parts = true) (p : PartId) (f : HCtx → Part → PRes) :
    (m.onPart p f).part p.val = { (f (m.hctx p) (m.part p.val)).1 with faultEnds := 0 } := Map.get_set_sorted h p.val
theorem Mach.part_setPart_same {m : Mach} (h : Map.sortedFrom 0 m.parts = true) (p : Nat) (P : Part) : (m.setPart p P).part p = P :=
  Map.get_set_sorted h p
theorem Mach.tile_setTile_same {m : Mach} (h : Map.sortedFrom 0 m.tiles = true) (t : Nat) (T : Tile) : (m.setTile t T).tile t = T := by
  simp only [Mach.tile, Mach.blankAt_setTile]
  exact Map.get_set_sorted h t
theorem Part.getR_setR_same {P : Part} (h : Map.sortedFrom 0 P.regs = true) (f : Fld) (v : Nat) : (P.setR f v).getR f = v % 2 ^ f.width :=
  Map.get_set_sorted h f.key
theorem Part.getR_setR_other {f g : Fld} (h : g.key ≠ f.key) (P : Part) (v : Nat) : (P.setR f v).getR g = P.getR g :=
  Map.get_set_other h _ _ _ _
theorem Mach.getR_setR_same {m : Mach} (h : Map.sortedFrom 0 m.regs = true) (f : Fld) (v : Nat) : (m.setR f v).getR f = v % 2 ^ f.width :=
  Map.get_set_sorted h f.key
theorem Mach.getR_setR_other {f g : Fld} (h : g.key ≠ f.key) (m : Mach) (v : Nat) : (m.setR f v).getR g = m.getR g :=
  Map.get_set_other h _ _ _ _

end Machine
end Sys2Proof
end

