-- ==== Sys2Proof/Tests/Slice0.lean ====
section
/-! SUPPORT. Tests: decoding, ill-formed commands, single steps, and for every statement of Obligations.lean a state that meets its premises, clause by
clause. Expected values come from the rules named. -/
namespace Sys2Proof.Tests
open Sys2Proof Sys2Proof.Machine
set_option Elab.async false

/-! ### Helper states -/

/-- A module with tile 5 (pallet 0, of partition 0) and partition 0. -/
def tS (T : Tile) (P : Part := {}) : State :=
  { pending := [], m := { zeroed := true, tiles := [(5, T)], pallets := [(0, { owner := some 0, powered := true })], parts := Map.set {} [] 0 P } }
/-- A tile that runs, with x1 = 6, x2 = −3, x3 = 8. -/
def core : Tile := { run := .running, x := [(1, 6), (2, -3), (3, 8)] }
def compatP : Part := { regs := RegFile.set [] Reg.TILE_ISA_CFG_COMPAT_G1 1 }
/-- A tile whose bank 0 is WIDE. -/
def wideT : Tile := { core with banks := [(0, { port := .wide })] }

/-- An envelope whose payload should have 5 bytes. -/
def envX : Envelope := { (default : Envelope) with len := 5 }

/-- The state a command answers, if it answers one. -/
def after (i : Instr) (s : State) : Option State :=
  match exec i s with
  | .next s' => some s'
  | _ => none

/-! ### WellFormed refuses what is ill-formed -/

theorem wf_bringUp : Instr.wf (.bringUp [] [(52800, 0)] []) = false := by decide
theorem wf_scrubDone : Instr.wf (.scrubDone 0 [(0, 64)]) = false := by decide
theorem wf_stuckArr : Instr.wf (.arrayCmdComplete 0 0 ⟨[⟨64, 0, 0, false, 0, 0⟩], 0, [], []⟩) = false := by decide
theorem wf_stuckRow : Instr.wf (.tileMoveDone 0 ⟨[⟨0, 512, 0, false, 0, 0⟩], 0, [], []⟩) = false := by decide
theorem wf_stuckCol : Instr.wf (.accessArrayProgram ⟨0, 0⟩ 0 ⟨[⟨0, 0, 520, false, 0, 0⟩], 0, [], []⟩) = false := by decide
theorem wf_stuckTarget : Instr.wf (.arrayCmdComplete 0 0 ⟨[⟨0, 0, 0, true, 16, 0⟩], 0, [], []⟩) = false := by decide
theorem wf_stuckSensed : Instr.wf (.arrayCmdComplete 0 0 ⟨[⟨0, 0, 0, true, 0, 16⟩], 0, [], []⟩) = false := by decide
theorem wf_eraseFail : Instr.wf (.accessArrayErase ⟨0, 0⟩ 0 ⟨[], 0, [64], []⟩) = false := by decide
theorem wf_senses : Instr.wf (.arrayCmdComplete 0 0 ⟨[], 0, [], [⟨64, 0, false, []⟩]⟩) = false := by decide
theorem wf_sPut : Instr.wf (.sPut 0 0 0 [[0]]) = false := by decide
theorem wf_sFill_length : Instr.wf (.sFill 0 0 0 [[0]]) = false := by decide
theorem wf_sFill_count : Instr.wf (.sFill 0 0 0 (List.replicate 9 (List.replicate 64 0))) = false := by decide
theorem wf_dataFrame : Instr.wf (.dataFrame 0 0 0 true [⟨1, 0, 0, [[0]]⟩]) = false := by decide
theorem wf_frameSend : Instr.wf (.frameSend 0 [⟨1, 0, 0, List.replicate 9 (List.replicate 64 0)⟩]) = false := by decide
theorem wf_powerStep : Instr.wf (.powerStepDecision []) = false := by decide
theorem wf_telemetry_module : Instr.wf (.telemetrySample ⟨[12000], [0, 0], [0, 0], 0, 0, 0, 0⟩ []) = false := by decide
theorem wf_telemetry_pallet : Instr.wf (.telemetrySample ⟨[0, 0], [0, 0], [0, 0], 0, 0, 0, 0⟩ [⟨0, [], [], 0⟩]) = false := by decide
theorem wf_payload : Instr.wf (.payloadReadDone 0 0 .prompt (.data (some envX) [])) = false := by decide
theorem wf_descriptor : Instr.wf (.descriptorReadDone 0 0 (.data (some envX) [])) = false := by decide
theorem wf_add : Instr.wf (.add 5 1 2 3) = true := by decide

/-! ### The control core -/

theorem wit_ScalarAlu : (tS core).m.issues 5 [0, 2, 31] ∧ (tS core).m.issues 5 [31, 1, 0] := by unfold Mach.issues; decide +kernel
theorem wit_ScalarDivide : (tS core).m.issues 5 [1, 2, 0] ∧ ((tS core).m.ownerPart 5).compat = false
    ∧ (tS core compatP).m.issues 5 [1, 2, 0] ∧ ((tS core compatP).m.ownerPart 5).compat = true
    ∧ ((tS core compatP).m.tile 5).getX 0 = 0 ∧ ((tS core compatP).m.tile 5).excCause = none := by unfold Mach.issues; decide +kernel
theorem wit_ScalarImmediate : (tS core).m.issues 5 [31, 3] := by unfold Mach.issues; decide +kernel
theorem wit_ControlTransfer : (tS core).m.issues 5 [1, 2, 3] ∧ ((tS core).m.tile 5).excCause = none := by unfold Mach.issues; decide +kernel
theorem wit_ScalarMemory : (tS core).m.issues 5 [1, 3] ∧ (tS core).m.padOk 5 63 1 false ∧ (tS core).m.padOk 5 62 2 false
    ∧ (tS core).m.padOk 5 60 4 false ∧ (tS core).m.padOk 5 56 8 false ∧ (tS core).m.padOk 5 56 8 true ∧ (tS core).m.padOk 5 0 1 true
    ∧ Map.wf 0 ((tS core).m.tile 5).mem = true ∧ Map.wf [] ((tS core).m.tile 5).wordErr = true := by
  simp only [Mach.issues, Mach.padOk]; and_intros <;> decide +kernel
theorem wit_ControllerRegisters : (tS core).m.issues 5 [3] ∧ (((tS core).m.tile 5).getX 3).toNat % 2 ^ 32 % 512 ≤ 256
    ∧ (((tS core).m.tile 5).getX 3).toNat % 2 ^ 32 % 2 ^ 13 < 4096 ∧ ((tS core).m.tile 5).excCause = none
    ∧ (let s := tS { core with qdescErr := [(3, true)] }; s.m.issues 5 [3] ∧ (s.m.tile 5).descBad 0x43 = true ∧ (s.m.tile 5).excCause = none) := by
  simp only [Mach.issues]; and_intros <;> decide +kernel
theorem wit_ControllerRegisters_good : ∀ n, ((tS core).m.tile 5).descBad n = false := by
  intro n; simp [Tile.descBad, tS, core, Mach.tile, Map.get, Map.find]

theorem test_sub_wraps : ((after (.sub 5 1 0 1) (tS core)).map fun s => ((s.m.tile 5).getX 1, (s.m.tile 5).pc)) = some (-6, 4) := by decide +kernel
theorem test_div_by_zero : ((after (.div 5 3 1 0) (tS core)).map fun s => (s.m.tile 5).getX 3) = some (-1) := by decide +kernel
theorem test_rem_sign : ((after (.rem 5 3 2 1) (tS core)).map fun s => (s.m.tile 5).getX 3) = some (-3) := by decide +kernel
theorem test_x0_discards : ((after (.add 5 0 1 1) (tS core)).map fun s => (s.m.tile 5).getX 0) = some 0 := by decide +kernel
theorem test_branch_back : ((after (.bltu 5 1 2 (-1)) (tS { core with pc := 8 })).map fun s => (s.m.tile 5).pc) = some 4 := by decide +kernel

/-! ### The vector unit -/

theorem wit_VectorQueue : (tS wideT).m.issues 5 [1, 2, 3] ∧ vopLegal .add 1 2 3 .int8 = true ∧ vopLegal .exp2 1 2 0 .fp32 = true
    ∧ (tS { wideT with vq := List.replicate 16 (.op 0 .add 1 2 3 0 .int8 0) }).m.issues 5 [1, 2, 3] := by unfold Mach.issues; decide +kernel
theorem wit_VectorInteger : (tS wideT).m.issues 5 [1, 2, 3] ∧ VType.isInt .int64 = true ∧ ((tS wideT).m.tile 5).vq = []
    ∧ ((tS wideT).m.tile 5).vPoisoned 1 = false := by unfold Mach.issues; decide +kernel
theorem wit_VectorFloat : (tS wideT).m.issues 5 [31, 0, 0] ∧ ((tS wideT).m.tile 5).vq = [] ∧ ((tS wideT).m.tile 5).vPoisoned 31 = false := by
  unfold Mach.issues; decide +kernel
theorem wit_VectorMovesAndPredicates : (tS wideT).m.issues 5 [7, 2, 0] ∧ ((tS wideT).m.tile 5).vq = [] ∧ ((tS wideT).m.tile 5).vPoisoned 7 = false
    ∧ VType.isInt .int8 = true ∧ VType.isInt .int16 = true ∧ (1 : RegNo).val = VType.code .int16 ∧ (tS wideT).m.issues 5 [0, 0, 0] := by
  unfold Mach.issues; decide +kernel
/-- The two lines at 0 are full. -/
def fullT : Tile := { wideT with full := [(0, true), (1, true)] }
theorem wit_VectorMemory : (tS wideT).m.issues 5 [0] ∧ (tS wideT).m.vpadOk 5 0 false ∧ (tS wideT).m.vpadOk 5 0 true
    ∧ (tS wideT).m.vpadOk 5 65408 true ∧ Map.wf 0 ((tS wideT).m.tile 5).mem = true ∧ Map.wf false ((tS wideT).m.tile 5).full = true
    ∧ Map.wf false ((tS wideT).m.tile 5).poison = true ∧ ((tS wideT).m.tile 5).vq = [] ∧ ((tS wideT).m.tile 5).vPoisoned 0 = false
    ∧ ((tS fullT).m.tile 5).vq = [] ∧ Map.wf false ((tS fullT).m.tile 5).poison = true ∧ Map.wf 0 ((tS fullT).m.tile 5).mem = true
    ∧ ((tS fullT).m.tile 5).found 1 = .clean ∧ ((tS wideT).m.tile 5).found 0 = .clean ∧ ((tS wideT).m.tile 5).found 1 = .clean
    ∧ (tS fullT).m.issues 5 [0] ∧ (tS fullT).m.vpadOk 5 0 true ∧ ((tS fullT).m.tile 5).tagFull 0 = true ∧ ((tS fullT).m.tile 5).tagFull 1 = true
    ∧ Map.wf false ((tS fullT).m.tile 5).full = true ∧ ((tS fullT).m.tile 5).found 0 = .clean
    ∧ ((tS wideT).m.tile 5).tagFull 0 = false ∧ ((tS wideT).m.tile 5).tagFull 1 = false := by
  simp only [Mach.issues, Mach.vpadOk]; and_intros <;> decide +kernel

/-! ### Flags, beats and turns of a tile -/

theorem wit_FlagsFenceBeats : (tS core).m.issues 5 [1] ∧ ((tS core).m.ownerPart 5).compat = false ∧ ((tS core compatP).m.ownerPart 5).compat = true
    ∧ ((tS core).m.tile 5).allocated 255 = false ∧ ((tS { core with alloc := [(255, true)] }).m.tile 5).allocated 255 = true
    ∧ ((tS core).m.tile 5).excCause = none ∧ (tS core compatP).m.issues 5 [1]
    ∧ (tS { core with lastBeat := some 9, cq := [7] }).m.issues 5 [1] ∧ ¬ (9 : Nat) ≤ 8 ∧ (9 : Nat) ≤ 9
    ∧ (tS core { beatNow := 3 }).m.issues 5 [1] ∧ ((tS core { beatNow := 3 }).m.ownerPart 5).beatNow = 3 := by
  simp only [Mach.issues]; and_intros <;> decide +kernel
theorem test_beat_waits : ((after (.beat 5 4 1) (tS core { beatNow := 3 })).map fun s => ((s.m.tile 5).beatWait, (s.m.tile 5).pc)) = some (true, 0) := by
  decide +kernel


/-! ### Kiln -/

/-- A tile with WIDE bank 0 whose registers x4 to x7 hold a command block. -/
def blkT (b : Nat) (T : Tile := {}) : Tile :=
  { T with run := .running, banks := [(0, { port := .wide })]
           x := [(4, BitVec.ofNat 64 b), (5, BitVec.ofNat 64 (b / 2 ^ 64)), (6, BitVec.ofNat 64 (b / 2 ^ 128)), (7, BitVec.ofNat 64 (b / 2 ^ 192))] }
/-- MUL, ZERO, no flag, A at 0x40, B at 0x80, strides 16, one step, set 0, E4M3 by INT8 (R177). -/
def mulB : Nat := 0x1_0010_0010_00000080_00000040_FFFF_01_01
/-- The same MUL with flag 9. -/
def mulFlagB : Nat := 0x1_0010_0010_00000080_00000040_0009_01_01
/-- STORE of set 0 at 0x80 (R178). -/
def storeB : Nat := 0x00000080_FFFF_00_02

theorem wit_KilnIssue : (let s := tS (blkT mulB); let T := s.m.tile 5
      s.m.issuesBlock 5 4 1 ∧ mulB / 2 ^ 16 % 2 ^ 16 = 65535 ∧ T.block 4 = mulB ∧ kilnMulFault T mulB = none
      ∧ T.check wideAllow 0x40 16 = .ok ∧ T.check wideAllow 0x80 16 = .ok
      ∧ T.kq.length < 4 ∧ T.sbStall (kilnMulRanges mulB) = false ∧ s.m.testingRanges 5 (kilnMulRanges mulB) = false)
    ∧ (let s := tS (blkT (mulB + 0x200)); s.m.issuesBlock 5 4 1 ∧ kilnMulFault (s.m.tile 5) (mulB + 0x200) = some 1 ∧ (s.m.tile 5).excCause = none)
    ∧ (let s := tS (blkT storeB); s.m.issuesBlock 5 4 2 ∧ kilnStoreFault (s.m.tile 5) storeB = none
      ∧ (s.m.tile 5).check wideAllow 0x80 (storeBytes 0) = .ok ∧ (s.m.tile 5).sbStall [lineRange 0x80 (storeBytes 0) true] = false)
    ∧ (tS (blkT storeB)).m.testingRanges 5 [lineRange 0x80 (storeBytes 0) true] = false ∧ ((tS (blkT storeB)).m.tile 5).kq.length < 4
    ∧ storeB / 2 ^ 16 % 2 ^ 16 = 65535 ∧ (mulB + 0x200) / 2 ^ 16 % 2 ^ 16 = 65535 ∧ 2 ≤ (mulB + 0x200) / 256 % 256
    ∧ (let s := tS (blkT mulFlagB { alloc := [(9, true)] }); s.m.issuesBlock 5 4 1 ∧ mulFlagB / 2 ^ 16 % 2 ^ 16 = 9
      ∧ (s.m.tile 5).allocated 9 = true ∧ kilnMulFault (s.m.tile 5) mulFlagB = none)
    ∧ (∀ op ∈ [0, 5, 6], let s := tS (blkT (0xFFFF0000 + op)); s.m.issuesBlock 5 4 op ∧ (0xFFFF0000 + op) / 2 ^ 16 % 2 ^ 16 = 65535
      ∧ (s.m.tile 5).excCause = none)
    ∧ (∀ op ∈ [0, 5], let s := tS (blkT (0x90000 + op)); s.m.issuesBlock 5 4 op ∧ (0x90000 + op) / 2 ^ 16 % 2 ^ 16 = 9
      ∧ (s.m.tile 5).allocated 9 = false ∧ (s.m.ownerPart 5).compat = false ∧ (s.m.tile 5).excCause = none)
    ∧ (tS core).m.issues 5 (blockRegs 3) ∧ (tS core).m.issues 5 (blockRegs 0) ∧ (tS core).m.issues 5 [] ∧ legalWord 0 = false
    ∧ ((tS { core with pc := 0x10000 }).m.tile 5).run = .running
    ∧ ((tS core).m.tile 5).excCause = none ∧ ((tS { core with pc := 0x10000 }).m.tile 5).excCause = none := by
  simp only [Mach.issues, Mach.issuesBlock]; and_intros <;> decide +kernel
/-- A set of Kiln and a MUL, then a STORE, at the head of its queue. -/
def kilnT (k : KCmd) : Tile := { blkT 0 with kq := [(3, k)], acc := [(1, { c := [(0, 7)] })] }
theorem wit_KilnRuns : (let T := (tS (kilnT (.mul false none 64 128 16 16 1 1 .int8 .int8))).m.tile 5
      Map.wf 0 (Map.get {} T.acc 1).c = true ∧ T.kq = [(3, .mul false none 64 128 16 16 1 1 .int8 .int8)]
      ∧ (∀ q < 1, ∀ i < 16, T.found ((64 + q * 16 + i) / 64) = .clean ∧ T.found ((128 + q * 16 + i) / 64) = .clean))
    ∧ (let T := (tS (kilnT (.store none 0x80 1 0))).m.tile 5
      T.kq = [(3, .store none 0x80 1 0)] ∧ Map.wf 0 T.mem = true ∧ (Map.get {} T.acc 1).poison = false
      ∧ (T.bankAt 0x80).scrub = false ∧ (T.bankAt (0x80 + 1023)).scrub = false) := by
  and_intros <;> decide +kernel

/-! ### Array commands -/

/-- A tile with a command block in x4 to x7 and the array 0 in the given state. -/
def arrT (b : Nat) (A : Arr) : Tile := { blkT b with banks := [(0, { port := .array }), (1, { port := .array }), (2, { port := .array })], arrs := [(0, A)] }
def validA : Arr := { content := .valid, power := .active }
/-- PASS of array 0: input 0x1000, one segment, output 0x2000, no mask address (R59). -/
def passB : Nat := 2 ^ 192 + 2 ^ 160 * 0xFFFFFFFF + 2 ^ 128 * 0x2000 + 2 ^ 96 * 0x1000 + 2 ^ 32 + 0xFFFF0001
/-- READ of rows 0 and 1 of array 0 to 0x1000 (R61). -/
def readB : Nat := 2 ^ 96 * 0x1000 + 2 ^ 64 * 2 + 0xFFFF0002
/-- PROG of array 0 from 0x1000, all rows, no report (R63). -/
def progB : Nat := 2 ^ 192 * 0xFFFFFFFF + 2 ^ 128 * 512 + 2 ^ 96 * 0x1000 + 2 ^ 32 + 0xFFFF0003
/-- REFRESH of rows 0 to 3, ERASE, POWER to OFF and STATUS to 0x1000 (R69 to R74). -/
def refreshB : Nat := 2 ^ 112 * 4 + 2 ^ 32 + 0xFFFF0004
def eraseB : Nat := 2 ^ 32 + 0xFFFF0005
def powerB : Nat := 2 ^ 32 + 0xFFFF0006
def statusB : Nat := 2 ^ 128 * 0x1000 + 0xFFFF0007

theorem wit_ArrayIssue : (∀ x ∈ [(1, passB), (2, readB), (3, progB), (4, refreshB), (5, eraseB), (6, powerB), (7, statusB)],
      let s := tS (arrT x.2 validA); let T := s.m.tile 5
      s.m.issuesBlock 5 4 x.1 ∧ T.block 4 = x.2 ∧ x.2 / 2 ^ 16 % 2 ^ 16 = 0xFFFF ∧ T.aq = [] ∧ T.sbStall (cmdRanges x.2) = false ∧ badFields x.2 = false)
    ∧ (∀ x ∈ [(8, 0xFFFF0008), (1, passB + 2 ^ 14)], (tS (arrT x.2 validA)).m.issuesBlock 5 4 x.1 ∧ badFields x.2 = true ∧ x.2 / 2 ^ 16 % 2 ^ 16 = 0xFFFF)
    ∧ (let s := tS { arrT (statusB - 0xFFF60000) validA with alloc := [(9, true)] }; s.m.issuesBlock 5 4 7
      ∧ (statusB - 0xFFF60000) / 2 ^ 16 % 2 ^ 16 = 9 ∧ (s.m.tile 5).allocated 9 = true)
    ∧ (let T := arrT passB validA; let B := T.asOf T.nextId
      B.gate arrayAllow 64 0x1000 512 = .ok ∧ B.gate arrayAllow 64 0x2000 (blockBytes false false) = .ok
      ∧ maskArrs 1 = [0] ∧ passBlocks passB = [0] ∧ passB / 2 ^ 160 % 2 ^ 32 = 0xFFFFFFFF ∧ B.gate readAllow 64 0x1000 512 = .ok
      ∧ B.gate arrayAllow 4 0x1000 256 = .ok ∧ (T.arr 0).suspect = false ∧ (T.arr 0).power = .active ∧ (T.arr 0).content = .valid
      ∧ Map.wf {} T.arrs = true)
    ∧ (let T := arrT powerB { validA with content := .empty }; (tS T).m.issuesBlock 5 4 6 ∧ (T.arr 0).content = .empty)
    ∧ (let T := arrT powerB validA; powerB / 256 % 256 = 0 ∧ maskArrs (powerB / 2 ^ 32 % 2 ^ 64) = [0] ∧ (T.arr 0).power ≠ .off ∧ (T.arr 0).content = .valid)
    ∧ (let T := arrT progB { validA with content := .empty }; (tS T).m.issuesBlock 5 4 3 ∧ T.aq = []
      ∧ (T.asOf T.nextId).gate progAllow 64 0x1000 (256 * 512) = .ok ∧ Map.wf {} T.arrs = true ∧ (T.arr 0).content = .empty ∧ (T.arr 0).power = .active
      ∧ progB / 2 ^ 192 % 2 ^ 32 = 0xFFFFFFFF) := by
  simp only [Mach.issues, Mach.issuesBlock]; and_intros <;> decide +kernel

/-- An array whose rows 0 to n − 1 pass their digital checks (R35, R96). -/
def goodA (n : Nat) : Arr := { validA with rows := (List.range n).map fun q => (q, List.replicate 512 8 ++ checkLevels q (List.replicate 512 8)) }
/-- A command of the core's queue, alone in it. -/
def queued (b : Nat) (st : CmdStage) : ACmd := { by_ := .core 8, record := leBytes 32 b, stage := st }
def queueT (b : Nat) (st : CmdStage) (A : Arr) : Tile := { arrT b A with aq := [queued b st] }

theorem wit_ArrayRuns : (∀ x ∈ [(4, refreshB), (5, eraseB), (6, powerB), (7, statusB)],
      (queued x.2 .running).op = x.1 ∧ (queued x.2 .running).rec_ = x.2
      ∧ (tS (queueT x.2 .running validA)).m.noService 5 ∧ ((tS (queueT x.2 .running validA)).m.tile 5).excCause = none)
    ∧ Map.wf {} (queueT 0 .running validA).arrs = true ∧ Map.wf 0 (queueT 0 .running validA).mem = true
    ∧ maskArrs 1 = [0] ∧ (0 : Nat) ∈ (⟨[], 0, [0], []⟩ : ArrPhys).eraseFail ∧ (0 : Nat) ∉ (⟨[], 0, [], []⟩ : ArrPhys).eraseFail
    ∧ (∀ st < 2, (queued (refreshB + st) .running).sat = 0) ∧ (⟨[], 0, [], []⟩ : ArrPhys).senses = []
    ∧ (let s := tS (queueT refreshB .running (goodA 4)); let T := s.m.tile 5
      T.aq = [queued refreshB .running] ∧ s.m.noService 5 ∧ Map.wf {} T.arrs = true ∧ Map.wf [] (T.arr 0).rows = true
      ∧ refreshB / 2 ^ 96 % 2 ^ 16 = 0 ∧ refreshB / 2 ^ 112 % 2 ^ 16 = 4 ∧ ∀ r < 4, (T.arr 0).rowOk r = true ∧ T.lateness 0 r s.m.timeUs = 0)
    ∧ (let T := queueT statusB .running validA; (T.bankAt 0x1000).scrub = false ∧ (T.bankAt (0x1000 + 255)).scrub = false) := by
  simp only [Mach.noService]; and_intros <;> decide +kernel
/-- A tile without a poison bit or a flipped bit has no bad line. -/
theorem found_clean (T : Tile) (hp : T.poison = []) (hw : T.wordErr = []) (l : Nat) : T.found l = .clean := by
  have e : ∀ k : ProtClass, k.finds [] = .clean := fun k => by simp [ProtClass.finds]
  have f : ∀ is : List Nat, is.foldl (fun (f : Found) _ => f.worst .clean) .clean = .clean := fun is => by
    induction is with
    | nil => rfl
    | cons i is ih => exact ih
  simp [Tile.found, Tile.codeFound, Tile.poisoned, Tile.wordFlips, hp, hw, Map.get, Map.find, e, f]
theorem wit_ArrayProgramAndRead : (∀ x ∈ [(3, progB), (2, readB)],
      (queued x.2 .running).op = x.1 ∧ (queued x.2 .running).rec_.testBit 8 = false ∧ (queued x.2 .running).rec_.testBit 9 = false
      ∧ (tS (queueT x.2 .running validA)).m.noService 5)
    ∧ progB / 2 ^ 128 % 2 ^ 16 = 512 ∧ progB / 2 ^ 192 % 2 ^ 32 = 0xFFFFFFFF ∧ maskArrs (progB / 2 ^ 32 % 2 ^ 64) = [0]
    ∧ (∀ l < 64 + 2048, (queueT progB .running validA).found l = .clean ∧ (tS (queueT progB .running validA)).m.testing 5 l = false)
    ∧ ((queueT progB .running validA).arr 0).stuck = [] ∧ ((queueT progB .running validA).arr 0).stuckCount = 0
    ∧ (queued progB .running).rowsDone = 0 ∧ (queued progB .running).input = [] ∧ progB / 2 ^ 96 % 2 ^ 32 = 64 * 64
    ∧ Map.wf {} (queueT progB .running validA).arrs = true ∧ (⟨[], 7, [], []⟩ : ArrPhys).stuck = [] ∧ (⟨[], 7, [], []⟩ : ArrPhys).senses = []
    ∧ (let s := tS (queueT readB .running (goodA 2)); let T := s.m.tile 5
      T.aq = [queued readB .running] ∧ s.m.noService 5 ∧ Map.wf 0 T.mem = true ∧ readB / 2 ^ 48 % 2 ^ 16 = 0 ∧ readB / 2 ^ 64 % 2 ^ 16 = 2
      ∧ (∀ r < 2, (T.arr 0).rowOk r = true) ∧ ∀ i < 512, (T.bankAt (0x1000 + i)).scrub = false)
    ∧ validA.rowOk 0 = false := by
  simp only [Mach.noService]
  refine ⟨?_, ?_, ?_, ?_, fun l _ => ⟨found_clean _ rfl rfl l, rfl⟩, ?_⟩ <;> and_intros <;> decide +kernel

/-- PASS of arrays 0 and 1. -/
def pass2B : Nat := passB + 2 ^ 33
def pairT (A B : Arr) : Tile := { queueT pass2B .load A with arrs := [(0, A), (1, B)] }
/-- A command in its phase stage, with the input of its one segment. -/
def phasesT (A : Arr) (xs : List Byte) : Tile := { arrT passB A with aq := [{ queued passB .phases with input := xs }] }
/-- Column 513 of this array converts to 0 whatever its residual is. -/
def flatA : Arr := { validA with gain := [(513, 0)] }

theorem flatA_codes (x : ConvCtx) (hx : x.bound = none) (lo hi : List (Nat × Int)) : rawAt (flatA.rawResults x [lo] [hi]) 513 = 0 := by
  have h : ∀ d, flatA.calibrated 513 d = 0 := by
    intro d
    have g : Map.get 16384 flatA.gain 513 = 0 := by decide +kernel
    simp [Arr.calibrated, g]
  have b : ∀ rows, flatA.groupBound x rows 513 = none := by intro rows; simp [Arr.groupBound, hx]
  have c : ∀ n g, (flatA.codes x 513 n [g]).1 = 0 := by
    intro n g
    cases g <;> simp [Arr.codes, Arr.convert, b, h, List.range_succ]
  simp [rawAt, Arr.rawResults, List.getD, c]

theorem wit_Passes_load : (queued passB .load).op = 1 ∧ (queued passB .load).rec_ = passB ∧ passB.testBit 8 = false
    ∧ (∀ l ∈ linesOf 0x1000 512, (queueT passB .load validA).found l = .clean ∧ (tS (queueT passB .load validA)).m.testing 5 l = false)
    ∧ ((tS (queueT passB .load validA)).m.ownerPart 5).flagR Reg.ARR_MODE_DIGITAL = false
    ∧ Map.wf {} (pairT validA { validA with w8 := true }).arrs = true ∧ maskArrs (pass2B / 2 ^ 32 % 2 ^ 64) = [0, 1]
    ∧ (∀ A ∈ [validA, { validA with suspect := true }, { validA with w8 := true }], ∀ a ∈ [0, 1],
        ((pairT validA A).arr a).power = .active ∧ ((pairT validA A).arr a).content = .valid)
    ∧ ((pairT validA { validA with suspect := true }).arr 1).suspect = true
    ∧ ((pairT validA { validA with w8 := true }).arr 1).w8 ≠ ((pairT validA { validA with w8 := true }).arr 0).w8
    ∧ ((pairT validA {}).arr 1).content = .empty := by
  and_intros <;> decide +kernel
theorem wit_Passes_phases : (let s := tS (phasesT validA (List.replicate 512 0))
      ((s.m.tile 5).aq.map fun c => (c.op, c.stage)) = [(1, .phases)]
      ∧ maskArrs (passB / 2 ^ 32 % 2 ^ 64) = [0] ∧ passB / 2 ^ 9 % 2 ^ 5 = 0 ∧ passB / 2 ^ 160 % 2 ^ 32 = 0xFFFFFFFF ∧ passB / 2 ^ 128 % 2 ^ 32 % 64 = 0
      ∧ Map.wf 0 (s.m.tile 5).mem = true ∧ (s.m.tile 5).run = .running ∧ s.m.owner 5 = some 0 ∧ (s.m.part 0).loadOp = none ∧ (s.m.part 0).places = []
      ∧ (s.m.tile 5).bankAt 0x2000 = (s.m.tile 5).bank 0 ∧ ((s.m.tile 5).bank 0).scrub = false ∧ ((s.m.tile 5).bankAt (0x2000 + 2047)).scrub = false
      ∧ rowGroups 128 false (activeRows false (segment (List.replicate 512 0) 0)) = [[]] ∧ (s.m.ownerPart 5).getR Reg.ARR_CFG_ROW_GROUP_LIMIT = 128
      ∧ rowGroups 128 false (activeRows true (segment (List.replicate 512 0) 0)) = [[]])
    ∧ (∀ x (P : Part), validA.passOk P x.u (segment (List.replicate 512 0) 0) (phaseWeight [[]] [[]]) (validA.rawResults x [[]] [[]]) = true) := by
  constructor
  · and_intros <;> decide +kernel
  · intro x P
    have z : ∀ c, validA.codes x c 0 [[]] = (0, false) ∧ validA.codes x c 512 [[]] = (0, false) := fun c => ⟨rfl, rfl⟩
    have r : validA.rawResults x [[]] [[]] = List.replicate 520 (0, false) := by
      simp only [Arr.rawResults, (z _).1, (z _).2, mul_zero, add_zero, Bool.or_false]; decide +kernel
    rw [r]
    have w : phaseWeight [[]] [[]] = 0 := by decide
    rw [w]; simp only [Arr.passOk, mul_zero]; decide +kernel
/-- A pass over a column that converts to 0 fails its checks. -/
theorem wit_Passes_fails : (let s := tS (phasesT flatA (112 :: List.replicate 511 0)) (({} : Part).setR Reg.ARR_CHECK_CFG_REF_TOL 1)
      (s.m.tile 5).aq = [{ queued passB .phases with input := 112 :: List.replicate 511 0 }] ∧ (s.m.tile 5).arr 0 = flatA ∧ flatA.w8 = false
      ∧ (s.m.convCtx 5 0 128 flatA).bound = none ∧ (s.m.convCtx 5 0 128 flatA).u = 32 ∧ (s.m.ownerPart 5).getR Reg.ARR_CHECK_CFG_REF_TOL = 1
      ∧ segment (112 :: List.replicate 511 0) 0 = 112 :: List.replicate 511 0
      ∧ rowGroups 128 false (activeRows false (112 :: List.replicate 511 0)) = [[]] ∧ rowGroups 128 false (activeRows true (112 :: List.replicate 511 0)) = [[(0, 7)]])
    ∧ ∀ x P, x.bound = none → x.u = 32 → P.getR Reg.ARR_CHECK_CFG_REF_TOL = 1 →
        flatA.passOk P x.u (112 :: List.replicate 511 0) (phaseWeight [[]] [[(0, 7)]]) (flatA.rawResults x [[]] [[(0, 7)]]) = false := by
  constructor
  · and_intros <;> decide +kernel
  · intro x P hb hu t
    have z : (decide ((0 - 7 * sumInt (112 :: List.replicate 511 0)).natAbs ≤ ((1 : Int) * 32 * phaseWeight [[]] [[(0, 7)]]).toNat)) = false := by decide +kernel
    simp only [Arr.passOk, flatA_codes x hb, hu, t, Nat.cast_one, z, Bool.and_false, Bool.false_and]
theorem wit_Passes_bound : (∃ x : ConvCtx, validA.groupBound x [(0, 3)] 0 = some 0 ∧ (0 : Int) ≤ 0 ∧ 0 < x.u ∧ (validA.convert x [(0, 3)] 0 0).2 = false) := by
  refine ⟨⟨0, 0, 32, 0, some 0⟩, by decide +kernel, by decide, by decide, ?_⟩
  have b : validA.groupBound ⟨0, 0, 32, 0, some 0⟩ [(0, 3)] 0 = some 0 := by decide +kernel
  have c : ∀ e : Int, clampTo (-0) 0 e = 0 := by intro e; simp only [clampTo]; omega
  have h : ∀ s, validA.residual ⟨0, 0, 32, 0, some 0⟩ s [(0, 3)] 0 0 = 0 := by intro s; simp only [Arr.residual, b, c]
  simp only [Arr.convert, b, h]; decide +kernel

/-! ### The mortar -/

/-- An operation on two lines at 0x40 and at 0x80 of the tile at x = 6 of wall W, row y = 0 (R206, R212). -/
def putB (op w : Nat) : Nat := 2 ^ 128 * 128 + 2 ^ 64 * (2 ^ 40 * w + 2 ^ 24 * 6 + 0x80) + 2 ^ 32 * 0x40 + 0xFFFF0000 + op
def plainT (b : Nat) : Tile := { blkT b with banks := [] }

theorem wit_MortarIssue : (∀ op ∈ [1, 2, 3, 4, 5], let s := tS (plainT (putB op 0)); let T := s.m.tile 5
      s.m.issuesBlock 5 4 op ∧ T.block 4 = putB op 0 ∧ mcmdFault (putB op 0) = none ∧ putB op 0 / 2 ^ 16 % 2 ^ 16 = 0xFFFF
      ∧ s.m.samePart 5 (remoteTile (inWallOf (s.m.ownerPart 5).compat 5 (putB op 0 / 2 ^ 64 % 2 ^ 64))) = true ∧ T.mq.length < 8 ∧ T.check routerAllow 0x40 128 = .ok
      ∧ T.sbStall [lineRange 0x40 128 (op == 3)] = false ∧ (∀ i < 2, T.found (1 + i) = .clean ∧ s.m.testing 5 (1 + i) = false))
    ∧ mcmdFault (putB 1 0 + 2 ^ 32) = some 4 ∧ mcmdFault (putB 1 1) = none
    ∧ (tS (plainT (putB 1 0 + 2 ^ 32))).m.issuesBlock 5 4 1 ∧ (putB 1 0 + 2 ^ 32) / 2 ^ 32 % 2 ^ 32 % 64 ≠ 0 ∧ (putB 1 0 + 2 ^ 32) / 2 ^ 8 % 2 ^ 8 = 0
    ∧ (tS (plainT (putB 1 1))).m.issuesBlock 5 4 1 ∧ (tS (plainT (putB 1 1))).m.samePart 5 (remoteTile (inWallOf false 5 (putB 1 1 / 2 ^ 64 % 2 ^ 64))) = false
    ∧ ((tS (plainT (putB 1 1))).m.tile 5).excCause = none ∧ ((tS (plainT (putB 1 1))).m.ownerPart 5).compat = false
    ∧ (let s := tS { plainT (putB 1 0) with mq := List.replicate 8 {} }; s.m.issuesBlock 5 4 1 ∧ 8 ≤ (s.m.tile 5).mq.length
      ∧ (s.m.tile 5).check routerAllow 0x40 128 = .ok ∧ (s.m.tile 5).sbStall [lineRange 0x40 128 false] = false)
    ∧ (let s := tS (plainT (putB 1 0 - 0xFFF60000)) ; s.m.issuesBlock 5 4 1 ∧ (putB 1 0 - 0xFFF60000) / 2 ^ 16 % 2 ^ 16 = 9 ∧ (s.m.tile 5).allocated 9 = false) := by
  simp only [Mach.issues, Mach.issuesBlock]; and_intros <;> decide +kernel

/-- A request for the line at 0x80 of tile 5. -/
def reqP (k : RKind) : Packet :=
  { kind := .request k 6 3 0, target := 5, addr := 0x80, count := 1, lines := if k = .get then [] else [(List.replicate 64 7, false)] }
/-- Queue 0 has the lines 2 to 5 (R144). -/
def queT (full : Bool) : Tile := { core with qdesc := [(0, BitVec.ofNat 32 (2 ^ 31 + 2 ^ 17 + 3))], full := if full then [(2, true)] else [] }

/-- Tile 5 as given, with a request for it first in flight. -/
def flightS (T : Tile) (k : RKind) : State := { tS T with m := { (tS T).m with flight := [reqP k] } }
theorem wit_RequestArrival_route : (∀ k ∈ [RKind.put, .putFill, .get, .addI32], ∀ T ∈ [queT true, queT false], let s := flightS T k
      s.m.flight = [reqP k] ∧ (reqP k).target = 5 ∧ (s.m.routeOf (reqP k)).isSome = true ∧ (s.m.pallet (palletOf 5)).dark = false
      ∧ Map.get false (s.m.tile 5).qdescErr 0 = false ∧ s.m.owner 5 = some 0 ∧ (s.m.part 0).abandoning = false) := by decide +kernel
theorem wit_RequestArrival : (∀ k ∈ [RKind.put, .putFill, .get, .addI32], (reqP k).addr % 64 = 0 ∧ (∀ l ∈ (reqP k).lines, l.1.length = 64)
      ∧ 0 < (if k = .get then (reqP k).count else (reqP k).lines.length))
    ∧ (∀ T ∈ [queT true, queT false], Map.wf 0 T.mem = true ∧ Map.wf false T.full = true ∧ T.refuseAccess 0x80 64 = none ∧ T.found 2 = .clean
      ∧ Map.get none T.park 0 = none)
    ∧ (queT false).tagFull 2 = false ∧ (queT true).tagFull 2 = true ∧ (queT true).queueOwner 2 = some 0
    ∧ (let T : Tile := { core with banks := [(0, { pwr := .off })] }
      T.refuseAccess 0x80 64 = some (2, some .range, 0x80) ∧ T.excCause = none ∧ T.run = .running) := by
  and_intros <;> decide +kernel
/-- A fill parked at queue 0, and a station's tagged read, both at line 2. -/
def parkT (full : Bool) : Tile :=
  { queT full with park := [(0, some ⟨.request .putFill 6 3 0, 0, [(2, List.replicate 64 7, false)]⟩)], watch := [⟨.station .get 0 9 true 0, 2⟩] }
theorem wit_Parked : (∀ b ∈ [true, false], let T := parkT b
      (Map.get none T.park 0).map (·.lines) = some [(2, List.replicate 64 7, false)] ∧ T.tagFull 2 = b ∧ Map.wf none T.park = true
      ∧ Map.wf false T.full = true ∧ Map.wf 0 T.mem = true ∧ T.watch[0]? = some ⟨.station .get 0 9 true 0, 2⟩ ∧ T.found 2 = .clean
      ∧ (T.bankAt (64 * 2)).scrub = false) := by
  decide +kernel
/-- Tile 5 waits for the answers to operation 3. -/
def waitT (left : Nat) : Tile := { core with mq := [{ id := 3, left := left, localAddr := 0x40, remote := 0x80 }], sb := [⟨1, 1, true, 3⟩] }
theorem wit_Remote : (∀ k ∈ [PktKind.ack 5 3 none 0, .ack 5 3 (some 2) 0x80, .getData 5 3 0x80],
      let p : Packet := { kind := k, target := 5, lines := [(List.replicate 64 1, false)] }
      let s : State := { tS (waitT 1) with m := { (tS (waitT 1)).m with flight := [p] } }
      s.m.flight = [p] ∧ ((s.m.tile 5).mq.map fun o => (o.id, o.stale, o.refused, o.left, o.localAddr % 64)) = [(3, false, none, 1, 0)]
      ∧ (s.m.tile 5).excCause = none ∧ (s.m.tile 5).run = .running ∧ Map.wf 0 (s.m.tile 5).mem = true ∧ (∀ l ∈ p.lines, l.1.length = 64)
      ∧ s.m.owner 5 = some 0 ∧ ((s.m.tile 5).bankAt (0x40 + 64 * 0)).scrub = false)
    ∧ 1 < ((waitT 2).mq.map (·.left)).headD 0 ∧ remoteAddr 0x80 = 0x80 := by
  and_intros <;> decide +kernel

/-- Partition 0 holds for the route tables. -/
def routesS : State :=
  { tS core with m := { (tS core { holding := true, service := 1 }).m with routeHolds := [0], routesStale := [⟨0, 0, 0⟩] } }
theorem wit_StationsAndRoutes : remoteOk 0x80 = true ∧ remoteAddr 0x80 % 64 = 0 ∧ (∀ l ∈ [List.replicate 64 (5 : Byte)], l.length = 64)
    ∧ (∀ why ∈ [none, some 6], let x : Packet := { kind := .stationAck 0 9 why, target := 5 }; x.kind = .stationAck 0 9 why ∧ 9 ≠ seqStation 0)
    ∧ routesS.m.routesStale ≠ [] ∧ routesS.m.flight = [] ∧ (∀ p ∈ routesS.m.routeHolds, p < 16 ∧ (routesS.m.part p).holding = true)
    ∧ routesS.m.routeHolds.Nodup ∧ routesS.m.ordered := by
  simp only [Mach.ordered]; and_intros <;> decide +kernel

/-! ### Background work, banks, self-tests, re-placement -/

/-- An array with row 7 last refreshed at 0, waiting for its second slot or not. -/
def oldA (retry : Bool) : Arr := { validA with rowTime := [(7, 0)], retryRows := if retry then [7] else [] }
/-- After n module beats. -/
def lateS (T : Tile) (n : Nat) : State := { tS T with m := { (tS T).m with beats := n } }
theorem wit_Refresh : (∀ r ∈ [true, false], let s := lateS { core with arrs := [(0, oldA r)], period := 8000 } 70000; let T := s.m.tile 5; let A := T.arr 0
      Map.find A.rowTime 7 = some 0 ∧ A.refreshes = true ∧ A.power ≠ .off ∧ T.arrRuns 0 true = false ∧ s.m.timeUs ≤ 0 + T.period ∧ 8 * 0 + 7 * T.period ≤ 8 * s.m.timeUs
      ∧ (7 ∈ A.retryRows ↔ r = true) ∧ A.checkRow 7 (A.sensed 7 []) = false ∧ s.m.owner 5 = some 0)
    ∧ (let A : Arr := { oldA false with rows := [(7, List.replicate 512 8 ++ checkLevels 7 (List.replicate 512 8))] }
      A.checkRow 7 (A.sensed 7 [⟨3, 500, 512⟩]) = true ∧ restores [⟨3, 500, 512⟩] = true ∧ restores [⟨3, 524, 512⟩] = false)
    ∧ (let s := lateS { core with arrs := [(0, oldA true)], period := 8000 } 1000; 7 ∈ ((s.m.tile 5).arr 0).retryRows ∧ s.m.timeUs ≤ 0 + (s.m.tile 5).period)
    ∧ (let s := lateS { core with arrs := [(0, oldA false)], period := 8000 } 1000; Map.find ((s.m.tile 5).arr 0).rowTime 7 = some 0
      ∧ 8 * s.m.timeUs < 8 * 0 + 7 * (s.m.tile 5).period ∧ 7 ∉ ((s.m.tile 5).arr 0).retryRows ∧ s.m.timeUs ≤ 0 + (s.m.tile 5).period)
    ∧ (let s := lateS { core with arrs := [(0, oldA false)], period := 8000 } 100000; 0 + (s.m.tile 5).period < s.m.timeUs ∧ s.m.timeUs ≤ 0 + 2 * (s.m.tile 5).period
      ∧ Map.find ((s.m.tile 5).arr 0).rowTime 7 = some 0 ∧ ((s.m.tile 5).arr 0).refreshes = true)
    ∧ (let s := lateS { core with arrs := [(0, oldA false)], period := 8000 } 300000; 0 + 2 * (s.m.tile 5).period < s.m.timeUs ∧ s.m.owner 5 = some 0
      ∧ Map.find ((s.m.tile 5).arr 0).rowTime 7 = some 0 ∧ ((s.m.tile 5).arr 0).refreshes = true)
    ∧ (phasesT validA []).arrRuns 0 true = true ∧ ({} : Arr).refreshes = false ∧ ({ power := .off } : Arr).power = .off
    ∧ (∀ tj ∈ [(25 : Int), 45, 60, 85, 95, 105, 120], ({ tS core with m := { (tS core).m with pallets := [(0, { owner := some 0, powered := true, tj := tj })] } } : State).m.tileTj 5 = tj) := by
  and_intros <;> decide +kernel
/-- An array with a calibration due since time 0. -/
def calA (st : Option CalStep) : Arr := { validA with calDue := some 0, calStep := st }
theorem wit_Calibration : (let s := lateS { core with arrs := [(0, validA)] } 0; let A := (s.m.tile 5).arr 0; let P := s.m.ownerPart 5
      A.calDue = none ∧ ¬ (P.getR Reg.ARR_CAL_CFG_CAL_DELTA_T ≤ (s.m.tileTj 5 - A.calTemp).natAbs)
      ∧ ¬ (A.calBegan + 1000 * P.getR Reg.ARR_CAL_CFG_CAL_PERIOD ≤ s.m.timeUs)
      ∧ A.calBegan + 1000 * P.getR Reg.ARR_CAL_CFG_CAL_PERIOD ≤ (lateS core 10000000).m.timeUs)
    ∧ (let s := lateS { core with arrs := [(0, calA none)] } 10000000; let A := (s.m.tile 5).arr 0
      A.calDue = some 0 ∧ A.calEscalated = false ∧ s.m.owner 5 = some 0 ∧ 0 + 1000 * (s.m.ownerPart 5).getR Reg.ARR_CAL_CFG_CAL_GRACE ≤ s.m.timeUs)
    ∧ (∀ st ∈ [none, some .inject, some (.gain 0)], let s := lateS { core with arrs := [(0, calA st)] } 100; let T := s.m.tile 5
      T.mayCalibrate 0 s.m.timeUs = true ∧ (T.arr 0).calStep = st ∧ s.m.timeUs ≤ (T.arr 0).calBegan + 5000)
    ∧ (let s := lateS { core with arrs := [(0, calA (some (.gain 0)))] } 1000000; let T := s.m.tile 5
      T.mayCalibrate 0 s.m.timeUs = true ∧ (T.arr 0).calStep ≠ none ∧ (T.arr 0).calBegan + 5000 < s.m.timeUs)
    ∧ (let s := lateS { core with arrs := [(0, validA)] } 100; (s.m.tile 5).mayCalibrate 0 s.m.timeUs = false ∧ validA.calDue = none ∧ validA.power ≠ .off)
    ∧ (phasesT (calA none) []).arrRuns 0 false = true
    ∧ 512 / ({} : Part).getR Reg.ARR_CFG_ROW_GROUP_LIMIT ≤ 0 + 4 ∧ (({} : Part).setR Reg.ARR_CFG_ROW_GROUP_LIMIT 64).getR Reg.ARR_CFG_ROW_GROUP_LIMIT = 64
    ∧ 0 + 4 < 512 / 64 ∧ 256 < (Map.get 0 ({ calA (some (.gain 0)) with calOff := [(9, 300)] } : Arr).calOff 9).natAbs := by
  and_intros <;> decide +kernel
/-- The GAIN codes of four groups of an ideal column: CK0 and CK3 at 0, CK1 and CK2 240 codes apart (R89). -/
def idealCodes : List Int := (List.replicate 4 ([0, 120, -120, 0].flatMap fun d => List.replicate 4 d)).flatten
/-- An array after its last GAIN step, with offsets as given. -/
def endA (off : Map Int) : Arr := { validA with
  calDue := some 0, calStep := some (.gain 4), calOff := off, calK := mapOfList (List.replicate 520 3072)
  calGain := groupsOf (Min.min 4 (512 / 128 - 0)) idealCodes }
theorem find_range' (v : Int) : ∀ n s c : Nat, s ≤ c → c < s + n → Map.find ((List.range' s n).map fun c => (c, v)) c = some v
  | 0, s, c, h, k => absurd k (by omega)
  | n + 1, s, c, h, k => by
    simp only [List.range'_succ, List.map_cons, Map.find]
    split
    · rfl
    · exact find_range' v n (s + 1) c (by omega) (by omega)
theorem endA_k (c : Nat) (h : c < 520) : Map.get 0 (endA []).calK c = 3072 := by
  have e : (endA []).calK = (List.range' 0 520).map fun c => (c, 3072) := by decide +kernel
  rw [Map.get, e, find_range' 3072 520 0 c (by omega) (by omega)]; rfl
theorem endA_gain (round c : Nat) (h : c < 520) : (endA []).newGain round c = 16384 := by
  have g : (endA []).gamma = (4 * 5 * 3072 * 3072, 4 * 5 * 3072 * 3072) := by decide +kernel
  simp only [Arr.newGain, g, endA_k c h]; rw [if_pos (by decide)]; decide
theorem endA_recalibrated (round : Nat) : (endA []).recalibrated round = { endA [] with off := [], gain := [] } := by
  have n : (List.range 520).map (fun c => (c, ((endA []).newGain round c).toNat)) = (List.range 520).map fun c => (c, 16384) :=
    List.map_congr_left fun c h => by rw [endA_gain round c (by simpa using h)]; rfl
  have a : ((List.range 520).map fun c => (c, 16384)).filter (fun e : Nat × Nat => e.2 != 16384) = [] := by decide +kernel
  have b : ((List.range 520).map fun c => (c, Map.get 0 (endA []).calOff c)).filter (fun e => e.2 != 0) = [] := by decide +kernel
  simp only [Arr.recalibrated, n, a, b]
theorem wit_Calibration_ends : ∀ round, (endA []).calFails round = false ∧ (endA [(9, 300)]).calFails round = true := by
  intro round
  constructor
  · have r0 : (endA []).refBad round 0 2 = false := by rw [Arr.refBad, endA_recalibrated]; decide +kernel
    have r3 : (endA []).refBad round 3 4 = false := by rw [Arr.refBad, endA_recalibrated]; decide +kernel
    have g : (endA []).gamma = (4 * 5 * 3072 * 3072, 4 * 5 * 3072 * 3072) := by decide +kernel
    have o : ∀ c, Map.get 0 (endA []).calOff c = 0 := fun _ => rfl
    simp only [Arr.calFails, r0, r3, g, Bool.or_eq_false_iff, Bool.false_or, List.any_eq_false]
    refine ⟨by decide, fun c h => ?_⟩
    have h := List.mem_range.mp h
    rw [endA_k c h, o c, endA_gain round c h]; decide
  · simp only [Arr.calFails, Bool.or_eq_true, List.any_eq_true]
    exact .inr ⟨9, by decide +kernel, .inl (.inl (.inl (.inl (by decide +kernel))))⟩
def sealedP : Part := Part.setR {} Reg.PART_STATUS_STATE 1
/-- A PATCHED array, with an outlier list of one entry at 0x1000 or with none. -/
def patchT (n : Nat) : Tile := { core with banks := [(0, { port := .array })], arrs := [(0, { validA with content := .patched })], grout := [(0, BitVec.ofNat 32 (2 ^ 22 + n))], period := 64000 }
theorem wit_VerificationAndStatus : (tS core sealedP).m.part 0 = sealedP ∧ sealedP.isSealed = true ∧ sealedP.regsOk
    ∧ (∀ n < 2, let s := lateS (patchT n) 400000000; let T := s.m.tile 5; let dir := Map.get 0 T.grout 0
      T.mayVerify ((s.m.ownerPart 5).flagR Reg.ARR_CFG_AUTO_WAKE) 0 s.m.timeUs = true ∧ T.listGate dir = .ok ∧ (T.asOf T.nextId).listGate dir = .ok
      ∧ (∀ l ∈ listLines dir, T.found l = .clean) ∧ (T.arr 0).w8 = false ∧ dir.toNat % 512 = n)
    ∧ (let s := lateS { patchT 1 with arrs := [(0, { validA with w8 := true, content := .patched })] } 400000000; let T := s.m.tile 5
      T.mayVerify false 0 s.m.timeUs = true ∧ (T.arr 0).w8 = true ∧ ∀ e ∈ outlierEntries (T.readBytes 4096 4) 1, e.2.1 < 256)
    ∧ (let s := lateS (patchT 1) 400; (s.m.tile 5).mayVerify false 0 s.m.timeUs = false ∧ s.m.timeUs < ((s.m.tile 5).arr 0).verifyAt + 30000000)
    ∧ ({} : Arr).content = .empty
    ∧ ((tS core sealedP).m.pallet 0).tj < 256 ∧ 0 ≤ ((tS core sealedP).m.pallet 0).tj
    ∧ (0 : Nat) ∈ (tS core sealedP).m.palletsOf 0 ∧ (∀ j ∈ (tS core sealedP).m.palletsOf 0, ((tS core sealedP).m.pallet j).tj ≤ 0) := by
  simp only [Part.regsOk]; and_intros <;> decide +kernel
theorem wit_PatrolAndBanks : (∀ x ∈ [([], Found.clean), ([(73, [4])], .corrected), ([(73, [4, 5])], .bad)], let s := tS { core with wordErr := x.1 }
      let k := (s.m.tile 5).bankAt (64 * 9)
      (s.m.ordered ∧ Map.wf [] (s.m.tile 5).wordErr = true ∧ Map.wf 0 (s.m.tile 5).patrolAt = true ∧ (s.m.part 0).regsOk)
      ∧ (k.prot = .state ∧ k.pwr = .on ∧ k.changing = false ∧ k.held = false ∧ k.scrub = false ∧ s.m.testing 5 9 = false ∧ s.m.owner 5 = some 0)
      ∧ (s.m.tile 5).found 9 = x.2)
    ∧ (∀ pr ∈ [ProtClass.weight, .state], let s := tS { core with banks := [(0, { prot := pr })] }; let T := s.m.tile 5
      T.wordErr = [] ∧ T.poisoned 9 = false ∧ (T.bankAt (64 * 9)).prot = pr ∧ 73 / 8 = 9 ∧ ([4, 5] : List (Fin 64)).Nodup ∧ ([4, 5, 6] : List (Fin 64)).Nodup)
    ∧ (let s := tS { core with banks := [(1, { scrub := true })] }; ((s.m.tile 5).bank 1).scrub = true ∧ ((s.m.tile 5).bank 1).pwr = .on
      ∧ ((s.m.tile 5).bank 1).changing = false ∧ TestUnit.bank 5 1 ∉ s.m.tests ∧ Map.wf {} (s.m.tile 5).banks = true)
    ∧ (let T := (tS { core with banks := [(1, { changing := true })] }).m.tile 5; (T.bank 1).changing = true ∧ (T.bank 1).held = false)
    ∧ (∀ b ∈ [true, false], let T := (tS { kilnT (.store none 0x80 1 0) with banks := [(1, { held := true, heldAt := if b then 9 else 0 })] }).m.tile 5
      (T.bank 1).held = true ∧ (T.bank 1).scrubNext = false ∧ T.busyOps (T.bank 1).heldAt = b) := by
  simp only [Mach.ordered, Part.regsOk]; and_intros <;> decide +kernel
/-- A self-test of array 3 of tile 5, whose partition is SEALED. -/
def testS (u : TestUnit) : State := { tS core sealedP with m := { (tS core sealedP).m with tests := [u] } }
theorem wit_SelfTests : (∀ u ∈ [TestUnit.line 5 1, .bank 5 1, .word 5 1, .array 5 3, .link (.bridge 0), .router ⟨0, 0, 0⟩, .lane 0 1],
      let s := testS u; s.m.boot.inHold = false ∧ u ∈ s.m.tests ∧ s.m.tests.Nodup ∧ s.m.ordered
      ∧ (s.m.wear.transients.filter fun e => e.1 == s.m.unitOf u && decide (s.m.hour < e.2 + s.m.getR Reg.SVC_CFG_LASTING_WINDOW)).length + 1
          < s.m.getR Reg.SVC_CFG_LASTING_N
      ∧ s.m.hour < s.m.hour + s.m.getR Reg.SVC_CFG_LASTING_WINDOW)
    ∧ (testS (.array 5 3)).m.sealedOwner (palletOf 5) = some 0 ∧ Map.wf {} ((testS (.array 5 3)).m.tile 5).arrs = true := by
  simp only [Mach.ordered]; and_intros <;> decide +kernel
/-- A re-placement by the spare tile of its span-row, for partition 0. -/
def replS (moves : List Nat) : State :=
  { tS { core with arrs := [(0, validA)] } sealedP with m := { (tS { core with arrs := [(0, validA)] } sealedP).m with
      replaces := [⟨0, some 0, 0, 3, .spareTile, moves, 3, 0, false, 0⟩] } }
theorem wit_Replacement : (replS []).m.ordered ∧ (replS [5, 4]).m.ordered ∧ (replS []).m.boot.inHold = false ∧ (replS [5, 4]).m.boot.inHold = false
    ∧ (replS [5, 4]).m.replaces = [⟨0, some 0, 0, 3, .spareTile, [5, 4], 3, 0, false, 0⟩] ∧ (replS []).m.replaces = [⟨0, some 0, 0, 3, .spareTile, [], 3, 0, false, 0⟩]
    ∧ (replS []).m.flight = [] ∧ (replS []).m.routesStale = [] ∧ (replS []).m.timeUs < 0 + 2800000
    ∧ 0 + 2800000 ≤ ({ (replS []).m with beats := 40000000 } : Mach).timeUs ∧ (⟨[], 5, [], []⟩ : ArrPhys).stuck = []
    ∧ (∀ a ∈ ((replS [5, 4]).m.tile 5).contentArrs, a < 64 ∧ ((replS [5, 4]).m.tile 5).listCount a ≤ 256)
    ∧ ((replS [5, 4]).m.tile 5).contentArrs = [0] ∧ Map.wf {} ((replS [5, 4]).m.tile 5).arrs = true
    ∧ ((replS []).m.part 0).rebuilding = false ∧ (replS []).m.sealedOwner 0 = some 0 := by
  simp only [Mach.ordered]; and_intros <;> decide +kernel

/-! ### Partitions, beats, registers -/

/-- A module that is up, in READY, with partition 0 as given, which owns pallet 0 or asks for it. -/
def upS (P : Part) (own : Option PartId := some 0) : State :=
  { pending := [], m := (Mach.setR { boot := { moduleUp := true }, zeroed := true, pallets := [(0, { powered := true, owner := own })]
                                     parts := Map.set {} [] 0 P } Reg.BOOT_STATUS_BOOT_STATE 4) }
def loadingP : Part := { sealedP with loadOp := some default }
def scrubbingP : Part := Part.setR {} Reg.PART_STATUS_STATE 2
/-- A partition that asks to be sealed with pallet 0, or with none. -/
def asksP (mask : Nat) : Part := { Part.setR (Part.setR {} (Reg.PALLET_MASK_PALLETS 0) mask) Reg.PART_CFG_POWER_SHARE 4 with sealPending := true }

theorem wit_PartitionLife : (upS {}).m.reaches ⟨0, 0⟩ 0 = true ∧ (upS {}).m.reaches ⟨0, 3⟩ 0 = false ∧ ((upS {}).m.part 0).state = 0
    ∧ ((upS scrubbingP).m.part 0).state = 2 ∧ ((upS sealedP).m.part 0).state = 1 ∧ (upS sealedP).m.boot.inHold = false
    ∧ (∀ e ∈ ((upS sealedP).m.part 0).slots, e.2.req = none) ∧ ((upS sealedP).m.part 0).holdQueue = [] ∧ ((upS sealedP).m.part 0).loadOp = none
    ∧ ((upS loadingP).m.part 0).state = 1 ∧ ((upS loadingP).m.part 0).loadOp ≠ none ∧ (upS scrubbingP).m.ordered ∧ (upS scrubbingP).m.zeroed = true
    ∧ (∀ P ∈ [{}, scrubbingP, sealedP, loadingP], (upS P).m.reaches ⟨0, 0⟩ 0 = true)
    ∧ ((upS scrubbingP).m.part 0).recordsWait = false 
    ∧ (let s : State := { upS scrubbingP with m := { (upS scrubbingP).m with tiles := [(5, {})] } }
      5 ∈ s.m.tilesOf 0 ∧ s.m.banksInTest 5 = [] ∧ (s.m.part 0).state = 2 ∧ (s.m.part 0).recordsWait = false ∧ s.m.ordered)
    ∧ (Part.recordsWait { scrubbingP with rings := [(1, { waiting := [default] })] }) = true
    ∧ (let s : State := { upS sealedP with m := { (upS sealedP).m with boot := { (upS sealedP).m.boot with inHold := true } } }
      s.m.reaches ⟨0, 0⟩ 0 = true ∧ s.m.boot.inHold = true ∧ (s.m.part 0).state = 1) := by
  simp only [Mach.ordered]; and_intros <;> decide +kernel
theorem wit_ModuleBeat : (∀ mask ∈ [0, 1], let s : State := { upS (asksP mask) none with m := (upS (asksP mask) none).m.setR Reg.PWR_CFG_PARK_EN 0 }
      (s.m.boot.moduleUp = true ∧ s.m.boot.inHold = false ∧ s.m.boot.ctrlWaits = [] ∧ s.m.getR Reg.COMMIT_STATUS_STATE ≠ 1 ∧ s.m.feedHold = []
        ∧ s.m.flagR Reg.PWR_CFG_PARK_EN = false) ∧ (s.m.part 0).state = 0 ∧ (s.m.part 0).sealPending = true ∧ s.m.sealRule 0 = if mask = 0 then some 1 else none)
    ∧ (∀ k, ((upS (asksP 1) none).m.pallet k).parked = false) ∧ (∀ q, q ≠ 0 → ((upS (asksP 1) none).m.part q).sealPending = false)
    ∧ (asksP 1).regsOk ∧ ({} : Mach).boot.moduleUp = false ∧ (upS (asksP 1) none).m.ordered
    ∧ (let m : Mach := { boot := { fixedSlots := true }, parts := [(0, Part.setR { dmaSlots := [7] } Reg.PART_CFG_SEC_MODE 1), (1, { dmaSlots := [9] })] }
      m.boot.fixedSlots = true ∧ m.slotOwner 7 = some 0 ∧ (m.part 0).confidential = true ∧ m.slotOwner 9 = some 1 ∧ (m.part 1).confidential = false
      ∧ (m.part 2).confidential = false ∧ m.slotOwner 8 = none ∧ m.slotServes 7 [1, 0] = some 0 ∧ m.slotServes 7 [1] = none ∧ m.slotServes 9 [0, 2] = some 2
      ∧ m.slotServes 8 [0, 2] = some 2 ∧ m.slotServes 9 [2, 1] = some 1 ∧ m.slotServes 8 [0] = none)
    ∧ (let m : Mach := { pallets := [(0, { powered := true, parked := true, unparking := true })] }
      (m.pallet 0).parked = true ∧ (m.pallet 0).unparking = true ∧ (m.pallet 0).owner = none ∧ m.ordered) := by
  simp only [Mach.ordered, Part.regsOk]
  and_intros
  · decide +kernel
  · intro k; rcases k with _ | k <;> rfl
  · intro q h; rcases q with _ | q
    · exact absurd rfl h
    · rfl
  all_goals decide +kernel
/-- The lease is held by port `h` − 1, or by none. -/
def leaseS (h : Nat) : State := { upS {} with m := (upS {}).m.setR Reg.HOST_LEASE_HOLDER h }
theorem wit_CommitAndLease : (∀ h ∈ [0, 1, 2], (leaseS h).m.reaches ⟨0, 0⟩ 0 = true ∧ (leaseS h).m.ready = true ∧ (leaseS h).m.getR Reg.HOST_LEASE_HOLDER = h)
    ∧ (leaseS 1).m.reaches ⟨0, 5⟩ 0 = false ∧ (leaseS 1).m.ordered
    ∧ (let m : Mach := { (leaseS 1).m with beats := 100000000 }; m.leaseAt + 1000 * m.getR Reg.HOST_LEASE_LEASE_MS ≤ m.timeUs ∧ m.getR Reg.HOST_LEASE_HOLDER ≠ 0)
    ∧ (leaseS 1).m.timeUs < (leaseS 1).m.leaseAt + 1000 * (leaseS 1).m.getR Reg.HOST_LEASE_LEASE_MS := by
  simp only [Mach.ordered]; and_intros <;> decide +kernel
theorem wit_RegisterWrites : (upS {}).m.ready = true ∧ partBlk 0x1000 = some (.array, 0) ∧ partBlk 8 = some (.part, 8)
    ∧ (∀ f ∈ fieldsAt .array 0, f.acc = .rws ∧ f.blk = .array) ∧ fieldsAt .array 0 ≠ [] ∧ fieldsAt .part 8 ≠ []
    ∧ (∀ f ∈ fieldsAt .part 8, f.acc = .rwl)
    ∧ (∀ f ∈ fieldsAt .array 0, f.min ≤ (0x03108080 : Nat) % 2 ^ 32 / 2 ^ f.lo % 2 ^ f.width ∧ (0x03108080 : Nat) % 2 ^ 32 / 2 ^ f.lo % 2 ^ f.width ≤ f.max)
    ∧ ({} : Part).getR Reg.COMMIT_STATUS_STATE ≠ 1 ∧ (Part.setR {} Reg.COMMIT_STATUS_STATE 1).getR Reg.COMMIT_STATUS_STATE = 1
    ∧ sealedP.state ≠ 0 ∧ ¬ (2 = 4 ∧ 6 % 4 = 0) ∧ ¬ (2 = 8 ∧ 6 % 8 = 0) := by
  and_intros <;> decide +kernel

/-! ### Start-up, firmware, host ports -/

/-- A module that is up, in the given boot state. -/
def bootS (st : Nat) (b : Boot) : State := ⟨[], Mach.setR { boot := { b with moduleUp := true }, parts := Map.set {} [] 0 sealedP } Reg.BOOT_STATUS_BOOT_STATE st⟩
def goodFw : FwImage := { (default : FwImage) with magic := 0x5248454D, format := 1, zeros := true, svn := 3, codeLen := 64, bytes := 256, sigOk := true, selfOk := true }
theorem wit_StartUp : ({} : Mach).boot.moduleUp = false ∧ (bootS 3 {}).m.boot.moduleUp = true ∧ ({} : Mach).getR Reg.BOOT_STATUS_BOOT_STATE ≠ 3
    ∧ (bootS 3 {}).m.getR Reg.BOOT_STATUS_BOOT_STATE = 3 ∧ (∀ i < 120, ((bootS 3 {}).m.pallet i).powered = false)
    ∧ (bootS 3 {}).m.getR (Reg.SPARE_STATE 7) ≠ 2 ∧ (bootS 3 {}).m.ordered ∧ (∀ o ∈ ([8] : List PalletId), o.val ≠ 7)
    ∧ (∀ i < 120, ∃ o ∈ List.finRange 120, o.val = i) := by
  and_intros <;> decide +kernel
theorem wit_Firmware : (bootS 1 {}).m.getR Reg.BOOT_STATUS_BOOT_STATE = 1 ∧ (bootS 4 {}).m.ready = true ∧ (bootS 4 {}).m.leaseOk ⟨0, 0⟩ = true
    ∧ (bootS 4 { staged := some goodFw }).m.ready = true ∧ ({ staged := some goodFw } : Boot).staged ≠ none
    ∧ goodFw.bytes = 192 + goodFw.codeLen ∧ goodFw.codeLen % 64 = 0 ∧ goodFw.magic.toNat = 0x5248454D ∧ goodFw.format.toNat = 1 ∧ goodFw.sigOk = true
    ∧ ((bootS 2 {}).m.setR Reg.BOOT_LEN 256).getR Reg.BOOT_LEN = goodFw.bytes ∧ ((bootS 2 {}).m.setR Reg.BOOT_LEN 256).getR Reg.BOOT_STATUS_BOOT_STATE = 2
    ∧ (bootS 2 {}).m.getR Reg.SVN_FLOOR ≤ goodFw.svn.toNat ∧ goodFw.svn.toNat < ((bootS 2 {}).m.setR Reg.SVN_FLOOR 9).getR Reg.SVN_FLOOR
    ∧ (let m : Mach := { (bootS 4 { running := some goodFw }).m with beats := 9000000000000 }
      m.boot.runSince + 86400000000 ≤ m.timeUs ∧ m.ready = true ∧ m.ordered)
    ∧ (bootS 4 {}).m.timeUs < (bootS 4 {}).m.boot.runSince + 86400000000 := by
  simp only [Mach.ordered]; and_intros <;> decide +kernel
theorem wit_Handover : (let s := bootS 4 { staged := some goodFw }
      s.m.boot.staged = some goodFw ∧ s.m.boot.inHold = false ∧ s.m.replaces = [] ∧ (∀ p < 16, (s.m.part p).rebuilding = false) ∧ s.m.ordered)
    ∧ (let s := bootS 4 { staged := some goodFw, inHold := true, partsHeld := [0] }; s.m.boot.inHold = true ∧ s.m.boot.partsHeld.Nodup ∧ s.m.ordered)
    ∧ (bootS 4 {}).m.boot.staged = none ∧ (bootS 4 {}).m.boot.inHold = false := by
  simp only [Mach.ordered]; and_intros <;> decide +kernel
def portS (h : HostPort) : State := { leaseS 1 with m := { (leaseS 1).m with ports := [(0, h)] } }
theorem wit_HostPorts : ((portS {}).m.hostPort 0).up = false ∧ ((portS { up := true }).m.hostPort 0).up = true ∧ (portS { up := true }).m.ordered
    ∧ (∀ p : PartId, ((portS { up := true }).m.part p.val).loadOp = none) ∧ (portS { up := true }).m.boot.fetching = none
    ∧ (portS { up := true }).m.getR Reg.HOST_LEASE_HOLDER = (0 : PortId).val + 1 ∧ ((portS {}).m.hostPort 0).perst = false
    ∧ (portS {}).m.boot.moduleUp = true ∧ ((portS { perst := true }).m.hostPort 0).perst = true
    ∧ ({ d0 := true, busMaster := true, vfEnable := false, numVfs := 0 } : FuncCfg).d0 = true ∧ Map.wf {} ((portS {}).m.hostPort 0).funcs = true := by
  simp only [Mach.ordered]; and_intros <;> decide +kernel

/-! ### Supply, power, temperature -/

/-- A module that is up with SEALED partition 0, its feed codes A and B, and a change of what it holds. -/
def feedS (a b : Nat) (f : Mach → Mach := id) : State :=
  { pending := [], m := f (((upS sealedP).m.setR Reg.PWR_STATUS_FEED_A a).setR Reg.PWR_STATUS_FEED_B b) }
theorem wit_Feeds : (feedS 1 1).m.boot.moduleUp = true ∧ (feedS 1 1).m.ordered ∧ (feedS 1 1).m.feedCode 0 = 1 ∧ (feedS 1 1).m.feedCode (1 - 0) = 1
    ∧ ((feedS 1 1).m.feed 0).belowSince = none ∧ ((feedS 1 1).m.feed 0).withdrawn = false ∧ ((feedS 1 1).m.feed 0).low = false
    ∧ ((feedS 1 1).m.part 0).isSealed = true ∧ 0 ∉ (feedS 1 1).m.feedHold ∧ (feedS 0 1).m.ordered ∧ (feedS 0 1).m.feedCode 0 ≠ 1
    ∧ (feedS 0 0).m.feedsInUse = [] ∧ (feedS 0 0).m.ordered
    ∧ (let m := (feedS 0 1 fun m => { m with feeds := [(0, { low := true })] }).m; m.ordered ∧ (m.feed 0).low = true)
    ∧ ((feedS 0 1).m.feed 0).withdrawn = false ∧ ((feedS 0 1).m.feed 0).low = false
    ∧ (let m := (feedS 0 1 fun m => { m with feeds := [(0, { withdrawn := true })] }).m
      m.ordered ∧ m.feedCode 0 ≠ 1 ∧ (m.feed 0).withdrawn = true ∧ (m.feed 0).belowSince = none) := by
  simp only [Mach.ordered]; and_intros <;> decide +kernel
theorem wit_Supply : (feedS 1 1).m.flagR Reg.PWR_STATUS_PWR_WARN_IN = false ∧ (feedS 1 1).m.chatters 4 = false
    ∧ ((feedS 1 1 fun m => m.setR Reg.PWR_STATUS_PWR_WARN_IN 1).m.flagR Reg.PWR_STATUS_PWR_WARN_IN = true)
    ∧ (bladeR25 0x3F800000 0x43480000 0x41C80000).isSome = true ∧ bladeR25 0x3F800000 0x3F800000 0x41C80000 = none
    ∧ ((feedS 1 1).m.pallet 0).powered = true ∧ ((feedS 1 1).m.pallet 0).parked = false
    ∧ (Map.get {} (feedS 1 1 fun m => { m with blades := [(0, { base := 7 })] }).m.blades 0).base ≠ 0
    ∧ (feedS 1 1).m.flagR Reg.CHAIN_CFG_SYNC_SOURCE = false ∧ (feedS 1 1).m.chatters 2 = false ∧ (feedS 1 1).m.sealedParts ≠ []
    ∧ (upS {}).m.syncStepped = false ∧ (upS {}).m.sealedParts = [] ∧ (feedS 1 1 fun m => { m with syncValid := true }).m.syncValid = true
    ∧ (∀ b ∈ [true, false], let m := (upS {}).m; let m : Mach := { m with syncLost := if b then none else some none }
      m.boot.moduleUp = true ∧ m.ordered ∧ m.mayResume = b ∧ m.flagR Reg.CHAIN_CFG_SYNC_SOURCE = false ∧ m.chatters 2 = false ∧ m.syncStepped = false ∧ m.sealedParts = [])
    ∧ (feedS 1 1).m.mayResume = true ∧ (feedS 1 1).m.ordered ∧ (feedS 1 1).m.boot.moduleUp = true
    ∧ (feedS 1 1 fun m => m.setR Reg.CHAIN_CFG_SYNC_SOURCE 1).m.flagR Reg.CHAIN_CFG_SYNC_SOURCE = true := by
  simp only [Mach.ordered]
  and_intros <;> decide +kernel
/-- Partition 0 with budget 100 W, its power state as given. -/
def budgetP (f : Part → Part) : Part := f (Part.setR (Part.setR sealedP Reg.PART_POWER_BUDGET 100) Reg.PART_CFG_POWER_SHARE 2)
theorem wit_PowerSteps : (upS (budgetP id)).m.ordered ∧ (upS (budgetP id)).m.cutNow = false ∧ ((upS (budgetP id)).m.part 0).isSealed = true
    ∧ (feedS 1 1 fun m => m.setR Reg.PWR_CFG_LEND_EN 0).m.flagR Reg.PWR_CFG_LEND_EN = false
    ∧ (upS (budgetP id)).m.share 0 < 65536 ∧ (budgetP id).regsOk
    ∧ (let s : State := { upS (budgetP id) with m := (upS (budgetP id)).m.setR Reg.MODULE_POWER_CAP 550 }; s.m.cutNow = true ∧ s.m.shareCut = false)
    ∧ (let s := upS (budgetP fun P => { P.setR Reg.PART_POWER_DRAW 95 with lent := 5 }); (s.m.part 0).lent ≠ 0 ∧ (s.m.part 0).loan = 0
      ∧ 90 * s.m.share 0 ≤ 100 * (s.m.part 0).getR Reg.PART_POWER_DRAW)
    ∧ (∀ n ∈ [0, 1], let P := (upS (budgetP fun P => { P with powerReq := n })).m.part 0
      P.isSealed = true ∧ P.getR Reg.PART_POWER_BUDGET < [200].getD 0 0 ∧ P.powerReq = n)
    ∧ ((upS (budgetP id)).m.pallet 0).owner = some 0 ∧ ((upS (budgetP id)).m.pallet 0).fast = false
    ∧ (upS (budgetP id)).m.stepAsked 0 0 = 0 ∧ (upS (budgetP fun P => { P with powerReq := 1 })).m.stepAsked 0 0 ≠ 0
    ∧ (upS (budgetP id) none).m.boot.moduleUp = true ∧ ((upS (budgetP id) none).m.pallet 0).owner = none ∧ 0 ∈ (upS (budgetP id)).m.palletsOf 0 ∧ ((upS (budgetP id)).m.pallet 0).parked = false ∧ ((upS (budgetP id)).m.pallet 0).thermal ≤ 2 := by
  simp only [Mach.ordered, Part.regsOk]; and_intros <;> decide +kernel
theorem wit_Thermal : (upS sealedP).m.ordered ∧ (upS sealedP).m.wallFree 0 = true ∧ (upS sealedP).m.wallFree 1 = true ∧ (upS sealedP).m.chatters 3 = false
    ∧ (feedS 1 1 fun m => { m with walls := [(0, { changedAt := some 0 })] }).m.wallFree 0 = false
    ∧ (let m := (feedS 1 1 fun m => { m.setR Reg.PWR_STATUS_EMERG_W0 1 with beats := 1000000 }).m
      m.ordered ∧ m.wallFree 0 = true ∧ m.flagR Reg.PWR_STATUS_EMERG_W0 = true ∧ (m.wall 0).causes = [] ∧ (m.wall 0).causesGoneAt + 100000 ≤ m.timeUs
      ∧ ∀ k < 60, (m.pallet (60 * 0 + k)).tj < 95)
    ∧ (let m := (feedS 1 1 fun m => { m with walls := [(0, { causes := [0] })] }).m
      m.ordered ∧ m.wallFree 0 = true ∧ m.flagR Reg.PWR_STATUS_EMERG_W0 = false ∧ (m.wall 0).causes ≠ [])
    ∧ (upS sealedP).m.getR Reg.PWR_CFG_COOL_MIN ≤ 40 := by
  simp only [Mach.ordered]; and_intros <;> decide +kernel
theorem wit_Telemetry : (upS sealedP).m.boot.moduleUp = true ∧ (∀ c : Fin 6, (upS sealedP).m.chatters c.val = false)
    ∧ (∀ c : Fin 6, (feedS 1 1 fun m => m.setR Reg.SB_STATUS_CHATTER 63).m.chatters c.val = true) := by
  and_intros <;> decide +kernel

/-! ### Rings and requests -/

/-- The rings 0 to 3 are enabled. -/
def servP (f : Part → Part := id) : Part :=
  f ([0, 1, 2, 3].foldl (fun P r => P.setR (Reg.RING_CFG_ENABLE r) 1) sealedP)
/-- Function 5 of port 0 carries the rings of partition 0. -/
def servS (P : Part) : State :=
  let m := ((upS P).m.setR (Reg.FUNC_MAP_PE0_VALID 0) 1).setR (Reg.FUNC_MAP_PE0_FUNC 0) 5
  ⟨[], { m with ports := [(0, { up := true, vfEnable := true, numVfs := 8, funcs := [(5, { d0 := true, busMaster := true })] })] }⟩
theorem wit_Doorbells : (let s := servS (servP); let P := s.m.part 0
      s.m.ordered ∧ Map.sortedFrom 0 P.rings = true ∧ s.m.bellOwner ⟨0, 3⟩ 0 = false ∧ s.m.bellOwner ⟨0, 5⟩ 0 = true ∧ P.ringOn 0 = true ∧ 4 < P.ringSize 0
      ∧ 4 ≠ P.fetchIdx ∧ (s.m.hctx 0).up = true ∧ P.isSealed = true ∧ P.ringOn 1 = true ∧ P.fetching = [] ∧ P.owed = 0 ∧ P.ringUsed 1 = 0 ∧ (P.ring 1).waiting = []
      ∧ P.confidential = false ∧ ((upS sealedP).m.part 0).ringOn 0 = false ∧ P.ringSize 0 ≤ 65535)
    ∧ (∀ r ∈ [1, 2, 3], (servP).ringOn r = true ∧ 0 < (servP).ringSize r
      ∧ ((servP).ringSize r + 0 - ((servP).ring r).cons) % (servP).ringSize r ≤ (servP).ringUsed r)
    ∧ (let s := servS (servP fun P => { P with rings := [(1, { unsignalled := 2 })] }); ((s.m.part 0).ring 1).unsignalled ≠ 0 ∧ (s.m.hctx 0).up = true
      ∧ (({ s.m with beats := 10000000 } : Mach).part 0).getR (Reg.RING_CFG_COAL_US 1) ≤ ({ s.m with beats := 10000000 } : Mach).timeUs) := by
  simp only [Mach.ordered]; and_intros <;> decide +kernel
/-- A GENERATE descriptor of stream 0, and bytes of TYPE 0xFF. -/
def genBytes : List Byte := leBytes 128 1
theorem wit_DescriptorFetch : (let P := (servS (servP fun P => { P with fetching := [⟨3, 0, none⟩], owed := 1, fetchNext := 4 })).m.part 0
      P.fetching = [⟨3, 0, none⟩] ∧ P.faultEnds = 0 ∧ P.confidential = false ∧ P.fetchIdx = P.tail ∧ (P.ring 3).waiting = [])
    ∧ (servS (servP)).m.boot.fixedSlots = false ∧ (servS (servP)).m.dmaServes 0 = true
    ∧ (let m : Mach := { boot := { fixedSlots := true } }; m.boot.fixedSlots = true ∧ (m.hostPort ((m.part 0).getR Reg.SERVE_CFG_PORT)).serving ≠ some 0)
    ∧ (readDesc genBytes).isSome = true ∧ readDesc (leBytes 128 0xFF) = none
    ∧ (∀ bs ∈ [genBytes, leBytes 128 0xFF], bs.length = 128) ∧ (({} : Part).openEnv none 0x01 0 3 128).2 = true
    ∧ (let P := (servS (servP fun P => { P.setR Reg.PART_CFG_SEC_MODE 1 with fetching := [⟨3, 0, none⟩], owed := 1, fetchNext := 4 })).m.part 0
      P.fetching = [⟨3, 0, none⟩] ∧ P.faultEnds = 0 ∧ P.confidential = true ∧ P.fetchIdx = P.tail ∧ (P.ring 3).waiting = []
      ∧ (P.openEnv none 0x01 0 3 128).2 = false ∧ (P.openEnv (some ⟨3, 128, 1, 0, 0, true⟩) 0x01 0 3 128).2 = true) := by
  and_intros <;> decide +kernel

/-- A partition that serves: a resident version 0, slots, pages, classes and steering entries. -/
def readyP (f : Part → Part := id) : Part :=
  f { [(Reg.CLASS_CFG_VALID 0, 1), (Reg.SERVE_CFG_SLOT_COUNT, 2), (Reg.KV_POOL_KV_PAGES, 9), (Reg.PREFILL_RATE, 1000), (Reg.WVER_CFG_HOLD_MAX, 3),
      (Reg.CLASS_TIME_QUEUE_BOUND 0, 50), (Reg.STEER_CFG_STEER_ENTRIES, 4)].foldl (fun P x => P.setR x.1 x.2) (servP) with
      places := [(0, { state := .resident, header := some { vocab := 100, steerLayers := 1, steerWidth := 16, steerEntries := 4, result := [5], resultBase := 0x1000 } })]
      steers := [(1, { state := .ready })] }
def genD : Desc := { len := 4, maxNew := 4, topP := 0x3F800000 }
def tuneD : Desc := { type := .tune, steer := 1, len := 2, maxNew := 1, temp := 0x3F800000 }
def handP (d : Desc) (f : Part → Part := id) : Part := readyP fun P => f { P with handed := [⟨3, 0, d⟩] }
theorem wit_Admission : (∀ d ∈ [genD, tuneD], Part.admission { handP d with handed := [] } 0 d = .accept ∧ Part.freeSlot (handP d) = some 0 ∧ (handP d).descOk d = true ∧ (handP d).faulted = false
      ∧ (handP d).handed = [⟨3, 0, d⟩] ∧ ((handP d).ring (3 + d.stream)).waiting = [])
    ∧ genD.type = .generate ∧ tuneD.type = .tune
    ∧ (readyP fun P => P.setR Reg.TURN_CFG_FAULTED 1).admission 0 genD = .fail .partFaulted 0 0
    ∧ (readyP).descOk { genD with len := 0 } = false
    ∧ (readyP fun P => P.setR Reg.WVER_CFG_WVER_STATE 1).admission 0 { genD with wver := 0xFF } = .hold
    ∧ (handP { genD with wver := 0xFF } fun P => P.setR Reg.WVER_CFG_WVER_STATE 1).handed = [⟨3, 0, { genD with wver := 0xFF }⟩]
    ∧ (readyP fun P => P.setR Reg.TURN_CFG_FAULTED 1).faulted = true ∧ (handP { genD with len := 0 }).faulted = false := by
  and_intros <;> decide +kernel
/-- Slot 0 holds request 8, which is bound or not. -/
def boundP (r : Req) (b : Bool) (f : Part → Part := id) : Part := readyP fun P => f { P with slots := [(0, { req := some r, bound := b })] }
def genR : Req := { seq := 8, desc := genD }
theorem wit_Controls : (let P := handP { type := .draft, target := 8 } fun P => { P with slots := [(0, { req := some { genR with desc := { genD with draftSource := 3 } }, bound := true })] }
      P.hostSlot 8 ≠ none ∧ P.hostSlot 9 = none ∧ (P.ring 3).waiting = [] ∧ P.handed ≠ [])
    ∧ (let P := readyP; let d : Desc := { type := .steerWrite, steer := 1, len := 4096 }
      d.steer < P.getR Reg.STEER_CFG_STEER_ENTRIES ∧ d.addr.toNat % 64 = 0 ∧ P.anyHeader.steerBytes ≤ d.len ∧ P.steerNamed 1 = false ∧ (P.steer 1).state ≠ .tuning)
    ∧ (boundP { genR with desc := { genD with steer := 1 } } true).steerNamed 1 = true ∧ ¬ (5 < (readyP).getR Reg.STEER_CFG_STEER_ENTRIES)
    ∧ (∀ ty ∈ [DescType.cancel, .draft, .steerWrite, .steerRead], let P := handP { type := ty, steer := 1, len := 4096 }
      P.handed = [⟨3, 0, { type := ty, steer := 1, len := 4096 }⟩] ∧ (P.ring 3).waiting = [] ∧ 1 < P.getR Reg.STEER_CFG_STEER_ENTRIES
      ∧ ({} : Desc).addr.toNat % 64 = 0 ∧ P.anyHeader.steerBytes ≤ 4096 ∧ P.hostSlot 0 = none)
    ∧ ({ addr := 8 } : Desc).addr.toNat % 64 ≠ 0 ∧ ({} : Desc).steer = 0 ∧ (handP genD).handed ≠ [] ∧ genD.type ≠ .cancel := by
  and_intros <;> decide +kernel
theorem wit_Payloads : (servS (boundP genR false)).m.dmaServes 0 = true ∧ (let P := (servS (boundP genR false)).m.part 0
      P.slots = [(0, { req := some genR })] ∧ P.reads = [] ∧ P.confidential = false ∧ genR.ending = none ∧ genR.desc.type = .generate ∧ genR.done = 0
      ∧ genR.back = false ∧ genR.tokens = 0 ∧ ((P.place genR.wver.val).header.getD {}).vocab = 100)
    ∧ (leBytes 16 0x00000001).length = 4 * genR.desc.len ∧ (∀ k < 4, leNat (((leBytes 16 1).drop (4 * k)).take 4) < 100)
    ∧ 100 ≤ leNat (((leBytes 16 100).drop (4 * 0)).take 4)
    ∧ (let m : Mach := { (servS (boundP genR false)).m with beats := 1000000 }
      genR.acceptUs + 1000 * (m.part 0).getR (Reg.CLASS_TIME_QUEUE_BOUND 0) ≤ m.timeUs)
    ∧ (let P := (servS (boundP genR false)).m.part 0; (P.openEnv none 0x02 0 8 16).2 = true ∧ (P.openEnv none 0x03 0 8 1).2 = true
      ∧ leNat [3] % 2 ^ genR.desc.len ≠ 0 ∧ leNat [0xF0] % 2 ^ genR.desc.len = 0)
    ∧ (let P := (servS (boundP genR false fun P => P.setR Reg.PART_CFG_SEC_MODE 1)).m.part 0
      P.slots = [(0, { req := some genR })] ∧ (P.openEnv none 0x02 0 8 16).2 = false)
    ∧ (∀ c < 2, let d : Desc := { type := .steerWrite, steer := 1, len := 4096 }
      let P := (servS (readyP fun P => { P.setR Reg.PART_CFG_SEC_MODE c with reads := [⟨8, 0, d⟩] })).m.part 0
      P.reads = [⟨8, 0, d⟩] ∧ (P.ring (3 + d.stream)).waiting = [] ∧ (P.openEnv none 0x05 0 8 P.anyHeader.steerBytes).2 = decide (c = 0)
      ∧ P.steerHeaderOk 1 (leBytes 64 (2 ^ 48 * 16 + 2 ^ 32 + 1)) = true ∧ P.steerHeaderOk 1 (leBytes 64 7) = false)
    ∧ (servS (boundP genR false)).m.timeUs < genR.acceptUs + 1000 * ((servS (boundP genR false)).m.part 0).getR (Reg.CLASS_TIME_QUEUE_BOUND 0) := by
  and_intros <;> decide +kernel

/-! ### Beats and turns -/

/-- Partition 0 with tile 5 as a member. -/
def memT : Tile := { core with member := true }
def memS (T : Tile) (P : Part) (f : Mach → Mach := id) : State :=
  { pending := [], m := f { (servS P).m with tiles := [(5, { T with member := true })] } }
theorem wit_Beats : (memS core (readyP)).m.members 0 = [5] ∧ (servS (readyP)).m.members 0 = []
    ∧ (let P := (memS core (readyP)).m.part 0; P.decided = false ∧ P.flagR Reg.TURN_CFG_CHAINED = false ∧ P.forced = [] ∧ P.service = 0 ∧ P.haltReq = false
      ∧ P.abandonReq = false ∧ P.abandoning = false ∧ P.beatNow < 65535 ∧ P.nextHeld = false ∧ P.boundaryNext = false)
    ∧ ((memS { core with beatDue := some 1 } (readyP)).m.tile 5).beatDue = some (((memS core (readyP)).m.part 0).beatNow + 1)
    ∧ ((memS { core with beatDue := some 1 } (readyP)).m.tile 5).beatWait = false ∧ ((memS core (readyP)).m.tile 5).run ≠ .inTurn
    ∧ ¬ ((memS core (readyP)).m.tile 5).beatDue = some 1
    ∧ (readyP fun P => { P with decided := true, nextHeld := true }).nextHeld = true ∧ (readyP fun P => { P with decided := true, boundaryNext := true }).boundaryNext = true
    ∧ (let m := (memS { core with arrs := [(0, { validA with calDue := some 0, calEscalated := true })] } (readyP)).m
      m.owner 5 = some 0 ∧ (5, 0) ∉ (m.part 0).forced ∧ (m.tile 5).member = true ∧ m.forcedItem 5 0 = true ∧ (m.part 0).inService = false)
    ∧ (memS core (readyP)).m.owner 26400 = none ∧ (memS core (readyP)).m.forcedItem 5 0 = false
    ∧ (∀ f ∈ [id, fun P : Part => { P with forced := [(5, 0)] }, fun P => { P with service := 1 }, fun P => { P with haltReq := true }], let m := (memS core (readyP f)).m
      m.members 0 = [5] ∧ (m.part 0).decided = false ∧ (m.part 0).flagR Reg.TURN_CFG_CHAINED = false ∧ (m.tile 5).beatDue = none)
    ∧ (readyP fun P => { P with forced := [(5, 0)] }).forced ≠ [] ∧ (readyP fun P => { P with service := 1 }).inService = true ∧ (readyP).inService = false
    ∧ (let m := (memS core (readyP fun P => { P with beatNow := 65535 })).m; (m.part 0).beatNow = 65535 ∧ m.allInTurn 0 = false)
    ∧ (let m := (memS { core with run := .inTurn } (readyP fun P => P.setR Reg.TURN_CFG_CHAINED 1)).m
      (m.part 0).flagR Reg.TURN_CFG_CHAINED = true ∧ m.allInTurn 0 = true ∧ (∀ b ∈ [true, false], Mach.chainReady { m with chainIn := b } (m.part 0) = !b))
    ∧ (∀ x ∈ [(true, false, false), (false, false, false), (false, true, false), (false, true, true)]
      , let s := memS core (readyP fun P => { P with decided := true, nextHeld := x.1, boundaryNext := x.2.1, abandonReq := x.2.2 }); let P := s.m.part 0
      s.m.ordered ∧ s.m.members 0 = [5] ∧ P.decided = true ∧ P.nextHeld = x.1 ∧ P.boundaryNext = x.2.1 ∧ P.abandonReq = x.2.2 ∧ P.abandoning = false) := by
  simp only [Mach.ordered]
  and_intros <;> decide +kernel
/-- A chained partition within a turn. -/
def chainP (f : Part → Part := id) : Part := readyP fun P => f { P.setR Reg.TURN_CFG_CHAINED 1 with inTurn := true }
theorem wit_ChainHold : (∀ b ∈ [true, false], ∀ h ∈ [true, false], let m := (memS core (chainP fun P => { P with chainFound := b, haltReq := h })).m
      m.chained = some 0 ∧ (m.part 0).inTurn = true ∧ (m.part 0).chainFound = b ∧ (m.part 0).chainRelease = false ∧ (m.part 0).haltReq = h ∧ (m.part 0).stepping = false)
    ∧ (let m := (memS core (chainP fun P => { P with inTurn := false })).m; m.chained = some 0 ∧ (m.part 0).inTurn = false)
    ∧ (memS core (readyP)).m.chained = none
    ∧ (memS core (chainP) fun m => { m with chainOut := true }).m.chainOut = true ∧ (memS core (chainP)).m.chainOut = false := by
  and_intros <;> decide +kernel
/-- The card entry of slot 0 in a decode turn. -/
def cardE (dec : Bool) : CardEntry := ⟨0, dec, !dec, false, true, false, 0, 1, 0, 4, 0, 0, false⟩
theorem wit_Abandonment : (let P := (memS core (readyP)).m.part 0; ¬ 75 * P.getR Reg.TURN_CFG_HOLD_WD ≤ 8 * P.holdUs ∧ P.decided = false ∧ P.abandonReq = false
      ∧ (memS core (readyP)).m.members 0 ≠ [])
    ∧ (∀ x ∈ [(false, false), (true, false), (false, true)], let s := memS core (readyP fun P => { P with
          decided := true, holdUs := 2 ^ 32, abandoning := x.1, replay := x.2, wdFirst := x.2, card := [cardE true] }); let P := s.m.part 0
      s.m.members 0 ≠ [] ∧ P.decided = true ∧ 75 * P.getR Reg.TURN_CFG_HOLD_WD ≤ 8 * P.holdUs ∧ P.flagR Reg.TURN_CFG_CHAINED = false ∧ P.abandonReq = false
      ∧ P.replay = x.2 ∧ P.wdFirst = x.2 ∧ P.abandoning = x.1 ∧ Map.sortedFrom 0 P.slots = true ∧ P.card ≠ [])
    ∧ (let s := memS { core with run := .inTurn } (chainP fun P => { P with decided := true, holdUs := 2 ^ 32 }) fun m => { m with chainIn := true }; let P := s.m.part 0
      s.m.members 0 ≠ [] ∧ P.decided = true ∧ 75 * P.getR Reg.TURN_CFG_HOLD_WD ≤ 8 * P.holdUs ∧ P.flagR Reg.TURN_CFG_CHAINED = true ∧ s.m.allInTurn 0 = true
      ∧ s.m.chainReady P = false ∧ P.abandonReq = false ∧ P.abandoning = false ∧ P.replay = false)
    ∧ (let s := memS core (readyP fun P => { P with abandonReq := true }); (s.m.part 0).abandonReq = true ∧ (s.m.part 0).abandoning = false ∧ s.m.ordered
      ∧ 5 ∈ s.m.tilesOf 0)
    ∧ (let s := memS { core with run := .abandoned } (readyP fun P => { P with abandonReq := true, abandoning := true }); let P := s.m.part 0
      P.abandoning = true ∧ s.m.drained 0 = true ∧ s.m.ordered ∧ P.regsOk ∧ P.turnSeq + 1 < 2 ^ 64 ∧ P.card = [])
    ∧ (let s := memS { core with run := .abandoned } (boundP genR true fun P => { P with abandonReq := true, abandoning := true, card := [cardE true] })
      let P := s.m.part 0
      P.abandoning = true ∧ s.m.drained 0 = true ∧ s.m.ordered ∧ P.regsOk ∧ P.turnSeq + 1 < 2 ^ 64
      ∧ ∀ e ∈ P.card, (P.slot e.slot.val).failedOnce = false ∧ (P.slot e.slot.val).kvLost = false)
    ∧ (let s := memS { waitT 1 with run := .abandoned } (readyP fun P => { P with abandoning := true }); s.m.drained 0 = false) := by
  simp only [Mach.ordered, Part.regsOk]; and_intros <;> decide +kernel
def turnP (f : Part → Part := id) : Part := boundP genR true fun P => f { P with card := [cardE true], inTurn := true }
theorem wit_TurnBoundaries_result : (∀ b ∈ [true, false], let s := memS { core with full := if b then [(64, true)] else [] } (turnP); let P := s.m.part 0
      cardE true ∈ P.card ∧ (∀ f ∈ P.card, f.slot = 0 → f = cardE true) ∧ P.resultAt 0 = some (5, 0x1000) ∧ P.collected = [] ∧ P.abandonReq = false
      ∧ P.abandoning = false ∧ (s.m.tile 5).tagFull 64 = b ∧ (∀ k < 3, (s.m.tile 5).found (64 + k) = .clean))
    ∧ recordOk (cardE true) false none 0 (2 ^ 16) = true ∧ recordOk (cardE true) false none 0 1 = false
    ∧ (turnP).card ≠ [] ∧ (turnP).collected = [] ∧ 0x1000 % 64 = 0 ∧ (turnP).card.takeWhile (fun f => f.slot.val != 0) = []
    ∧ (((memS core (turnP)).m.tile 5).refuseAccess 0x1000 192 = none)
    ∧ (((memS { core with banks := [(0, { pwr := .off })] } (turnP)).m.tile 5).refuseAccess 0x1000 192 ≠ none)
    ∧ (let T := (memS { core with full := [(64, true)], poison := [(65, true)] } (turnP)).m.tile 5
      T.tagFull 64 = true ∧ T.found 65 = .bad ∧ T.refuseAccess 0x1000 192 = none)
    ∧ (memS core (turnP)).m.mayTurn 0 = false := by
  and_intros <;> decide +kernel
/-- Slot 1's record waits for slot 0's. -/
theorem wit_TurnBoundaries_order : (let P := (memS core (turnP fun P => { P with card := [cardE true, { cardE true with slot := 1 }] })).m.part 0
      { cardE true with slot := 1 } ∈ P.card ∧ (∀ f ∈ P.card, f.slot = 1 → f = { cardE true with slot := 1 }) ∧ P.collected = []
      ∧ cardE true ∈ P.card.takeWhile fun f => f.slot.val != 1)
    ∧ (readyP).steerReady 0 = true ∧ (readyP).tablesOut = []
    ∧ (let s := servS (readyP); s.m.members 0 = [] ∧ s.m.beats ≤ (s.m.part 0).idleAt)
    ∧ (let m : Mach := { (servS ({})).m with beats := 7 }; m.members 0 = [] ∧ (m.part 0).idleAt < m.beats ∧ (m.part 0).isSealed = false) := by
  and_intros <;> decide +kernel
theorem wit_TurnBoundaries_turn : (let s := memS { core with run := .inTurn } (readyP fun P => { P with
        decided := true, boundaryNext := true, card := [cardE true], collected := [(0, [])], inTurn := true }); let P := s.m.part 0
      P.isSealed = true ∧ s.m.mayTurn 0 = true ∧ P.flagR Reg.TURN_CFG_CHAINED = false ∧ P.card ≠ [] ∧ (∀ f ∈ P.card, ∃ x ∈ P.collected, x.1 = f.slot.val)
      ∧ P.slots = [] ∧ P.beatNow < 65535 ∧ P.regsOk ∧ P.tablesOut = [] ∧ s.m.ordered)
    ∧ (let s := memS { core with run := .inTurn } (boundP genR false fun P => { P with decided := true, boundaryNext := true }); let P := s.m.part 0
      s.m.mayTurn 0 = true ∧ P.card = [] ∧ P.inTurn = false ∧ P.slots = [(0, { req := some genR })] ∧ s.m.ordered ∧ P.turnSeq + 1 < 2 ^ 64 ∧ P.regsOk
      ∧ (s.m.tile 5).run = .inTurn ∧ s.m.members 0 = [5] ∧ P.steerReady genR.desc.steer = true ∧ genR.promptRead = false ∧ 0 < genR.desc.len)
    ∧ ((servS {}).m.part 0).isSealed = false ∧ ((servS {}).m.part 0).getR Reg.COMMIT_STATUS_STATE ≠ 1
    ∧ (cardE false).decode = false ∧ (cardE false).lastChunk = false ∧ (cardE false).rebuild = false := by
  simp only [Mach.ordered, Part.regsOk]; and_intros <;> decide +kernel
theorem wit_TurnBoundaries_quiet : (boundP genR false fun P => { P with steers := [], decided := true, boundaryNext := true }).quiet
    ∧ (readyP fun P => { P with steers := [], decided := true, boundaryNext := true, card := [cardE true], collected := [(0, [])], inTurn := true }).quiet := by
  simp only [Part.quiet]; and_intros <;> decide +kernel

/-! ### Loading -/

/-- A manifest of one HEADER shard of 64 B for hop 0 (R341, R342). -/
def manBytes : List Byte :=
  leBytes 8 (0x4D49584C + 2 ^ 32) ++ leBytes 16 7 ++ leBytes 4 1 ++ leBytes 4 1 ++ leBytes 8 64 ++ leBytes 88 9
    ++ leBytes 8 (2 ^ 32) ++ leBytes 8 1 ++ leBytes 8 0 ++ leBytes 72 64 ++ leBytes 128 0
def shard9 (hops : W64) : ShardEnt := ⟨9, hops, 0, 64⟩
def manF : Manifest := ⟨7, 1, 64, 9, 0, [shard9 1, shard9 1]⟩
/-- A partition that loads place 1 from port PE0; its place has the given manifest. -/
def loadP (L : Option Load) (mf : Option Manifest) (f : Part → Part := id) : Part :=
  f { (Part.setR (servP) Reg.LOAD_SRC_SRC_PE0 1) with loadOp := L, places := [(1, { state := .loading, manifest := mf })] }
def load1 : Load := { place := 1 }
theorem wit_LoadCommands : (∀ L ∈ [none, some load1, some { load1 with held := true, failedShard := some 0 }], let s := servS (loadP L none); let P := s.m.part 0
      s.m.reaches ⟨0, 5⟩ 0 = true ∧ P.isSealed = true ∧ P.confidential = false ∧ P.loadOp = L ∧ s.m.sourceBad 0 = false ∧ (P.place 0).state = .empty
      ∧ (L = none → s.m.loadBusy 0 = false) ∧ P.flagR Reg.LOAD_SRC_SRC_PE0 = true ∧ P.fromUp = false)
    ∧ (servS (servP)).m.sourceBad 0 = true ∧ (servS (servP)).m.loadBusy 0 = false ∧ (servS (servP)).m.reaches ⟨0, 3⟩ 0 = false
    ∧ load1.place ≠ 2 ∧ load1.held = false ∧ load1.registerOnly = false
    ∧ ((loadP none none fun P => { P with places := [(1, { state := .removing })] }).place 1).state = .removing := by
  and_intros <;> decide +kernel
theorem wit_LoadCommands_more : (let P := (servS (loadP none none fun P => { P.setR Reg.PART_CFG_SEC_MODE 1 with keys := { inKey := some default } })).m.part 0
      P.confidential = true ∧ P.keys.inKey ≠ none ∧ P.isSealed = true)
    ∧ (let s := servS (loadP (some { load1 with registerOnly := true }) none); (s.m.part 0).loadOp = some { load1 with registerOnly := true } ∧ s.m.reaches ⟨0, 5⟩ 0 = true)
    ∧ ({ load1 with programmed := [(5, 0)] } : Load).programmed ≠ [] ∧ ((servS (loadP none (some manF))).m.part 0).place 0 = {} := by
  and_intros <;> decide +kernel
theorem wit_LoadCommands_order : (loadP (some load1) none).regsOk ∧ Map.sortedFrom 0 (loadP (some load1) none).places = true
    ∧ (servS (loadP (some load1) none)).m.ordered ∧ Map.sortedFrom 0 load1.failures = true := by
  simp only [Mach.ordered, Part.regsOk]; and_intros <;> decide +kernel
/-- The partition's load has read its manifest, and asks for shards. -/
def shardS (L : Load) : State := servS (loadP (some L) (some manF) fun P => P.setR Reg.LOAD_STATUS_STATE 2)
theorem wit_LoadShards_manifest : (let s := servS (loadP (some load1) none fun P =>
        { (P.setR Reg.LOAD_STATUS_STATE 1).setR Reg.MANIFEST_LEN 352 with keys := { image := [(0, some ⟨9, 0⟩)] } }); let P := s.m.part 0
      (P.confidential = false ∧ P.hop = 0 ∧ P.flagR Reg.LOAD_SRC_SRC_PE0 = true ∧ P.flagR Reg.LOAD_SRC_SRC_PE1 = false
        ∧ P.flagR Reg.LOAD_SRC_SRC_UP = false ∧ P.flagR Reg.RELAY_CFG_DOWN_EN = false) ∧ P.getR Reg.LOAD_STATUS_STATE = 1
      ∧ P.loadManifest load1 = none ∧ P.getR Reg.MANIFEST_LEN = manBytes.length)
    ∧ ((parseManifest manBytes 0).map fun f => f.keyId) = some 9 ∧ parseManifest (leBytes 352 0) 0 = none ∧ manBytes.length = (leBytes 352 0).length := by
  and_intros <;> decide +kernel
theorem wit_LoadShards_envelopes : (let P := (servS (loadP (some load1) none fun P => P.setR Reg.PART_CFG_SEC_MODE 1)).m.part 0
      P.confidential = true ∧ P.loadOp = some load1 ∧ (P.openEnv none 0x06 1 manifestIx 352).2 = false ∧ load1.relayed = false
      ∧ (P.openEnv (some ⟨manifestIx, 352, 6, 1, 0, true⟩) 0x06 1 (P.keys.loads * 2 ^ 32 + manifestIx) 352).2 = true
      ∧ (P.openEnv none 0x07 1 0 64).2 = false ∧ (P.openEnv (some ⟨0, 64, 7, 1, 0, true⟩) 0x07 1 (P.keys.loads * 2 ^ 32 + 0) 64).2 = true)
    ∧ (((manF.shards.map (·.off)).zip ((manF.shards.map (·.off)).drop 1)).all fun x => decide (x.1 < x.2)) = false
    ∧ (({} : Part).openEnv none 0x06 1 0 352).2 = true
    ∧ (∀ L ∈ [load1, { load1 with inFlight := [0, 1] }, { load1 with inFlight := [0, 1], failures := [(1, 7)] }], (((shardS L).m.part 0).loadOp = some L
      ∧ ((shardS L).m.part 0).loadManifest L = some manF ∧ L.held = false ∧ L.tablesDue = false ∧ L.staged = false ∧ L.registerOnly = false)) := by
  and_intros <;> decide +kernel
theorem wit_LoadShards_shards : (let P := (shardS load1).m.part 0
      P.getR Reg.LOAD_STATUS_STATE ≠ 1 ∧ P.loadManifest load1 = some manF ∧ P.ownIdx manF = [0, 1] ∧ P.takenIdx load1 manF = [0, 1]
      ∧ load1.tablesDue = false ∧ load1.staged = false ∧ load1.runs = [] ∧ ((shardS load1).m.hostPort 0).up = true
      ∧ (shardS load1).m.storeUsed 0 + 64 ≤ (shardS load1).m.storeRoom 0 ∧ P.residentPlaces = [] ∧ P.ownShard (shard9 1) = true)
    ∧ 0 ∉ load1.inFlight ∧ 1 ∈ ({ load1 with inFlight := [0, 1] } : Load).inFlight ∧ manF.shards[1]? = some (shard9 1) ∧ (leBytes 64 0).length = (shard9 1).len
    ∧ (parseShard 0 9 (leBytes 64 (2 ^ 64 * 0xFFFFFFFF + 2 ^ 32 * 9))).any (fun h => orderOk [] h
      && h.payload.length == 8 * (((shardS load1).m.part 0).loadHeader load1).layers * (((shardS load1).m.part 0).loadHeader load1).kvHeads) = true
    ∧ ([0, 1].find? fun x => !([] ++ [0]).contains x) = some 1 := by
  and_intros <;> decide +kernel
/-- Both shards name the hops 0 and 1. -/
def manG : Manifest := { manF with shards := [shard9 3, shard9 3] }
/-- A load that takes its image from upstream on port 2, or passes it down on port 3 to hops 1 and 2. -/
def relayS (up : Bool) (L : Load) : State :=
  servS (loadP (some L) (some manG) fun P =>
    (if up then ((P.setR Reg.LOAD_SRC_SRC_UP 1).setR Reg.RELAY_CFG_UP_PORT 2).setR Reg.RELAY_CFG_HOP 1
      else (P.setR Reg.RELAY_CFG_DOWN_EN 1).setR Reg.RELAY_CFG_DOWN_PORT 3).setR Reg.LOAD_STATUS_STATE 2)
theorem wit_Relay : (relayS false load1).m.upPart 2 = none ∧ (relayS true load1).m.downPart 3 = none ∧ (relayS true load1).m.upPart 2 = some 0
    ∧ (relayS false load1).m.downPart 3 = some 0 ∧ ((relayS true load1).m.part 0).loadOp = some load1 ∧ ((relayS true load1).m.part 0).getR Reg.LOAD_STATUS_STATE ≠ 1
    ∧ Map.find load1.keptShards 0 = none ∧ 0 ∉ load1.applied ∧ ((relayS true load1).m.part 0).loadManifest load1 = some manG
    ∧ Map.get 0 load1.failures 0 + 1 < 8 ∧ (relayS true load1).m.storeUsed 0 + (shard9 3).len ≤ (relayS true load1).m.storeRoom 0
    ∧ (let L : Load := { load1 with keptShards := [(1, [])], forward := [1, 2], acked := [2] }
      L.forwards (shard9 3) = true ∧ L.stopAt = none ∧ 1 ∉ L.acked ∧ Map.find L.keptShards 1 = some [] ∧ manG.shards[1]? = some (shard9 3))
    ∧ (let P := (relayS false load1).m.part 0; P.loadManifest load1 = some manG
      ∧ (P.ownIdx manG).find? (fun k => !load1.applied.contains k) = some 0) := by
  and_intros <;> decide +kernel

/-! ### Links, security, debug -/

/-- Port AL_00 in a state, with its link as given. -/
def alS (st : Nat) (k : Link) (P : Part := {}) : State := { upS P with m := { (upS P).m.setR (Reg.AL_STATUS_STATE 0) st with links := [(0, k)] } }
theorem wit_AlpiunPorts : ({} : Mach).boot.moduleUp = false ∧ (∀ n < 7, (alS n {}).m.getR (Reg.AL_STATUS_STATE 0) = n) ∧ (alS 5 {}).m.boot.moduleUp = true
    ∧ (alS 0 {}).m.alBarred 0 = false ∧ (alS 0 { lowPower := true }).m.alBarred 0 = true ∧ ((alS 5 { trained := true }).m.link 0).trained = true
    ∧ (5 : BitVec 12).toNat ≠ ((alS 5 {}).m.link 0).expected ∧ (0 : BitVec 12).toNat = ((alS 5 {}).m.link 0).expected
    ∧ (let s := alS 5 { turnOff := some 0 } (chainP); s.m.chainPart = some 0 ∧ (s.m.link 0).turnOff = some 0
      ∧ (((9 : Byte).toNat : Int) - 0) % 256 ≠ (s.m.part 0).turnSeq % 256 ∧ (((9 : Byte).toNat : Int) - 0) % 256 ≠ ((s.m.part 0).turnSeq + 1) % 256)
    ∧ ((alS 5 { replayBuf := [⟨3, []⟩] }).m.link 0).replayBuf = [] ++ ⟨3, []⟩ :: [] ∧ (3 : BitVec 12).toNat = 3
    ∧ ((alS 5 { replayBuf := [⟨3, []⟩, ⟨4, []⟩] }).m.link 0).replayBuf = [⟨3, []⟩] ++ ⟨4, []⟩ :: [] ∧ (∀ g ∈ ([⟨3, []⟩, ⟨4, []⟩] : List Frame), g.seq ≠ (2 : BitVec 12).toNat)
    ∧ (4 : BitVec 12).toNat = 4 ∧ (∀ g ∈ ([⟨3, []⟩] : List Frame), g.seq ≠ (4 : BitVec 12).toNat)
    ∧ (alS 5 {}).m.ordered ∧ ((alS 5 {}).m.link 0).lanesTest = [] ∧ ((alS 5 {}).m.link 0).lowPower = false ∧ ((alS 5 { credits := 0 }).m.link 0).outbox = []
    ∧ (alS 5 { credits := 0 }).m.chainPart = none
    ∧ (let m := (alS 5 {}).m; (m.link 0).outbox = [] ∧ m.chainPart = none ∧ 1 ≤ (m.link 0).credits ∧ (m.link 0).replayBuf.length < 128 ∧ 16 + 64 * 1 ≤ 2048)
    ∧ ((alS 5 { credits := 0 }).m.link 0).credits < 1 ∧ (∀ k < 8, (alS 5 {}).m.laneFault 0 k = false)
    ∧ ((alS 5 {}).m.pallet (linkPallet 0)).dark = false ∧ 2 ∈ ((alS 5 { lanesTest := [2] }).m.link 0).lanesTest := by
  simp only [Mach.ordered]; and_intros <;> decide +kernel
theorem wit_AlpiunPorts_peer : (∃ serial : W64, serial ≠ Config.serial) ∧ (alS 4 {}).m.ordered := by
  constructor
  · exact ⟨Config.serial + 1, by simp⟩
  · simp only [Mach.ordered]; decide +kernel
/-- Function 5 of port 0 with its SPDM connection at `n`. -/
def spdmS (n : Nat) (b : Boot) : State :=
  { servS (readyP) with m := { (servS (readyP)).m with boot := b, ports := [(0, { up := true, vfEnable := true, numVfs := 8, funcs := [(5, { d0 := true, busMaster := true, spdm := n })] })] } }
theorem wit_Attestation : ({} : Mach).ready = false ∧ (∀ n < 4, (spdmS n {}).m.ready = true ∧ (spdmS n {}).m.spdmState (.doe ⟨0, 5⟩) = n
      ∧ (spdmS n {}).m.spdmBusy (.doe ⟨0, 5⟩) = false ∧ ((spdmS n {}).m.hostPort 0).up = true)
    ∧ (spdmS 3 { inHold := true }).m.spdmBusy (.doe ⟨0, 5⟩) = true ∧ (spdmS 3 {}).m.boot.aliasKey = none
    ∧ (spdmS 3 { aliasKey := some (1, 2) }).m.boot.aliasKey = some (1, 2) ∧ (spdmS 3 { aliasKey := some (1, 2) }).m.boot.tampered = false
    
    ∧ (spdmS 3 {}).m.attests = false
    ∧ (let s := portS { up := true }; let m := s.m.setR Reg.BOOT_STATUS_BOOT_STATE 1; m.ready = false ∧ m.boot.moduleUp = true ∧ (m.hostPort 0).up = true)
    ∧ ((portS {}).m.hostPort 0).up = false ∧ 1 ≤ (spdmS 1 {}).m.spdmState (.doe ⟨0, 5⟩)
    ∧ ((spdmS 3 {}).m.block (.doe ⟨0, 5⟩) 3).isSome = true ∧ (spdmS 3 {}).m.block (.doe ⟨0, 5⟩) 6 = none ∧ (upS {}).m.boot.moduleUp = true := by
  and_intros <;> decide +kernel
def keyM : KeyMsg := { (default : KeyMsg) with op := 1, epoch := 0, flags := 1, zeros := true, tagOk := true }
theorem wit_KeysAndZeroise : (let s := spdmS 3 {}; s.m.ready = true ∧ (s.m.hostPort 0).up = true ∧ s.m.funcOn 0 0 = some 5 ∧ s.m.spdmBusy (.doe ⟨0, 5⟩) = false
      ∧ (s.m.part 0).state ≠ 2 ∧ (s.m.part 0).isSealed = true ∧ (s.m.part 0).keys.inKey = none ∧ (s.m.part 0).getR Reg.KEY_EPOCH = keyM.epoch.toNat)
    ∧ ({ keyM with epoch := 7 } : KeyMsg).epoch.toNat ≠ ((spdmS 3 {}).m.part 0).getR Reg.KEY_EPOCH ∧ ({ keyM with tagOk := false } : KeyMsg).tagOk = false
    ∧ keyM.op = 1 ∧ keyM.flags = 1 ∧ keyM.zeros = true ∧ keyM.tagOk = true ∧ (upS {}).m.boot.moduleUp = true ∧ (upS {}).m.ordered
    ∧ (spdmS 3 { moduleUp := true }).m.boot.moduleUp = true ∧ (spdmS 3 { moduleUp := true }).m.ready = true ∧ ((spdmS 3 {}).m.hostPort 0).up = true
    ∧ ((spdmS 3 {}).m.part 0).getR Reg.KEY_EPOCH < 0xFFFFFFFF ∧ (spdmS 3 { moduleUp := true }).m.spdmBusy (.doe ⟨0, 5⟩) = false
    ∧ (let m := (spdmS 3 { moduleUp := true }).m.setR Reg.BOOT_STATUS_BOOT_STATE 1; m.ready = false ∧ m.boot.moduleUp = true ∧ (m.hostPort 0).up = true)
    ∧ (spdmS 3 {}).m.funcOn 1 0 ≠ some 5 := by
  simp only [Mach.ordered]
  and_intros <;> decide +kernel
/-- Partition 0 at a debug level, with its mailbox set; tile 5 is the tile of DBG_TILE. -/
def dbgS (lvl : Nat) (rs : List (Fld × Nat)) (T : Tile := core) (f : Part → Part := id) : State :=
  memS T (readyP fun P => f (rs.foldl (fun P x => P.setR x.1 x.2) ((P.setR Reg.PART_CFG_DEBUG_LEVEL lvl).setR Reg.DBG_TILE_TILE_INDEX 5)))
theorem wit_DebugAccess_levels : (∀ lvl < 3, (dbgS lvl []).m.reaches ⟨0, 5⟩ 0 = true ∧ (dbgS lvl []).m.debugLevel 0 = lvl) ∧ (dbgS 2 []).m.reaches ⟨0, 3⟩ 0 = false
    ∧ ((dbgS 2 []).m.part 0).haltReq = false ∧ ((dbgS 2 []).m.part 0).dbgState ≠ 2 ∧ ((dbgS 2 [] core fun P => { P with haltReq := true }).m.part 0).haltReq = true
    ∧ ((dbgS 2 []).m.part 0).getR Reg.DBG_ADDR_SPACE = 0 ∧ ((dbgS 2 []).m.part 0).regsOk := by
  simp only [Part.regsOk]; and_intros <;> decide +kernel
/-- A halted tile with array 0 as given, and the mailbox for an access of a space. -/
def haltS (space write : Nat) (A : Arr) : State :=
  dbgS 2 [(Reg.DBG_STATUS_DBG_STATE, 2), (Reg.DBG_ADDR_SPACE, space), (Reg.DBG_ADDR_WRITE, write)] { core with arrs := [(0, A)] }
theorem wit_DebugAccess : (∀ sp < 6, ∀ w < 2, let s := haltS sp w validA; let P := s.m.part 0
      (P.dbgState = 2 ∧ s.m.boot.inHold = false ∧ s.m.replaces = [] ∧ P.getR Reg.DBG_TILE_TILE_INDEX = 5 ∧ s.m.owner 5 = some 0)
      ∧ P.getR Reg.DBG_ADDR_SPACE = sp ∧ P.getR Reg.DBG_ADDR_WRITE = w ∧ P.getR Reg.DBG_ADDR = 0 ∧ P.getR Reg.DBG_SRC = 0 ∧ (s.m.tile 5).aq = [])
    ∧ (∀ b ∈ banksOf 0 131072, ((haltS 0 0 {}).m.tile 5 |>.bank b).pwr = .on ∧ ((haltS 0 0 {}).m.tile 5 |>.bank b).changing = false
      ∧ ((haltS 0 0 {}).m.tile 5 |>.bank b).scrub = false)
    ∧ (∀ l ∈ linesOf 0 131072, ((haltS 0 0 {}).m.tile 5).found l = .clean)
    ∧ (∀ k < 64, ((haltS 0 0 {}).m.tile 5).storeFlips (((haltS 0 0 {}).m.tile 5).storeWord (0 + k)) = [])
    ∧ 0 ∉ (⟨[], 0, [], []⟩ : ArrPhys).eraseFail ∧ (⟨[], 0, [], []⟩ : ArrPhys).stuck = []
    ∧ ((haltS 2 0 validA).m.tile 5 |>.arr 0).content = .valid ∧ ((haltS 2 0 validA).m.tile 5 |>.arr 0).power ≠ .off
    ∧ ({ validA with content := .failed } : Arr).content = .failed ∧ ({ validA with content := .empty } : Arr).power = .active
    ∧ ((haltS 3 1 {}).m.part 0).getR (Reg.DBG_DATA 0) % 512 ≤ 256 ∧ Map.wf 0 ((haltS 0 1 {}).m.tile 5).mem = true := by
  and_intros <;> decide +kernel
theorem wit_DebugAccess_ordered : (haltS 4 1 validA).m.ordered := by simp only [Mach.ordered]; decide +kernel
/-- A diagnosis of lane 2 of port 3. -/
def diagS (d : Option TestUnit) : State := { upS {} with m := { (upS {}).m with diag := d } }
theorem wit_DebugAccess_diag : (diagS none).m.ready = true ∧ (diagS none).m.leaseOk ⟨0, 0⟩ = true
    ∧ (diagS none).m.diagUnit 7 (2 ^ 56 * 8 + 2 ^ 16 * 3 + 2) = some (.lane 3 2) ∧ (diagS none).m.diagAllowed (.lane 3 2) = true
    ∧ (diagS none).m.diagUnit 7 0 = none ∧ (diagS (some (.lane 3 2))).m.diag ≠ none := by
  and_intros <;> decide +kernel

/-! ### The queue and what every step keeps -/

theorem wit_QueueStep : ({ tS core with pending := [.add 5 1 2 3, .illegal 5 none] } : State).pending = .add 5 1 2 3 :: [.illegal 5 none]
    ∧ (tS core).pending = [] := by decide +kernel
theorem wit_invariants : State.reset.m.stagedOk ∧ (∀ s', step State.reset = .next s' → s' = State.reset)
    ∧ Map.sortedFrom 0 ((bootS 4 { running := some goodFw }).m.regs) = true ∧ (bootS 4 {}).m.getR Reg.SVN_FLOOR ≤ goodFw.svn.toNat := by
  refine ⟨by simp [Mach.stagedOk, State.reset], fun s' h => ?_, by decide +kernel, by decide +kernel⟩
  simpa [step, State.reset, eq_comm] using h

/-! ### Special functions (R125, R170; expected values by hand) -/

theorem test_recip : (FVal.decode fmt32 0x40000000).recip.encode fmt32 .toInf = 0x3F000000
    ∧ frecip 0x80000000 = 0xFF800000 ∧ frecip 0xFF800000 = 0x80000000 := by and_intros <;> decide +kernel
theorem test_rsqrt : (FVal.decode fmt32 0x40800000).rsqrt.encode fmt32 .toInf = 0x3F000000 ∧ frsqrt 0xBF800000 = 0x7FC00000 := by
  and_intros <;> decide +kernel
theorem test_exp2_log2 : (FVal.decode fmt32 0x40400000).exp2.encode fmt32 .toInf = 0x41000000
    ∧ (FVal.decode fmt32 0x3F000000).exp2.encode fmt32 .toInf = 0x3FB504F3
    ∧ (FVal.decode fmt32 0x3E000000).log2.encode fmt32 .toInf = 0xC0400000 ∧ flog2 0 = 0xFF800000 := by and_intros <;> decide +kernel
end Sys2Proof.Tests
end

section
/-! O57: the state after reset. -/
namespace Sys2Proof.Machine

@[simp] theorem State.reset_part (p : Nat) : State.reset.m.part p = {} := rfl

/-- Settles O57: the state after reset lists nothing, so every store is in order and every register reads its reset value. -/
theorem resetState : Obligations.ResetState := by
  unfold Obligations.ResetState
  have ordered : State.reset.m.ordered := by unfold Mach.ordered; and_intros <;> rfl
  have stagedOk : State.reset.m.stagedOk := List.forall_mem_nil _
  exact ⟨rfl, rfl, rfl, rfl, ordered, stagedOk, rfl, fun p => by rw [State.reset_part]; exact ⟨rfl, rfl⟩⟩

end Sys2Proof.Machine
end

section
/-! O53: SPDM attestation and platform monitoring (R384 to R386, R487). -/
namespace Sys2Proof.Machine

/-! ### The responder, case by case -/

/-- The request reaches the responder: over MCTP, or on a port that is up. -/
def Mach.spdmReached (m : Mach) (d : Requester) : Prop := ∀ w, d = .doe w → (m.hostPort w.port.val).up = true

variable {m : Mach} {d : Requester}

theorem Mach.spdm_eq (need : Nat) (f : Mach → Mach) (h : m.ready = true) (hr : m.spdmReached d) :
    m.spdm d need f = if m.spdmBusy d then m.replyErr d errBusy
      else if m.spdmState d < need then m.replyErr d errUnexpected else f m := by
  cases d with
  | doe w => simp [Mach.spdm, h, hr w rfl]
  | mctp => simp [Mach.spdm, h]
theorem Mach.spdm_portDown {w : Writer} (need : Nat) (f : Mach → Mach) (h : (m.hostPort w.port.val).up = false) :
    m.spdm (.doe w) need f = m := by simp [Mach.spdm, h]
theorem Mach.spdm_notStarted (need : Nat) (f : Mach → Mach) (h : m.ready = false) (hd : m.boot.moduleUp = false ∨ d = .mctp) :
    m.spdm d need f = m := by
  cases hd with
  | inl hd => simp [Mach.spdm, h, hd]
  | inr hd => simp [Mach.spdm, h, hd]
theorem Mach.spdm_early {w : Writer} (need : Nat) (f : Mach → Mach) (h : m.ready = false) (hu : m.boot.moduleUp = true)
    (hp : (m.hostPort w.port.val).up = true) : m.spdm (.doe w) need f = m.replyErr (.doe w) errBusy := by
  simp [Mach.spdm, h, hu, hp]

/-! ### What an answer changes -/

/-- Nothing is listed at a key with the default value, so a record other than it is read back. -/
theorem Mach.setSpdm_spdmState (m : Mach) (d : Requester) {n : Nat} (hn : n ≠ 0) : (m.setSpdm d n).spdmState d = n := by
  cases d with
  | mctp => rfl
  | doe w =>
    have hg : ∀ g : Func, ({ g with spdm := n } : Func) ≠ {} := fun g h => hn (congrArg Func.spdm h)
    have hf : ∀ l : Map Func, Map.get {} (Map.modify {} l w.func.val fun g => { g with spdm := n }) w.func.val
        = { Map.get {} l w.func.val with spdm := n } := fun l => Map.get_set_listed (hg _) l _
    have hp : ∀ h : HostPort, ({ h with funcs := Map.modify {} h.funcs w.func.val fun g => { g with spdm := n } } : HostPort) ≠ {} := by
      intro h he
      have e := hf h.funcs
      have hnil : Map.modify {} h.funcs w.func.val (fun g => { g with spdm := n }) = [] := congrArg HostPort.funcs he
      rw [hnil] at e
      exact hn (congrArg Func.spdm e).symm
    simp only [Mach.spdmState, Mach.setSpdm, Mach.modHostPort, Mach.hostPort, Map.get_set_listed (hp _), HostPort.func, hf]
theorem Mach.setSpdm_frame (m : Mach) (d : Requester) (n : Nat) :
    (m.setSpdm d n).out = m.out ∧ (m.setSpdm d n).parts = m.parts ∧ (m.setSpdm d n).tiles = m.tiles := by
  cases d <;> exact ⟨rfl, rfl, rfl⟩

/-! ### Signatures -/

theorem Mach.signed_of_not_attests (h : m.attests = false) (body : List Nat) : m.signed body = body ++ [0] := by
  unfold Mach.attests at h
  unfold Mach.signed
  cases hk : m.boot.aliasKey with
  | none => rfl
  | some k => simp_all
theorem Mach.attests_of_no_key (h : m.boot.aliasKey = none) : m.attests = false := by simp [Mach.attests, h]
theorem Mach.attests_of_key {k : BitVec 448 × BitVec 448} (h : m.boot.aliasKey = some k) (ht : m.boot.tampered = false) : m.attests = true := by
  simp [Mach.attests, h, ht]
theorem Mach.signed_of_key {k : BitVec 448 × BitVec 448} (h : m.boot.aliasKey = some k) (ht : m.boot.tampered = false) (body : List Nat) :
    m.signed body = body ++ [Config.sign k.2 body] := by simp [Mach.signed, h, ht]


/-! ### The requests -/

/-- The SPDM requests of a requester. -/
noncomputable def spdmRequests (d : Requester) (slot : Fin 8) (nonce : BitVec 256) (ix code : Byte) : List Instr :=
  [.getVersion d, .getCapabilities d, .negotiateAlgorithms d, .getDigests d, .getCertificate d slot, .challenge d slot nonce,
    .getMeasurements d ix nonce, .spdmUnsupported d code]

theorem exec_spdmRequest {slot : Fin 8} {nonce : BitVec 256} {ix code : Byte} {c : Instr} (hc : c ∈ spdmRequests d slot nonce ix code) :
    ∃ need f, ∀ s, exec c s = .next { s with m := s.m.spdm d need f } := by
  simp only [spdmRequests, List.mem_cons, List.not_mem_nil, or_false] at hc
  obtain rfl | rfl | rfl | rfl | rfl | rfl | rfl | rfl := hc <;> exact ⟨_, _, fun s => rfl⟩

theorem exec_spdm_silent {slot : Fin 8} {nonce : BitVec 256} {ix code : Byte} (s : State) (h : ∀ need f, s.m.spdm d need f = s.m) :
    ∀ c ∈ spdmRequests d slot nonce ix code, exec c s = .next s := by
  intro c hc
  obtain ⟨need, f, e⟩ := exec_spdmRequest hc
  rw [e, h]
theorem exec_spdm_busy {slot : Fin 8} {nonce : BitVec 256} {ix code : Byte} (s : State)
    (h : ∀ need f, s.m.spdm d need f = s.m.replyErr d errBusy) :
    ∀ c ∈ spdmRequests d slot nonce ix code, exec c s = .next { s with m := s.m.replyErr d errBusy } := by
  intro c hc
  obtain ⟨need, f, e⟩ := exec_spdmRequest hc
  rw [e, h]

section Answered
variable {s : State} (h : s.m.ready = true) (hr : s.m.spdmReached d) (hb : s.m.spdmBusy d = false)
include h hr hb

theorem Mach.spdm_unexpected {need : Nat} (f : Mach → Mach) (hn : s.m.spdmState d < need) :
    s.m.spdm d need f = s.m.replyErr d errUnexpected := by simp [Mach.spdm_eq need f h hr, hb, hn]
theorem Mach.spdm_answers {need : Nat} (f : Mach → Mach) (hn : need ≤ s.m.spdmState d) : s.m.spdm d need f = f s.m := by
  simp [Mach.spdm_eq need f h hr, hb, Nat.not_lt.mpr hn]

/-- A request in its place is answered. -/
theorem exec_spdm_answers {c : Instr} {need : Nat} {f : Mach → Mach} (hn : need ≤ s.m.spdmState d)
    (e : exec c s = .next { s with m := s.m.spdm d need f }) : exec c s = .next { s with m := f s.m } := by
  rw [e, Mach.spdm_answers h hr hb f hn]
/-- A request out of its order is refused. -/
theorem exec_spdm_unexpected {c : Instr} {need : Nat} {f : Mach → Mach} (hn : s.m.spdmState d < need)
    (e : exec c s = .next { s with m := s.m.spdm d need f }) : exec c s = .next { s with m := s.m.replyErr d errUnexpected } := by
  rw [e, Mach.spdm_unexpected h hr hb f hn]

/-- A step of the connection: its state moves on, and an answer other than an error is sent. -/
theorem exec_spdm_moves {c : Instr} {need n code : Nat} {body : List Nat} {f : Mach → Mach} (hn : need ≤ s.m.spdmState d)
    (e : exec c s = .next { s with m := s.m.spdm d need f }) (hf : f s.m = (s.m.setSpdm d n).reply d code body)
    (h0 : n ≠ 0) (hc : code ≠ spdmError) :
    ∃ s' code body, exec c s = .next s' ∧ s'.m.spdmState d = n ∧ s'.m.out = s.m.out ++ [.spdm d code body] ∧ code ≠ 0x7F
      ∧ s'.m.parts = s.m.parts ∧ s'.m.tiles = s.m.tiles := by
  obtain ⟨hout, hparts, htiles⟩ := s.m.setSpdm_frame d n
  refine ⟨_, code, body, e, ?_⟩
  rw [Mach.spdm_answers h hr hb f hn, hf]
  refine ⟨?_, ?_, hc, hparts, htiles⟩
  · exact (show _ = (s.m.setSpdm d n).spdmState d by cases d <;> rfl).trans (s.m.setSpdm_spdmState d h0)
  · exact congrArg (· ++ _) hout

theorem exec_getDigests (hn : 3 ≤ s.m.spdmState d) : exec (.getDigests d) s = .next { s with
    m := if s.m.attests then s.m.reply d spdmDigests [1, (Config.digest s.m.certChain).toNat] else s.m.replyErr d errUnspecified } :=
  (exec_spdm_answers h hr hb hn rfl).trans rfl
theorem exec_getCertificate (hn : 3 ≤ s.m.spdmState d) (slot : Fin 8) : exec (.getCertificate d slot) s = .next { s with
    m := if slot ≠ 0 then s.m.replyErr d errInvalid
    else if s.m.attests then s.m.reply d spdmCertificate s.m.certChain else s.m.replyErr d errUnspecified } :=
  (exec_spdm_answers h hr hb hn rfl).trans rfl
theorem exec_challenge (hn : 3 ≤ s.m.spdmState d) (slot : Fin 8) (nonce : BitVec 256) : exec (.challenge d slot nonce) s = .next { s with
    m := if slot ≠ 0 then s.m.replyErr d errInvalid
    else if s.m.attests then s.m.reply d spdmChallengeAuth (s.m.signed [(Config.digest s.m.certChain).toNat, nonce.toNat])
    else s.m.replyErr d errUnspecified } :=
  (exec_spdm_answers h hr hb hn rfl).trans rfl
theorem exec_getMeasurements_count (hn : 3 ≤ s.m.spdmState d) (nonce : BitVec 256) : exec (.getMeasurements d 0 nonce) s = .next { s with
    m := s.m.reply d spdmMeasurements (s.m.signed [(s.m.blocks d).length, nonce.toNat]) } :=
  (exec_spdm_answers h hr hb hn rfl).trans rfl
theorem exec_getMeasurements_all (hn : 3 ≤ s.m.spdmState d) (nonce : BitVec 256) : exec (.getMeasurements d 0xFF nonce) s = .next { s with
    m := s.m.reply d spdmMeasurements (s.m.signed (((s.m.blocks d).flatMap fun x => x.1 :: x.2) ++ [nonce.toNat])) } :=
  (exec_spdm_answers h hr hb hn rfl).trans rfl
theorem exec_getMeasurements_block (hn : 3 ≤ s.m.spdmState d) (nonce : BitVec 256) {ix : Byte} (h0 : 0 < ix.toNat) (h1 : ix.toNat < 255)
    {b : List Nat} (hblk : s.m.block d ix.toNat = some b) : exec (.getMeasurements d ix nonce) s = .next { s with
    m := s.m.reply d spdmMeasurements (s.m.signed (ix.toNat :: b ++ [nonce.toNat])) } :=
  (exec_spdm_answers h hr hb hn rfl).trans (by simp only [Nat.pos_iff_ne_zero.mp h0, Nat.ne_of_lt h1, if_false, hblk])
theorem exec_getMeasurements_noBlock (hn : 3 ≤ s.m.spdmState d) (nonce : BitVec 256) {ix : Byte} (h0 : 0 < ix.toNat) (h1 : ix.toNat < 255)
    (hblk : s.m.block d ix.toNat = none) : exec (.getMeasurements d ix nonce) s = .next { s with m := s.m.replyErr d errInvalid } :=
  (exec_spdm_answers h hr hb hn rfl).trans (by simp only [Nat.pos_iff_ne_zero.mp h0, Nat.ne_of_lt h1, if_false, hblk])

end Answered

/-- Settles O53, by the cases of the responder (R385, R514) and then of each request. -/
theorem attestation : Obligations.Attestation := by
  unfold Obligations.Attestation
  intro s d slot nonce ix code n
  refine ⟨?portDown, ?notStarted, ?early, fun h hr => ⟨?busy, fun hb => ⟨?version, ?capabilities, ?algorithms, ?unsupported, ?order,
    fun hn => ⟨?slots, ?noKey, ?unsigned, ?signed, ?noBlock⟩⟩⟩, ?sensors, ?off⟩
  case portDown =>
    rintro w rfl hp
    exact exec_spdm_silent s fun need f => Mach.spdm_portDown need f hp
  case notStarted =>
    intro h hd
    exact exec_spdm_silent s fun need f => Mach.spdm_notStarted need f h hd
  case early =>
    rintro w h hu rfl hp
    exact exec_spdm_busy s fun need f => Mach.spdm_early need f h hu hp
  case busy =>
    intro hb
    exact exec_spdm_busy s fun need f => by simp [Mach.spdm_eq need f h hr, hb]
  case version => exact exec_spdm_moves h hr hb (Nat.zero_le _) rfl rfl (by decide) (by decide)
  case capabilities =>
    intro hn
    exact exec_spdm_moves h hr hb hn rfl rfl (Nat.ne_of_gt (Nat.lt_of_lt_of_le Nat.zero_lt_two (Nat.le_max_left 2 _))) (by decide)
  case algorithms =>
    intro hn
    exact exec_spdm_moves h hr hb hn rfl rfl (by decide) (by decide)
  case unsupported => exact (exec_spdm_answers h hr hb (Nat.zero_le _) rfl).trans rfl
  case order =>
    rintro hn c (rfl | rfl | rfl | rfl) <;> exact exec_spdm_unexpected h hr hb hn rfl
  case slots =>
    intro hs
    exact ⟨(exec_getCertificate h hr hb hn slot).trans (by rw [if_pos hs]; rfl), (exec_challenge h hr hb hn slot nonce).trans (by rw [if_pos hs]; rfl)⟩
  case noKey =>
    intro hk
    have ha := Mach.attests_of_no_key hk
    refine ⟨?_, ?_, ?_⟩
    · exact (exec_getDigests h hr hb hn).trans (by rw [ha]; rfl)
    · exact (exec_getCertificate h hr hb hn 0).trans (by rw [ha]; rfl)
    · exact (exec_challenge h hr hb hn 0 nonce).trans (by rw [ha]; rfl)
  case unsigned =>
    intro ha
    exact (exec_getMeasurements_count h hr hb hn nonce).trans (by rw [Mach.signed_of_not_attests ha]; rfl)
  case signed =>
    intro k hk ht
    have ha := Mach.attests_of_key hk ht
    refine ⟨?_, ?_, ?_, ?_, ?_, ?_⟩
    · exact (exec_getDigests h hr hb hn).trans (by rw [ha]; rfl)
    · exact (exec_getCertificate h hr hb hn 0).trans (by rw [ha]; rfl)
    · exact (exec_challenge h hr hb hn 0 nonce).trans (by rw [ha, Mach.signed_of_key hk ht]; rfl)
    · exact (exec_getMeasurements_count h hr hb hn nonce).trans (by rw [Mach.signed_of_key hk ht]; rfl)
    · exact (exec_getMeasurements_all h hr hb hn nonce).trans (by rw [Mach.signed_of_key hk ht]; rfl)
    · intro b h0 h1 hblk
      exact (exec_getMeasurements_block h hr hb hn nonce h0 h1 hblk).trans (by rw [Mach.signed_of_key hk ht]; rfl)
  case noBlock =>
    intro h0 h1 hblk
    exact exec_getMeasurements_noBlock h hr hb hn nonce h0 h1 hblk
  case sensors =>
    intro hu
    constructor <;> · simp only [exec, execPldmMonitoring, lift_next, Mach.whenUp, hu]; rfl
  case off =>
    intro hu r
    simp [exec, execPldmMonitoring, lift_next, Mach.whenUp, hu]

end Sys2Proof.Machine
end

section
/-! What the model's functions leave staged in the module's blocks (R524): the staged values stand, by the file of each function. -/
namespace Sys2Proof.Machine
section
variable (m : Mach)

@[simp] theorem Mach.staged_ite (c : Prop) [Decidable c] (m n : Mach) : (if c then m else n).staged = if c then m.staged else n.staged :=
  apply_ite _ _ _ _
@[simp] theorem foldl_staged {α : Type} (f : Mach → α → Mach) (h : ∀ m x, (f m x).staged = m.staged) (l : List α) (m : Mach) :
    (l.foldl f m).staged = m.staged := List.foldlRecOn l f (motive := fun n => n.staged = m.staged) rfl fun n hn x _ => (h n x).trans hn
theorem foldl_fst_staged {α β : Type} (f : Mach × β → α → Mach × β) (h : ∀ a x, (f a x).1.staged = a.1.staged) (l : List α)
    (a : Mach × β) : (l.foldl f a).1.staged = a.1.staged :=
  List.foldlRecOn l f (motive := fun b => b.1.staged = a.1.staged) rfl fun b hb x _ => (h b x).trans hb
@[simp] theorem Mach.sig_staged (t : Nat) (x : Sig) : (m.sig t x).staged = m.staged := (m.sig_frame t x).2.2.2.1
@[simp] theorem Mach.sigs_staged (t : Nat) (xs : List Sig) : (m.sigs t xs).staged = m.staged := (Mach.sigs_frame xs m t).2.2.2.1
@[simp] theorem Mach.act_staged (t : Nat) (f : Tile → TRes) : (m.act t f).staged = m.staged := (m.act_frame t f).2.2.2.1
@[simp] theorem Mach.onPart_staged (p : PartId) (f : HCtx → Part → PRes) : (m.onPart p f).staged = m.staged :=
  (m.onPart_frame p f).2.2.1

/-! ### Operations -/
@[simp] theorem Mach.modParts_staged (q : Part → Bool) (f : Part → Part) : (m.modParts q f).staged = m.staged := by
  simp [Mach.modParts]
@[simp] theorem Mach.modTiles_staged (ts : List Nat) (f : Nat → Tile → Tile) : (m.modTiles ts f).staged = m.staged :=
  foldl_staged _ (by intros; rfl) _ _
@[simp] theorem Mach.startTest_staged (u : TestUnit) : (m.startTest u).staged = m.staged := by
  simp [Mach.startTest]

/-! ### Mortar -/
@[simp] theorem Mach.sendPkt_staged (p : Packet) : (m.sendPkt p).staged = m.staged := (rfl)
@[simp] theorem Mach.dropPkt_staged (id : Nat) : (m.dropPkt id).staged = m.staged := (rfl)
@[simp] theorem Mach.dropWaiting_staged (t : Nat) (watch : Bool) : (m.dropWaiting t watch).staged = m.staged := by
  simp [Mach.dropWaiting]
@[simp] theorem Mach.onPktPart_staged (p : Packet) (f : Part → Part) : (m.onPktPart p f).staged = m.staged := by
  unfold Mach.onPktPart; split <;> rfl
@[simp] theorem Mach.linkErr_staged (p : Packet) (err : LinkErr) : (m.linkErr p err).1.staged = m.staged := by
  unfold Mach.linkErr; split <;> simp
@[simp] theorem Mach.refusePkt_staged (p : Packet) (r : Refuse) : (m.refusePkt p r).staged = m.staged := by
  unfold Mach.refusePkt; (repeat' split) <;> simp
@[simp] theorem Mach.arrive_staged (p : Packet) : (m.arrive p).staged = m.staged := by
  dsimp only [Mach.arrive]; (repeat' split) <;> simp
@[simp] theorem Mach.senseDesc_staged (p : Packet) : (m.senseDesc p).staged = m.staged := by
  unfold Mach.senseDesc; split <;> simp
@[simp] theorem Mach.response_staged (src op : Nat) (reason : Option Nat) (remote : W64) :
    (m.response src op reason remote).staged = m.staged := by
  unfold Mach.response; (repeat' split) <;> simp
@[simp] theorem Mach.stationSend_staged (p : PartId) (st : Nat) (kind : RKind) (tagged : Bool) (target : W64) (lines : List (List Byte))
    (n : Nat) : (m.stationSend p st kind tagged target lines n).staged = m.staged := by
  simp [Mach.stationSend]
@[simp] theorem Mach.stationPut_staged (p : PartId) (t line : Nat) (ls : List (List Byte)) :
    (m.stationPut p t line ls).staged = m.staged := by
  induction ls generalizing m line with
  | nil => rfl
  | cons l ls ih =>
    simp only [Mach.stationPut, ih]
    split <;> rfl
@[simp] theorem Mach.fillOp_staged (p : PartId) (t q line : Nat) (ls : List (List Byte)) :
    (m.fillOp p t q line ls).1.staged = m.staged := by
  dsimp only [Mach.fillOp]; (repeat' split) <;> simp
@[simp] theorem Mach.fillOps_staged (p : PartId) (t q : Nat) (xs : List (Nat × List (List Byte))) :
    (m.fillOps p t q xs).1.staged = m.staged := by
  induction xs generalizing m with
  | nil => rfl
  | cons x xs ih =>
    dsimp only [Mach.fillOps]
    split <;> simp [ih]
@[simp] theorem Mach.feedCards_staged (p : PartId) : (m.feedCards p).staged = m.staged := by
  unfold Mach.feedCards
  rw [Mach.modPart_staged]
  refine foldl_fst_staged _ (fun a o => ?_) _ _
  dsimp only
  split <;> simp
@[simp] theorem Mach.changeRoutes_staged (qs : List Phys) : (m.changeRoutes qs).staged = m.staged :=
  foldl_staged _ (by intros; rfl) _ _
@[simp] theorem Mach.noteDetour_staged (p : Nat) : (m.noteDetour p).staged = m.staged := by
  simp [Mach.noteDetour]

/-! ### Rings -/
@[simp] theorem Mach.eventTo_staged (p : PartId) (code a0 a1 : Nat) : (m.eventTo p code a0 a1).staged = m.staged := (rfl)
@[simp] theorem Mach.eventAll_staged (code a0 a1 : Nat) : (m.eventAll code a0 a1).staged = m.staged := by
  simp [Mach.eventAll]
@[simp] theorem Mach.eventPallet_staged (pal code a0 a1 : Nat) : (m.eventPallet pal code a0 a1).staged = m.staged := by
  unfold Mach.eventPallet; split <;> rfl

/-! ### Commit -/
@[simp] theorem Mach.bindTiles_staged (p : Nat) : (m.bindTiles p).staged = m.staged := by
  simp [Mach.bindTiles]
@[simp] theorem Mach.setPages_staged (p : Nat) : (m.setPages p).staged = m.staged := by
  unfold Mach.setPages; split <;> simp
@[simp] theorem Mach.setMembers_staged (p : Nat) : (m.setMembers p).staged = m.staged := by
  simp [Mach.setMembers]
@[simp] theorem Mach.decideCommit_staged (p : PartId) : (m.decideCommit p).1.staged = m.staged := by
  dsimp only [Mach.decideCommit]; (repeat' split) <;> simp
@[simp] theorem Mach.markLost_staged : m.markLost.staged = m.staged := by
  simp [Mach.markLost]
@[simp] theorem Mach.takeUp_staged (was : List PartId) : (m.takeUp was).staged = m.staged := by
  simp [Mach.takeUp]

/-! ### Residency -/
@[simp] theorem Mach.powerArrays_staged (p : Nat) : (m.powerArrays p).staged = m.staged := by
  simp [Mach.powerArrays]
@[simp] theorem Mach.powerStaged_staged (p : PartId) (v : Nat) : (m.powerStaged p v).staged = m.staged := (rfl)
@[simp] theorem Mach.loaderErase_staged (t : Nat) (arrs : List Nat) : (m.loaderErase t arrs).staged = m.staged := (rfl)
@[simp] theorem Mach.eraseProgrammed_staged (L : Load) : (m.eraseProgrammed L).staged = m.staged := by
  unfold Mach.eraseProgrammed
  exact (foldl_staged _ (by intros; rfl) _ _).trans (foldl_staged _ (by intros; rfl) _ _)
@[simp] theorem Mach.releaseLines_staged (p : PartId) (v : Nat) (pl : Place) : (m.releaseLines p v pl).staged = m.staged :=
  foldl_staged _ (by intros; rfl) _ _
@[simp] theorem Mach.failLoad_staged (p : PartId) (reason : Nat) : (m.failLoad p reason).staged = m.staged := by
  unfold Mach.failLoad; split <;> simp
@[simp] theorem Mach.nameRule_staged (p : PartId) (r : Nat) : (m.nameRule p r).staged = m.staged := (rfl)
@[simp] theorem Mach.commitTables_staged (p : PartId) : (m.commitTables p).staged = m.staged := by
  dsimp only [Mach.commitTables]; (repeat' split) <;> simp
@[simp] theorem Mach.commitResidency_staged (p : PartId) : (m.commitResidency p).staged = m.staged := by
  dsimp only [Mach.commitResidency]; (repeat' split) <;> simp
@[simp] theorem Mach.startLoad_staged (p : PartId) (v : PlaceNo) (registerOnly reload : Bool) :
    (m.startLoad p v registerOnly reload).staged = m.staged := by
  simp [Mach.startLoad]
@[simp] theorem Mach.beginScrub_staged (p : PartId) : (m.beginScrub p).staged = m.staged := by
  simp [Mach.beginScrub]

/-! ### Boundary -/
@[simp] theorem Mach.putLines_staged (p : PartId) (t addr : Nat) (bs : List Byte) : (m.putLines p t addr bs).staged = m.staged := by
  simp [Mach.putLines]
@[simp] theorem Mach.writeSteer_staged (p : PartId) (P : Part) (n : Nat) (recs : List Byte) :
    (m.writeSteer p P n recs).staged = m.staged := by
  refine foldl_staged _ (fun m e => foldl_staged _ (fun m i => foldl_staged _ (fun m b => ?_) _ _) _ _) _ _
  split <;> simp
@[simp] theorem Mach.applySteers_staged (p : PartId) : (m.applySteers p).staged = m.staged := by
  simp [Mach.applySteers]
@[simp] theorem Mach.settleSteers_staged (p : PartId) (before : Part) : (m.settleSteers p before).staged = m.staged := by
  simp [Mach.settleSteers]
@[simp] theorem Mach.writeRegions_staged (p : PartId) (bound : List Nat) : (m.writeRegions p bound).staged = m.staged := by
  refine foldl_staged _ (fun m e => foldl_staged _ (fun m s => foldl_staged _ (fun m w => ?_) _ _) _ _) _ _
  simp
@[simp] theorem Mach.writeCard_staged (p : PartId) : (m.writeCard p).staged = m.staged := by
  simp [Mach.writeCard]
@[simp] theorem Mach.drainDone_staged (p : PartId) : (m.drainDone p).staged = m.staged := by
  simp [Mach.drainDone]
@[simp] theorem Mach.boundary_staged (p : PartId) (ended : Bool) : (m.boundary p ended).staged = m.staged := by
  simp [Mach.boundary]

/-! ### Turns -/
@[simp] theorem Mach.callPoint_staged (p : PartId) : (m.callPoint p).staged = m.staged := by
  simp [Mach.callPoint]
@[simp] theorem Mach.beatBoundary_staged (p : PartId) : (m.beatBoundary p).staged = m.staged := by
  simp [Mach.beatBoundary]
@[simp] theorem Mach.chainOutput_staged : m.chainOutput.staged = m.staged := by
  simp [Mach.chainOutput]
@[simp] theorem Mach.sendMarks_staged (p : Nat) : (m.sendMarks p).staged = m.staged :=
  foldl_staged _ (by intros; rfl) _ _
@[simp] theorem Mach.chainTurn_staged (p : PartId) (was : Bool) : (m.chainTurn p was).staged = m.staged := by
  have marks (m : Mach) : ((m.linksOf p.val).foldl (fun m l => m.modLink l fun L => { L with turnOff := none }) m).staged = m.staged :=
    foldl_staged _ (by intros; rfl) _ _
  simp [Mach.chainTurn, marks]
@[simp] theorem Mach.watchdog_staged (p : PartId) : (m.watchdog p).staged = m.staged := by
  simp [Mach.watchdog]
@[simp] theorem Mach.stopTile_staged (t : Nat) : (m.stopTile t).staged = m.staged := by
  simp [Mach.stopTile]
@[simp] theorem Mach.turnAbandon_staged (p : PartId) : (m.turnAbandon p).staged = m.staged := by
  simp [Mach.turnAbandon]
@[simp] theorem Mach.abandonmentBoundary_staged (p : PartId) : (m.abandonmentBoundary p).staged = m.staged := by
  simp [Mach.abandonmentBoundary]
@[simp] theorem Mach.collect_staged (p : PartId) (s : Nat) : (m.collect p s).staged = m.staged := by
  dsimp only [Mach.collect]; (repeat' split) <;> simp

/-! ### Partitions -/
@[simp] theorem Mach.moduleWrite_staged (w : Writer) (f : Mach → Mach) : (m.moduleWrite w f).staged =
    if !m.ready || w.func.val != 0 then m.staged else if m.leaseOk w then (f m).staged else m.staged := by
  simp [Mach.moduleWrite]
@[simp] theorem Mach.setBudget_staged (p b : Nat) : (m.setBudget p b).staged = m.staged :=
  foldl_staged _ (by intros; rfl) _ _
@[simp] theorem Mach.sealNow_staged (p : PartId) : (m.sealNow p).staged = m.staged := by
  simp only [Mach.sealNow, Mach.noteDetour_staged, Mach.setBudget_staged]
  exact foldl_staged _ (by intros; rfl) _ _
@[simp] theorem Mach.unpark_staged (ps : List Nat) : (m.unpark ps).staged = m.staged :=
  foldl_staged _ (by intros; rfl) _ _
@[simp] theorem Mach.decideSeal_staged (p : PartId) : (m.decideSeal p).staged = m.staged := by
  unfold Mach.decideSeal; split <;> simp
@[simp] theorem Mach.sealOp_staged (p : PartId) : (m.sealOp p).staged = m.staged := (rfl)
@[simp] theorem Mach.killNow_staged (p : PartId) : (m.killNow p).staged = m.staged := by
  simp [Mach.killNow]
@[simp] theorem Mach.endOp_staged (p : PartId) (op : Nat) : (m.endOp p op).staged = m.staged := by
  simp [Mach.endOp]
@[simp] theorem Mach.endWaits_staged : m.endWaits.staged = m.staged := by
  simp [Mach.endWaits]
@[simp] theorem Mach.freePallet_staged (i : Nat) : (m.freePallet i).staged = m.staged := (rfl)
@[simp] theorem Mach.parkPallet_staged (i : Nat) : (m.parkPallet i).staged = m.staged := (rfl)
@[simp] theorem Mach.parking_staged : m.parking.staged = m.staged := by
  simp [Mach.parking]
@[simp] theorem Mach.slotsAndLock_staged : m.slotsAndLock.staged = m.staged := by
  simp [Mach.slotsAndLock]
@[simp] theorem Mach.endFeedHold_staged : m.endFeedHold.staged = m.staged :=
  foldl_staged _ (by intros; rfl) _ _
@[simp] theorem Mach.serveDma_staged : m.serveDma.staged = m.staged := (rfl)
@[simp] theorem Mach.lapse_staged : m.lapse.staged = m.staged := (rfl)

/-! ### Faults -/
@[simp] theorem Mach.alert_staged (code : Nat) (unit : W64) : (m.alert code unit).staged = m.staged := by
  simp [Mach.alert]
@[simp] theorem Mach.noteHitch_staged (ms : Nat) : (m.noteHitch ms).staged = m.staged := (rfl)
@[simp] theorem Mach.noteTransient_staged (u : TestUnit) : (m.noteTransient u).1.staged = m.staged := by
  simp [Mach.noteTransient]
@[simp] theorem Mach.noteLasting_staged (u : TestUnit) : (m.noteLasting u).staged = m.staged := by
  simp [Mach.noteLasting]
@[simp] theorem Mach.abandonUnder_staged (u : TestUnit) : (m.abandonUnder u).staged = m.staged := by
  unfold Mach.abandonUnder; split <;> rfl
theorem Mach.endTest_staged (u : TestUnit) (fault : Bool) {onTransient onLasting : Mach → Mach}
    (hT : ∀ m, (onTransient m).staged = m.staged)
    (hL : ∀ m, (onLasting m).staged = m.staged) : (m.endTest u fault onTransient onLasting).staged = m.staged := by
  simp [Mach.endTest, hT, hL]
@[simp] theorem Mach.steerLost_staged (p : PartId) (n : Nat) : (m.steerLost p n).staged = m.staged := (rfl)
@[simp] theorem Mach.restoreLine_staged (t line : Nat) : (m.restoreLine t line).staged = m.staged := by
  dsimp only [Mach.restoreLine]; (repeat' split) <;> simp
@[simp] theorem Mach.restoreTile_staged (t : Nat) : (m.restoreTile t).staged = m.staged := by
  simp [Mach.restoreTile]
@[simp] theorem Mach.wearAt_staged (q : Nat × Nat × Nat) (a : Nat) : (m.wearAt q a).staged = m.staged := (rfl)
@[simp] theorem Mach.countFault_staged (i row : Nat) : (m.countFault i row).staged = m.staged := (rfl)
@[simp] theorem Mach.withdraw_staged (i : Nat) : (m.withdraw i).staged = m.staged := by
  simp [Mach.withdraw]
@[simp] theorem Mach.mapOut_staged (i row pos : Nat) : (m.mapOut i row pos).staged = m.staged := (rfl)
@[simp] theorem Mach.writeBond_staged (i row pos : Nat) (a : Absorb) : (m.writeBond i row pos a).staged = m.staged := by
  cases a <;> rfl
@[simp] theorem Mach.losePart_staged (p : PartId) (i : Nat) (unit : W64) : (m.losePart p i unit).staged = m.staged := by
  simp [Mach.losePart]
@[simp] theorem Mach.placementLost_staged (i : Nat) (unit : W64) : (m.placementLost i unit).staged = m.staged := by
  unfold Mach.placementLost; split <;> simp
@[simp] theorem Mach.startReplace_staged (r : Replace) : (m.startReplace r).staged = m.staged := by
  unfold Mach.startReplace; split <;> simp
@[simp] theorem Mach.shiftTiles_staged (ts : List Nat) : (m.shiftTiles ts).staged = m.staged := by
  cases ts with
  | nil => rfl
  | cons t ts => exact foldl_fst_staged _ (by intros; rfl) _ _
@[simp] theorem Mach.shiftBy_staged (t : Nat) (a : Absorb) : (m.shiftBy t a).staged = m.staged := by
  cases a with
  | spareTile => exact m.shiftTiles_staged _
  | spareRow => exact foldl_staged _ (by intros; rfl) _ _
  | inPlace => rfl
@[simp] theorem Mach.absorb_staged (i : PalletId) (row pos t : Nat) (unit : W64) : (m.absorb i row pos t unit).staged = m.staged := by
  unfold Mach.absorb; (repeat' split) <;> simp
@[simp] theorem Mach.tileFault_staged (q : Phys) (unit : W64) : (m.tileFault q unit).staged = m.staged := by
  unfold Mach.tileFault; split <;> simp
@[simp] theorem Mach.faultOf_staged (t : Nat) (unit : W64) : (m.faultOf t unit).staged = m.staged := by
  simp [Mach.faultOf]
@[simp] theorem Mach.moveTile_staged (r : Replace) (t : Nat) (phys : ArrPhys) : (m.moveTile r t phys).1.staged = m.staged := by
  simp [Mach.moveTile]
@[simp] theorem Mach.tileMoveDone_staged (t : Nat) (phys : ArrPhys) : (m.tileMoveDone t phys).staged = m.staged := by
  unfold Mach.tileMoveDone; (repeat' split) <;> simp
@[simp] theorem Mach.endMoves_staged (r : Replace) : (m.endMoves r).staged = m.staged := by
  unfold Mach.endMoves; (repeat' split) <;> simp
@[simp] theorem Mach.closeReplace_staged (pal hitchMs : Nat) (rs : List Replace) : (m.closeReplace pal hitchMs rs).staged = m.staged := by
  simp [Mach.closeReplace]
@[simp] theorem Mach.replaceDone_staged (pal hitchMs : Nat) : (m.replaceDone pal hitchMs).staged = m.staged := by
  simp [Mach.replaceDone]
@[simp] theorem Mach.routerOut_staged (q : Phys) (unit : W64) : (m.routerOut q unit).staged = m.staged := by
  simp [Mach.routerOut]
@[simp] theorem Mach.linkOut_staged (u : LinkUnit) : (m.linkOut u).staged = m.staged := by
  unfold Mach.linkOut; (repeat' split) <;> simp

/-! ### Background -/
@[simp] theorem Mach.alertBeyond_staged : m.alertBeyond.staged = m.staged := by
  simp [Mach.alertBeyond]
@[simp] theorem Mach.accStatus_staged (p : Nat) : (m.accStatus p).staged = m.staged := (rfl)

/-! ### Boot -/
@[simp] theorem Mach.setBoot_staged (b : Nat) : (m.setBoot b).staged = m.staged := (rfl)
@[simp] theorem Mach.bootErr_staged (e : Nat) : (m.bootErr e).staged = m.staged := (rfl)
@[simp] theorem Mach.modBoot_staged (f : Boot → Boot) : (m.modBoot f).staged = m.staged := (rfl)
@[simp] theorem Mach.setFeed_staged (feed : FeedId) (v : Nat) : (m.setFeed feed v).staged = m.staged := by
  simp [Mach.setFeed]
@[simp] theorem Mach.modFeed_staged (i : Nat) (f : Feed → Feed) : (m.modFeed i f).staged = m.staged := (rfl)
@[simp] theorem Mach.resetParts_staged : m.resetParts.staged = m.staged := (rfl)
@[simp] theorem Mach.powerOn_staged (feed : FeedId) (strap kat : Bool) : (m.powerOn feed strap kat).staged = m.staged := by
  simp [Mach.powerOn]
@[simp] theorem Mach.bootBusy_staged : m.bootBusy.staged = m.staged := (rfl)
@[simp] theorem Mach.bootOp_staged (w : Writer) (f : Mach → Mach) : (m.bootOp w f).staged =
    if m.ready then (m.moduleWrite w f).staged else if m.boot.moduleUp && w.func.val == 0 then (f m).staged else m.staged := by
  simp [Mach.bootOp]
@[simp] theorem Mach.fetchImage_staged (w : Writer) : (m.fetchImage w).staged = m.staged := (rfl)
@[simp] theorem Mach.fwCheck_staged (img : Option FwImage) : (m.fwCheck img).staged = m.staged := by
  dsimp only [Mach.fwCheck]; (repeat' split) <;> simp
@[simp] theorem Mach.runImage_staged : m.runImage.staged = m.staged := (rfl)
@[simp] theorem Mach.raisePallets_staged (out : List PalletId) : (m.raisePallets out).staged = m.staged := by
  simp [Mach.raisePallets]
@[simp] theorem Mach.bringUp_staged (out : List PalletId) (eraseFail : List (Nat × Nat)) (linkFaults : List LinkUnit) :
    (m.bringUp out eraseFail linkFaults).staged = m.staged := by
  simp [Mach.bringUp]
@[simp] theorem Mach.endHandover_staged (svn holdUs : Nat) (failed : Bool) : (m.endHandover svn holdUs failed).staged = m.staged := by
  simp [Mach.endHandover]
@[simp] theorem Mach.handover_staged (digestOk : Bool) (holdUs : Nat) : (m.handover digestOk holdUs).staged = m.staged := by
  have held (ps : List PartId) : (ps.foldl (fun m p => m.modPart p.val fun P => { P with service := P.service + 1 }) m).staged = m.staged :=
    foldl_staged _ (by intros; rfl) _ _
  unfold Mach.handover
  split <;> simp [held]
@[simp] theorem Mach.failHandover_staged : m.failHandover.staged = m.staged := by
  have freed (ps : List PartId) :
      (ps.foldl (fun m p => m.modPart p.val fun P => { P with service := P.service - 1 }) m).staged = m.staged :=
    foldl_staged _ (by intros; rfl) _ _
  simp [Mach.failHandover, freed]

/-! ### Loader -/
@[simp] theorem Mach.send_staged (os : List Out) : (m.send os).staged = m.staged := (rfl)
@[simp] theorem Mach.shardFailed_staged (p : PartId) (i reason : Nat) : (m.shardFailed p i reason).staged = m.staged := by
  unfold Mach.shardFailed; split <;> rfl
@[simp] theorem Mach.standby_staged (p : PartId) (L : Load) : (m.standby p L).staged = m.staged :=
  foldl_staged _ (by intros; rfl) _ _
@[simp] theorem Mach.feedRun_staged (r : ProgRun) : (m.feedRun r).1.staged = m.staged := (rfl)
@[simp] theorem Mach.issueProg_staged (r : ProgRun) : (m.issueProg r).1.staged = m.staged := by
  simp [Mach.issueProg]
@[simp] theorem Mach.endLoad_staged (p : PartId) (L : Load) (mf : Manifest) : (m.endLoad p L mf).staged = m.staged := by
  simp [Mach.endLoad]

/-! ### Shards -/
/-- Where the shard does not fail, the staged values are `st`. -/
def Applied.leaves (st : List (Fld × Nat)) : Applied → Prop
  | .done m => m.staged = st
  | .wait m => m.staged = st
  | .fail _ => True
@[simp] theorem Applied.leaves_done (st : List (Fld × Nat)) : (Applied.done m).leaves st ↔ m.staged = st := Iff.rfl
@[simp] theorem Applied.leaves_wait (st : List (Fld × Nat)) : (Applied.wait m).leaves st ↔ m.staged = st := Iff.rfl
@[simp] theorem Applied.leaves_fail (st : List (Fld × Nat)) (r : Nat) : (Applied.fail r).leaves st := trivial

section
variable {m : Mach} {st : List (Fld × Nat)} (hm : m.staged = st)
include hm
theorem Mach.applyHeader_leaves (p : PartId) (L : Load) (bs : List Byte) : (m.applyHeader p L bs).leaves st := by
  dsimp only [Mach.applyHeader]; (repeat' split) <;> simp [hm]
theorem Mach.tablesStep_leaves (p : PartId) (L : Load) : (m.tablesStep p L).leaves st := by
  dsimp only [Mach.tablesStep]; (repeat' split) <;> simp [hm]
theorem Mach.applyTable_leaves (p : PartId) (L : Load) (h : Shard) : (m.applyTable p L h).leaves st := by
  unfold Mach.applyTable; extract_lets; split <;> simp [hm]
theorem Mach.applyMap_leaves (p : PartId) (L : Load) (h : Shard) (bs : List Byte) : (m.applyMap p L h bs).leaves st := by
  dsimp only [Mach.applyMap]; split <;> simp [hm]
theorem Mach.applyPatch_leaves (p : PartId) (t : Nat) (h : Shard) : (m.applyPatch p t h).leaves st := by
  dsimp only [Mach.applyPatch]; split <;> simp [hm]
theorem Mach.applyCode_leaves (p : PartId) (L : Load) (t : Nat) (h : Shard) : (m.applyCode p L t h).leaves st := by
  dsimp only [Mach.applyCode]; (repeat' split) <;> simp [hm]
theorem Mach.applyLines_leaves (p : PartId) (L : Load) (t : Nat) (h : Shard) : (m.applyLines p L t h).leaves st := by
  dsimp only [Mach.applyLines]; (repeat' split) <;> simp [hm]
theorem Mach.applyArray_leaves (p : PartId) (L : Load) (t : Nat) (h : Shard) : (m.applyArray p L t h).leaves st := by
  dsimp only [Mach.applyArray]; (repeat' split) <;> simp [hm]
theorem Mach.applyOutlier_leaves (p : PartId) (L : Load) (t : Nat) (h : Shard) : (m.applyOutlier p L t h).leaves st := by
  dsimp only [Mach.applyOutlier]; (repeat' split) <;> simp [hm]
/-- A shard of the image, or one of a tile once the tables are done. -/
theorem Mach.applyShard_leaves (p : PartId) (L : Load) (i kind : Nat) (bs : List Byte) : (m.applyShard p L i kind bs).leaves st := by
  have tables : (if L.tablesDone then Applied.done m else m.tablesStep p L).leaves st := by
    split
    · exact hm
    · exact Mach.tablesStep_leaves hm p L
  unfold Mach.applyShard
  split
  · trivial
  · dsimp only
    generalize (if L.tablesDone then Applied.done m else m.tablesStep p L) = a at tables ⊢
    split
    · trivial
    split
    · exact Mach.applyHeader_leaves hm p L bs
    split
    · exact Mach.applyTable_leaves hm p L _
    split
    · exact Mach.applyMap_leaves hm p L _ bs
    split
    · split <;> simp [hm]
    · cases a with
      | wait n => exact tables
      | fail r => trivial
      | done n =>
        have ready (c : Prop) [Decidable c] (L : Load) : (if c then n else n.standby p L).staged = st := by simpa using tables
        dsimp only
        split
        · exact Mach.applyCode_leaves (ready _ _) p _ _ _
        · exact Mach.applyLines_leaves (ready _ _) p _ _ _
        · exact Mach.applyArray_leaves (ready _ _) p _ _ _
        · exact Mach.applyOutlier_leaves (ready _ _) p _ _ _
        · exact Mach.applyPatch_leaves (ready _ _) p _ _
end
theorem Mach.applyShard_done_staged {m n : Mach} {p : PartId} {L : Load} {i kind : Nat} {bs : List Byte}
    (h : m.applyShard p L i kind bs = .done n) : n.staged = m.staged := by
  simpa [h] using Mach.applyShard_leaves (rfl : m.staged = m.staged) p L i kind bs
theorem Mach.applyShard_wait_staged {m n : Mach} {p : PartId} {L : Load} {i kind : Nat} {bs : List Byte}
    (h : m.applyShard p L i kind bs = .wait n) : n.staged = m.staged := by
  simpa [h] using Mach.applyShard_leaves (rfl : m.staged = m.staged) p L i kind bs

/-! ### Loads -/
@[simp] theorem Mach.pump_staged (p : PartId) (fuel : Nat) : (m.pump p fuel).staged = m.staged := by
  induction fuel generalizing m with
  | zero => rfl
  | succ fuel ih =>
    unfold Mach.pump
    split
    · rfl
    split
    · rfl
    split
    · rfl
    split
    · exact m.endLoad_staged p _ _
    split
    · split
      · next h => exact Mach.applyShard_wait_staged h
      · exact m.failLoad_staged p _
      · next h =>
        rw [ih, ← Mach.applyShard_done_staged h]
        split
        · rw [Mach.endLoad_staged, Mach.modPart_staged]
        · rfl
    · rfl
@[simp] theorem Mach.forwardShard_staged (p : PartId) (i : Nat) : (m.forwardShard p i).staged = m.staged := by
  dsimp only [Mach.forwardShard]; (repeat' split) <;> simp
@[simp] theorem Mach.takeShard_staged (p : PartId) (i : Nat) (bs : List Byte) : (m.takeShard p i bs).staged = m.staged := by
  simp [Mach.takeShard]
@[simp] theorem Mach.progEnded_staged (p : PartId) (t id st : Nat) : (m.progEnded p t id st).staged = m.staged := by
  unfold Mach.progEnded; (repeat' split) <;> simp
@[simp] theorem Mach.retryRun_staged (r : ProgRun) : (m.retryRun r).1.staged = m.staged := by
  dsimp only [Mach.retryRun]; (repeat' split) <;> simp
@[simp] theorem Mach.feedLoad_staged (p : PartId) : (m.feedLoad p).staged = m.staged := by
  unfold Mach.feedLoad
  split
  · rfl
  · dsimp only
    rw [Mach.pump_staged, Mach.modPart_staged]
    exact foldl_fst_staged _ (by intro x r; exact x.1.retryRun_staged r) _ _
@[simp] theorem Mach.feedOverflow_staged (p : PartId) : (m.feedOverflow p).staged = m.staged := by
  refine foldl_staged _ (fun m e => ?_) _ _
  rw [Mach.modPart_staged]
  refine foldl_fst_staged _ (fun x w => ?_) _ _
  dsimp only
  split <;> rfl
@[simp] theorem Mach.askOverflow_staged (p : PartId) : (m.askOverflow p).staged = m.staged := by
  dsimp only [Mach.askOverflow]; (repeat' split) <;> simp
@[simp] theorem Mach.takeOverflow_staged (p : PartId) (i : Nat) (bs : List Byte) (ok : Bool) :
    (m.takeOverflow p i bs ok).staged = m.staged := by
  unfold Mach.takeOverflow; (repeat' split) <;> simp
@[simp] theorem Mach.manifestDone_staged (p : PartId) (bytes : List Byte) (sigOk : Bool) (digest : BitVec 512) :
    (m.manifestDone p bytes sigOk digest).staged = m.staged := by
  dsimp only [Mach.manifestDone]; (repeat' split) <;> simp
@[simp] theorem Mach.askShard_staged (p : PartId) : (m.askShard p).staged = m.staged := by
  dsimp only [Mach.askShard]; (repeat' split) <;> simp
@[simp] theorem Mach.forwardFrom_staged (p : PartId) (i : Nat) : (m.forwardFrom p i).staged = m.staged := by
  unfold Mach.forwardFrom; split <;> simp

/-! ### HostPorts -/
@[simp] theorem Mach.setPortUp_staged (port : PortId) (up : Bool) : (m.setPortUp port up).staged = m.staged := (rfl)
@[simp] theorem Mach.rereadShards_staged (before : Mach) (port : PortId) : (Mach.rereadShards before m port).staged = m.staged := by
  refine foldl_staged _ (fun m p => ?_) _ _
  split
  · rfl
  · exact foldl_staged _ (fun m i => m.shardFailed_staged p i 2) _ _
@[simp] theorem Mach.endFetch_staged (port : PortId) : (m.endFetch port).staged = m.staged := by
  simp [Mach.endFetch]
@[simp] theorem Mach.tellPortDown_staged (port : PortId) : (m.tellPortDown port).staged = m.staged := by
  simp [Mach.tellPortDown]
@[simp] theorem Mach.portDown_staged (port : PortId) : (m.portDown port).staged = m.staged := by
  simp [Mach.portDown]
@[simp] theorem Mach.resetFuncs_staged (port : PortId) : (m.resetFuncs port).staged = m.staged := (rfl)
@[simp] theorem Mach.resetPort_staged (port : PortId) : (m.resetPort port).staged = m.staged := by
  simp [Mach.resetPort]
@[simp] theorem Mach.setLevel_staged (b : Nat) (on : Bool) : (m.setLevel b on).staged = m.staged := (rfl)
@[simp] theorem Mach.setPerst_staged (port : PortId) (on : Bool) : (m.setPerst port on).staged = m.staged := by
  simp [Mach.setPerst]

/-! ### Power -/
@[simp] theorem Mach.whenUp_staged (f : Mach → Mach) : (m.whenUp f).staged = if m.boot.moduleUp then (f m).staged else m.staged := by
  simp [Mach.whenUp]
@[simp] theorem Mach.nextFree_staged : m.nextFree.staged = m.staged := (rfl)
@[simp] theorem Mach.noteCut_staged : m.noteCut.staged = m.staged := by
  simp [Mach.noteCut]
@[simp] theorem Mach.setCap_staged : m.setCap.staged = m.staged := by
  unfold Mach.setCap; split <;> simp
@[simp] theorem Mach.settleFeeds_staged : m.settleFeeds.staged = m.staged := by
  simp [Mach.settleFeeds]
@[simp] theorem Mach.connectFeed_staged (feed : Nat) : (m.connectFeed feed).staged = m.staged :=
  (foldl_staged _ (by intros; rfl) _ _).trans rfl
@[simp] theorem Mach.noteMv_staged (feed mv : Nat) : (m.noteMv feed mv).staged = m.staged := by
  simp [Mach.noteMv]
@[simp] theorem Mach.feedFailover_staged (feed : Nat) : (m.feedFailover feed).staged = m.staged := by
  simp only [Mach.feedFailover, Mach.failHandover_staged, Mach.noteHitch_staged, Mach.eventAll_staged, Mach.evt_staged]
  exact foldl_staged _ (by intros; rfl) _ _
@[simp] theorem Mach.feedOut_staged (feed : FeedId) (mv : Nat) : (m.feedOut feed mv).staged = m.staged := by
  simp [Mach.feedOut]
@[simp] theorem Mach.saveRecords_staged : m.saveRecords.staged = m.staged := (rfl)
@[simp] theorem Mach.withdrawFeed_staged (feed : FeedId) : (m.withdrawFeed feed).staged = m.staged := by
  simp [Mach.withdrawFeed]
@[simp] theorem Mach.linksDown_staged (i : Nat) : (m.linksDown i).staged = m.staged :=
  foldl_staged _ (by intros; rfl) _ _
@[simp] theorem Mach.regulationLost_staged (i : Nat) : (m.regulationLost i).staged = m.staged := by
  have dark (ts : List Nat) (m : Mach) : (ts.foldl (fun m t => m.modTile t Tile.dark) m).staged = m.staged :=
    foldl_staged _ (by intros; rfl) _ _
  simp [Mach.regulationLost, dark]
@[simp] theorem Mach.suspectPallet_staged (i : Nat) : (m.suspectPallet i).staged = m.staged := by
  simp [Mach.suspectPallet]
@[simp] theorem Mach.freeRun_staged : m.freeRun.staged = m.staged := by
  simp [Mach.freeRun]
@[simp] theorem Mach.budgetDecision_staged : m.budgetDecision.staged = m.staged := by
  simp [Mach.budgetDecision]
@[simp] theorem Mach.askStep_staged (i : Nat) : (m.askStep i).staged = m.staged := (rfl)
@[simp] theorem Mach.enterEmergency_staged (w : Nat) : (m.enterEmergency w).staged = m.staged := by
  simp [Mach.enterEmergency]
@[simp] theorem Mach.leaveEmergency_staged (w : Nat) : (m.leaveEmergency w).staged = m.staged := by
  simp [Mach.leaveEmergency]
@[simp] theorem Mach.checkWall_staged (w : Nat) : (m.checkWall w).staged = m.staged := by
  simp [Mach.checkWall]
@[simp] theorem Mach.setCause_staged (w c : Nat) (on : Bool) : (m.setCause w c on).staged = m.staged := by
  simp [Mach.setCause]
@[simp] theorem Mach.setCauses_staged (c : Nat) (on : Bool) : (m.setCauses c on).staged = m.staged := by
  simp [Mach.setCauses]
@[simp] theorem Mach.publishPallet_staged (x : PalletSample) : (m.publishPallet x).staged = m.staged := (rfl)

/-! ### Links -/
@[simp] theorem Mach.setAl_staged (l v : Nat) : (m.setAl l v).staged = m.staged := (rfl)
@[simp] theorem Mach.sendControl_staged (l : LinkId) (nak : Option Nat) : (m.sendControl l nak).staged = m.staged := (rfl)
@[simp] theorem Mach.retrain_staged (l : Nat) : (m.retrain l).staged = m.staged := (rfl)
@[simp] theorem Mach.notePeer_staged (l : Nat) (peer : PeerId) : (m.notePeer l peer).staged = m.staged := (rfl)
@[simp] theorem Mach.replayFrom_staged (l : LinkId) (n : Nat) : (m.replayFrom l n).staged = m.staged := (rfl)
@[simp] theorem Mach.train_staged (l : LinkId) (ev : TrainEvent) : (m.train l ev).staged = m.staged := by
  dsimp only [Mach.train]; (repeat' split) <;> simp
@[simp] theorem Mach.chainFault_staged (p : PartId) : (m.chainFault p).staged = m.staged := (rfl)
@[simp] theorem Mach.linkMsg_staged (l : LinkId) (x : LinkMsg) : (m.linkMsg l x).staged = m.staged := by
  dsimp only [Mach.linkMsg]; (repeat' split) <;> simp
@[simp] theorem Mach.dataFrame_staged (l : LinkId) (seq ack : Nat) (ok : Bool) (xs : List LinkMsg) :
    (m.dataFrame l seq ack ok xs).staged = m.staged := by
  simp [Mach.dataFrame]
@[simp] theorem Mach.replay_staged (l : LinkId) (n : Nat) : (m.replay l n).staged = m.staged := by
  simp [Mach.replay]
@[simp] theorem Mach.frameSend_staged (l : LinkId) (msgs : List LinkMsg) : (m.frameSend l msgs).staged = m.staged := by
  dsimp only [Mach.frameSend]; (repeat' split) <;> simp
@[simp] theorem Mach.settleLanes_staged (l : Nat) : (m.settleLanes l).staged = m.staged := by
  simp [Mach.settleLanes]

/-! ### Security -/
@[simp] theorem Mach.reply_staged (d : Requester) (code : Nat) (body : List Nat) : (m.reply d code body).staged = m.staged := (rfl)
@[simp] theorem Mach.replyErr_staged (d : Requester) (e : Nat) : (m.replyErr d e).staged = m.staged := (rfl)
@[simp] theorem Mach.setSpdm_staged (d : Requester) (n : Nat) : (m.setSpdm d n).staged = m.staged := by
  unfold Mach.setSpdm; split <;> rfl
theorem Mach.spdm_staged (d : Requester) (need : Nat) {f : Mach → Mach} (hf : (f m).staged = m.staged) :
    (m.spdm d need f).staged = m.staged := by
  simp [Mach.spdm, hf]
@[simp] theorem Mach.keyDelivery_staged (w : Writer) (p : PartId) (x : KeyMsg) : (m.keyDelivery w p x).staged = m.staged := by
  simp [Mach.keyDelivery]
@[simp] theorem Mach.zeroise_staged : m.zeroise.staged = m.staged := by
  simp [Mach.zeroise]

/-! ### Debug -/
@[simp] theorem Mach.debugOp_staged (w : Writer) (p : PartId) (f : Mach → Mach) : (m.debugOp w p f).staged =
    if !m.reaches w p.val || m.debugLevel p.val == 0 then m.staged else if m.debugLevel p.val = 1 then m.staged else (f m).staged := by
  simp [Mach.debugOp]
@[simp] theorem Mach.access_staged (w : Writer) (p : PartId) (space : Nat) (f : Mach → Part → Nat → Tile → Access) :
    (m.access w p space f).staged = m.staged := by
  simp [Mach.access]
@[simp] theorem Mach.diagRun_staged (test : Nat) : (m.diagRun test).staged = m.staged := by
  dsimp only [Mach.diagRun]; (repeat' split) <;> simp

/-! ### Registers -/
@[simp] theorem Mach.scopeSet_staged (s : Option PartId) (f : Fld) (v : Nat) : (m.scopeSet s f v).staged = m.staged := by
  unfold Mach.scopeSet; split <;> rfl
@[simp] theorem Mach.writeErr_staged (s : Option PartId) (b : Blk) : (m.writeErr s b).staged = m.staged := by
  unfold Mach.writeErr; split <;> simp
@[simp] theorem Mach.unlatch_staged (old : Mach) : (Mach.unlatch old m).staged = m.staged := by
  simp [Mach.unlatch]
@[simp] theorem Mach.afterWrite_staged (old : Mach) (x : Place32) : (Mach.afterWrite old m x).staged = m.staged := by
  unfold Mach.afterWrite; split <;> simp
end
end Sys2Proof.Machine
end

section
/-! The module's staged values under every command but a write of a register: they stand, or all of them go (R525, R527). -/
namespace Sys2Proof.Machine

/-- The staged values are those there were, or none. -/
def Mach.stagedLeft (m m' : Mach) : Prop := m'.staged = m.staged ∨ m'.staged = []

theorem Mach.stagedLeft.stagedOk {m m' : Mach} (h : m.stagedLeft m') (hm : m.stagedOk) : m'.stagedOk := by
  unfold Mach.stagedOk
  rcases h with h | h <;> rw [h]
  · exact hm
  · exact List.forall_mem_nil _

/-- A write of the module's registers takes effect, does nothing, or sets LEASE_DROPPED. -/
theorem Mach.moduleWrite_cases (m : Mach) (w : Writer) (f : Mach → Mach) :
    m.moduleWrite w f = f m ∨ m.moduleWrite w f = m ∨ m.moduleWrite w f = m.evt Reg.HOST_EVT_LEASE_DROPPED := by
  unfold Mach.moduleWrite
  split
  · exact .inr (.inl rfl)
  split
  · exact .inl rfl
  · exact .inr (.inr rfl)

theorem Mach.moduleWrite_stagedLeft (m : Mach) (w : Writer) {f : Mach → Mach} (hf : ∀ m, Mach.stagedLeft m (f m)) :
    m.stagedLeft (m.moduleWrite w f) := by
  rcases m.moduleWrite_cases w f with h | h | h <;> rw [h]
  · exact hf m
  · exact .inl rfl
  · exact .inl (m.evt_staged _)

theorem Mach.whenUp_stagedLeft (m : Mach) {f : Mach → Mach} (hf : ∀ m, Mach.stagedLeft m (f m)) : m.stagedLeft (m.whenUp f) := by
  unfold Mach.whenUp
  split
  · exact hf m
  · exact .inl rfl

/-- The decision of a commit empties the staged values where every rule holds. -/
theorem Mach.decideModuleCommit_stagedLeft (m : Mach) : m.stagedLeft m.decideModuleCommit := by
  unfold Mach.decideModuleCommit
  dsimp only
  split
  · exact .inl rfl
  split
  · exact .inl rfl
  · right; simp

theorem Mach.moduleBeat_stagedLeft (m : Mach) : m.stagedLeft m.moduleBeat := by
  unfold Mach.moduleBeat
  split
  · exact .inl rfl
  · rcases Mach.decideModuleCommit_stagedLeft
      (({ m with beats := m.beats + 1 }.endFeedHold).modParts (fun P => P.isSealed) fun P => P.countHold.countHalt) with h | h
    · left; simp [h]
    · right; simp [h]

/-! ### Commands that step through a list -/

theorem foldl_unheld_staged (ps : List Nat) (m : Mach) :
    (ps.foldl (fun m p => m.modPart p fun P => { P with service := P.service - 1 }) m).staged = m.staged :=
  foldl_staged _ (by intros; rfl) _ _

/-- DISCARD empties the module's staged values, and leaves them where it is one of a partition. -/
theorem execDiscard_stagedLeft (w : Writer) (scope : Option PartId) (s : State) :
    ∃ m', execDiscard w scope s = .next { s with m := m' } ∧ s.m.stagedLeft m' := by
  refine ⟨_, rfl, ?_⟩
  cases scope with
  | none => exact s.m.moduleWrite_stagedLeft w fun m => .inr (Mach.setR_staged _ _ _)
  | some p => exact .inl (by simp)

/-- A fill of more than 8 lines does nothing. -/
theorem execSFill_staged (p : PartId) (station : Nat) (target : W64) (lines : List (List Byte)) (s : State) :
    ∃ m', execSFill p station target lines s = .next { s with m := m' } ∧ m'.staged = s.m.staged := by
  unfold execSFill
  split
  · exact ⟨_, rfl, rfl⟩
  · exact ⟨_, rfl, by simp⟩

theorem Mach.routeRewrite_staged (m : Mach) :
    (partIds.foldl Mach.noteDetour (m.routeHolds.foldl (fun m p => m.modPart p fun P => { P with service := P.service - 1 })
      { m with routesStale := [], routeHolds := [], tables := m.transit })).staged = m.staged :=
  (foldl_staged _ Mach.noteDetour_staged _ _).trans (foldl_unheld_staged _ _)

theorem exec_staged (c : Instr) (hc : ∀ w off size val poisoned, c ≠ .registerWrite w off size val poisoned) (s : State) :
    ∃ m', exec c s = .next { s with m := m' } ∧ s.m.stagedLeft m' := by
  cases c with
  | add | sub | and | or | xor | shl | shr | sar | slt | sltu | min | max | minu | maxu | mul | mulhs | mulhu | div | divu | rem | remu
    | clz | popc | addi | andi | ori | xori | shiShl | shiShr | shiSar | slti | sltiu | limm | jal | jalr | beq | bne | blt | bge | bltu
    | bgeu | ldb | ldbu | ldh | ldhu | ldw | ldwu | ldd | stb | sth | stw | std | crr | crw | vadd | vsub | vmul | vfma | vmin | vmax
    | vadds | vabs | vand | vor | vxor | vshl | vshr | vsar | vcvt | vsel | vcmpeq | vcmplt | vcmple | vexp2 | vlog2 | vrcp | vrsq
    | vredsum | vredmax | vbcast | vext | vpand | vpnot | vld | vldt | vldtk | vst | vstf | vtagset | vtagclr | kilnMul | kilnStore
    | kilnComplete | pass | passPhasesStart | passPhasesEnd | read | prog | refresh | erase | power | status | badCmd | badBlock | acq
    | put | putFill | get | addI32 | addF32 | falloc | fset | fclr | fwait | fwaitc | ftest | beat | turn | fence | rowRefreshSlot
    | refreshOverdue | calibrationStep | outlierVerification | illegal | vectorExecute =>
    exact ⟨_, rfl, .inl (Mach.act_staged _ _ _)⟩
  | powerOn | bootLoad | pldmFwActivate | fwCheck | bringUp | stage | bootAbort | handoverHold | handoverTimeout | teardown
    | kill | scrubDone | claim | release | leaseLapse | sqTail | cqHead | eqHead | streamHead | descriptorReadDone | ringFetchError
    | payloadReadDone | generate | tune | cancel | draft | steerWrite | steerRead | prefillPromotion | coalesceTimer | turnBoundary
    | idleBoundary | resultCollect | callPoint | beatBoundary | holdWatchdogExpiry | turnAbandon | abandonmentBoundary | forcedSlotDue
    | chainWire | sPut | sGet | sTget | flitRetransmit | linkErrorRate | refreshPeriodUpdate | calibrationDue | calEscalate | calRestart
    | accStatusUpdate | zeroingPassDone | bankPowerChangeDone | tileMoveDone | replaceDone | hostPortDown | functionLevelReset
    | perstChange | pcieLinkReset | feedOutOfRange | feedRestored | feedLowAlert | pwrFailWarn | railFault | refSwitch | syncInEdge
    | syncInAbsent | budgetDecision | loanRecall | thermalEmergency | coolOkChange | coolantSample | coolDemandUpdate | portTraining
    | dataFrame | frameSend | laneSuspect | register | load | loaderShardFetch | removalDone | keyDelivery | zeroise | enclosureOpened
    | halt | step | dbgResume | accessScratchpad | accessInstructionStore | accessArrayLevels | accessCtrlRegister | accessArrayProgram
    | accessArrayErase | diagRun | hostLinkUp | pcieConfigWrite | regulatorPhaseFail | osfpPlugIn =>
    exact ⟨_, rfl, .inl (by simp)⟩
  | svnFloorRaise | unparkDone | commit | turnMarkInstant | chainHoldInDeassert | arrayCmdComplete | packetArrival | parkEntryWrite
    | remoteAck | getDataArrival | sTgetWatchRead | stationResponse | patrol | bladeResSample | sidebandChatter | controlFrame | abort
    | resume | manifestVerified | shardArrival | shardMissingTimeout | relayManifest | relayShard | relayAck | relayNack | relayFail
    | relayHeld | relayResume | relayDrop | pldmMonitoring =>
    exact ⟨_, rfl, .inl (by dsimp only; (repeat' split) <;> simp)⟩
  | registerWrite w off size val poisoned => exact absurd rfl (hc w off size val poisoned)
  | moduleBeat => exact ⟨_, rfl, s.m.moduleBeat_stagedLeft⟩
  | discard w scope => exact execDiscard_stagedLeft w scope s
  | sFill p station target lines =>
    obtain ⟨m', e, h⟩ := execSFill_staged p station target lines s
    exact ⟨m', e, .inl h⟩
  | noFeedTimeout =>
    refine ⟨_, rfl, s.m.whenUp_stagedLeft fun m => ?_⟩
    split
    · exact .inr rfl
    · exact .inl rfl
  | thermalTrip => exact ⟨_, rfl, s.m.whenUp_stagedLeft fun m => .inr rfl⟩
  | routeTableRewrite =>
    refine ⟨_, rfl, .inl ?_⟩
    dsimp only
    split
    · rfl
    · exact s.m.routeRewrite_staged
  | replacementHoldLimit pal =>
    refine ⟨_, rfl, .inl ?_⟩
    dsimp only
    split
    · rfl
    · simp only [Mach.placementLost_staged, Mach.setR_staged]
      refine foldl_staged _ (fun m r => ?_) _ _
      split <;> rfl
  | powerStepDecision draws =>
    refine ⟨_, rfl, .inl ?_⟩
    simp only [Mach.whenUp_staged, ite_eq_right_iff]
    intro _
    refine foldl_staged _ (fun m p => ?_) _ _
    rw [foldl_staged _ Mach.askStep_staged]
    split
    · exact foldl_staged _ (by intros; rfl) _ _
    · rfl
  | fastLimit | thermalSample =>
    exact ⟨_, rfl, s.m.whenUp_stagedLeft fun m => .inl (by dsimp only; (repeat' split) <;> simp)⟩
  | stepChange p =>
    refine ⟨_, rfl, s.m.whenUp_stagedLeft fun m => .inl ?_⟩
    exact foldl_staged _ (by intros; rfl) _ _
  | telemetrySample mod_ pallets =>
    refine ⟨_, rfl, s.m.whenUp_stagedLeft fun m => .inl ?_⟩
    dsimp only
    rw [foldl_staged _ Mach.publishPallet_staged, Mach.settleFeeds_staged]
    refine foldl_staged _ (fun m i => ?_) _ _
    split <;> simp
  | tLine => exact ⟨_, rfl, .inl (Mach.endTest_staged _ _ _ (fun m => by split <;> simp) fun m => by simp)⟩
  | tBank => exact ⟨_, rfl, .inl (Mach.endTest_staged _ _ _ (fun m => rfl) fun m => by simp)⟩
  | tWord => exact ⟨_, rfl, .inl (Mach.endTest_staged _ _ _ (fun m => by split <;> simp) fun m => by simp)⟩
  | tArray => exact ⟨_, rfl, .inl (Mach.endTest_staged _ _ _ (fun m => by simp) fun m => by dsimp only; split <;> simp)⟩
  | tLink => exact ⟨_, rfl, .inl (Mach.endTest_staged _ _ _ (fun m => rfl) fun m => by simp)⟩
  | tRouter => exact ⟨_, rfl, .inl (Mach.endTest_staged _ _ _ (fun m => rfl) fun m => by simp)⟩
  | tLane => exact ⟨_, rfl, .inl (Mach.endTest_staged _ _ _ (fun m => by simp) fun m => by simp)⟩
  | getVersion | getCapabilities | negotiateAlgorithms | getDigests | getCertificate | challenge | spdmUnsupported =>
    exact ⟨_, rfl, .inl (Mach.spdm_staged _ _ _ (by simp))⟩
  | getMeasurements => exact ⟨_, rfl, .inl (Mach.spdm_staged _ _ _ (by dsimp only; (repeat' split) <;> simp))⟩
  | _ =>
    -- SEAL, the constructor that no alternative can name: its name is a command's keyword.
    exact ⟨_, rfl, .inl (by simp)⟩
end Sys2Proof.Machine
end

section
/-! The module's staged values under a write of a register (R10, R524), and so under every step. -/
namespace Sys2Proof.Machine

/-! ### The RWS fields of the module's blocks -/

/-- The RWS fields among these stand in blocks after BOOT_SETUP, the block of SVN_FLOOR. -/
def floorFree (fs : List Fld) : Prop := ∀ f ∈ fs, f.acc = .rws → Reg.SVN_FLOOR.blk.num < f.blk.num

theorem Fld.key_ne_floor {f : Fld} (h : Reg.SVN_FLOOR.blk.num < f.blk.num) : f.key ≠ Reg.SVN_FLOOR.key := by
  have hfloor : Reg.SVN_FLOOR.key = 4195072 := rfl
  have hblk : 2 < f.blk.num := h
  rw [hfloor, Fld.key]
  omega

theorem floorFree_of_no_rws {fs : List Fld} (h : ∀ f ∈ fs, f.acc ≠ .rws) : floorFree fs := fun f hf hr => absurd hr (h f hf)

theorem identFields_floorFree (off : Nat) : floorFree (identFields off) :=
  floorFree_of_no_rws (by unfold identFields; split <;> decide)
theorem stageFields_floorFree (off : Nat) : floorFree (stageFields off) :=
  floorFree_of_no_rws (by unfold stageFields; split <;> decide)
theorem bootFields_floorFree (off : Nat) : floorFree (bootFields off) :=
  floorFree_of_no_rws (by unfold bootFields; split <;> decide)
theorem diagFields_floorFree (off : Nat) : floorFree (diagFields off) :=
  floorFree_of_no_rws (by unfold diagFields; split <;> decide)
theorem bondFields_no_rws (w : Nat) : ∀ f ∈ bondFields w, f.acc ≠ .rws := by
  intro f hf
  obtain ⟨i, _, hi⟩ := List.mem_flatMap.mp hf
  simp only [List.mem_cons, List.not_mem_nil, or_false] at hi
  rcases hi with rfl | rfl | rfl <;> exact Acc.noConfusion
theorem svcFields_floorFree (off : Nat) : floorFree (svcFields off) := by
  refine floorFree_of_no_rws ?_
  unfold svcFields
  split
  · simp [Reg.SPARE_STATE, Reg.SPARE_FAULTS, Reg.SPARE_ROW, Reg.SPARE_TILE]
  split
  · exact bondFields_no_rws _
  · split <;> decide
/-- FUNC_MAP's fields are RWS, and in another block than SVN_FLOOR. -/
theorem funcMap_floorFree {i : Nat} :
    floorFree [Reg.FUNC_MAP_PE1_VALID i, Reg.FUNC_MAP_PE1_FUNC i, Reg.FUNC_MAP_PE0_VALID i, Reg.FUNC_MAP_PE0_FUNC i] := by
  simp [floorFree, Blk.num, Reg.FUNC_MAP_PE1_VALID, Reg.FUNC_MAP_PE1_FUNC, Reg.FUNC_MAP_PE0_VALID, Reg.FUNC_MAP_PE0_FUNC, Reg.SVN_FLOOR]
theorem portFields_floorFree (off : Nat) : floorFree (portFields off) := by
  unfold portFields
  split
  · exact funcMap_floorFree
  refine floorFree_of_no_rws ?_
  split
  · simp [alStatus, Reg.AL_STATUS_STATE, Reg.AL_STATUS_HALF, Reg.AL_STATUS_UPPER, Reg.AL_STATUS_PEER_PORT, Reg.AL_STATUS_LANE_FAULT,
      Reg.AL_STATUS_RETRAINS]
  split
  · simp [Reg.AL_PEER_PEER_SERIAL]
  split
  · simp [Reg.AL_RETRY_REPLAYS]
  · split <;> decide
theorem pwrFields_floorFree (off : Nat) : floorFree (pwrFields off) := by
  unfold pwrFields
  split
  · exact floorFree_of_no_rws (by simp [Reg.BLADE_R25, Reg.BLADE_BASE])
  split
  · exact floorFree_of_no_rws
      (by simp [Reg.PALLET_STEP, Reg.PALLET_PARKED, Reg.PALLET_EMERGENCY, Reg.PALLET_LIMIT, Reg.PALLET_DRAW])
  · unfold floorFree
    split <;> decide

theorem moduleBlk_floorFree {off : Nat} {b : Blk × Nat} (h : moduleBlk off = some b) : floorFree (fieldsAt b.1 b.2) := by
  unfold moduleBlk at h
  split at h
  · cases h; simpa only [fieldsAt] using identFields_floorFree _
  split at h
  · cases h; simpa only [fieldsAt] using stageFields_floorFree _
  split at h
  · cases h; simpa only [fieldsAt] using bootFields_floorFree _
  split at h
  · cases h; simpa only [fieldsAt] using diagFields_floorFree _
  split at h
  · cases h; simpa only [fieldsAt] using portFields_floorFree _
  split at h
  · cases h; simpa only [fieldsAt] using svcFields_floorFree _
  split at h
  · cases h; simpa only [fieldsAt] using pwrFields_floorFree _
  · cases h

/-- The place of a module block as a write reaches it. -/
theorem Mach.placeOf_module {m : Mach} {w : Writer} {off : Nat} {x : Place32} (h : m.placeOf w off = some x) (hx : x.part = none) :
    moduleBlk off = some (x.blk, x.off) := by
  unfold Mach.placeOf at h
  split at h
  · split at h
    · obtain ⟨b, _, rfl⟩ := Option.map_eq_some_iff.mp h
      cases hx
    · cases h
  · split at h
    · obtain ⟨b, hb, rfl⟩ := Option.map_eq_some_iff.mp h
      exact hb
    · cases h

/-! ### Fields -/

section
variable {m : Mach} (hm : m.stagedOk)
include hm

theorem Mach.stagedOk_of_staged {n : Mach} (h : n.staged = m.staged) : n.stagedOk := Mach.stagedLeft.stagedOk (.inl h) hm

theorem Mach.scopeStage_stagedOk (s : Option PartId) (f : Fld) (v : Nat) (hr : f.acc = .rws)
    (hk : s = none → f.key ≠ Reg.SVN_FLOOR.key) : (m.scopeStage s f v).stagedOk := by
  cases s with
  | some p => exact Mach.stagedOk_of_staged hm (Mach.modPart_staged _ _ _)
  | none =>
    intro x hx
    rcases List.mem_append.mp hx with hx | hx
    · exact hm x (List.mem_of_mem_filter hx)
    · rw [List.mem_singleton.mp hx]
      exact ⟨hr, hk rfl⟩

theorem Mach.writeField_stagedOk (s : Option PartId) (v32 : Nat) (f : Fld)
    (hk : s = none → f.acc = .rws → f.key ≠ Reg.SVN_FLOOR.key) : (m.writeField s v32 f).stagedOk := by
  have keeps {n : Mach} (h : n.staged = m.staged) : n.stagedOk := Mach.stagedOk_of_staged hm h
  unfold Mach.writeField
  dsimp only
  split
  · exact hm
  · exact hm
  · exact keeps (by split <;> simp)
  · exact keeps (by simp)
  · next hr =>
    split
    · exact hm
    split
    · exact keeps (by simp)
    split
    · exact keeps (by simp)
    · exact Mach.scopeStage_stagedOk hm s f _ hr fun hs => hk hs hr
  · exact keeps (by (repeat' split) <;> simp)

/-! ### Commands that a write carries -/

theorem Mach.asCommand_stagedOk (c : Instr) (hc : ∀ w off size val poisoned, c ≠ .registerWrite w off size val poisoned) :
    (m.asCommand (exec c)).stagedOk := by
  obtain ⟨m', e, h⟩ := exec_staged c hc ⟨[], m⟩
  unfold Mach.asCommand
  rw [e]
  exact h.stagedOk hm

theorem Mach.commandField_stagedOk (w : Writer) (x : Place32) (v32 : Nat) (f : Fld) : (m.commandField w x v32 f).stagedOk := by
  unfold Mach.commandField
  dsimp only
  split
  · exact hm
  split
  next p _ _ _ => exact Mach.asCommand_stagedOk hm (.seal w p) nofun
  next p _ _ _ => exact Mach.asCommand_stagedOk hm (.teardown w p) nofun
  next p _ _ _ => exact Mach.asCommand_stagedOk hm (.kill w p) nofun
  next p _ _ _ => exact Mach.asCommand_stagedOk hm (.commit w (some p)) nofun
  next p _ _ _ => exact Mach.asCommand_stagedOk hm (.discard w (some p)) nofun
  · exact Mach.asCommand_stagedOk hm (.commit w none) nofun
  · exact Mach.asCommand_stagedOk hm (.discard w none) nofun
  · exact Mach.asCommand_stagedOk hm (.bootLoad w) nofun
  · exact Mach.asCommand_stagedOk hm (.stage w) nofun
  · exact Mach.asCommand_stagedOk hm (.bootAbort w) nofun
  · exact Mach.asCommand_stagedOk hm (.diagRun w _) nofun
  · split
    · exact Mach.asCommand_stagedOk hm (.claim w) nofun
    · exact Mach.asCommand_stagedOk hm (.release w) nofun
  next p _ _ =>
    split
    · exact hm
    split
    · exact Mach.asCommand_stagedOk hm (.register w p _) nofun
    split
    · exact Mach.asCommand_stagedOk hm (.load w p _) nofun
    split
    · exact Mach.asCommand_stagedOk hm (.abort w p _) nofun
    · exact Mach.asCommand_stagedOk hm (.resume w p) nofun
  next p _ _ _ => exact Mach.asCommand_stagedOk hm (.halt w p) nofun
  next p _ _ _ => exact Mach.asCommand_stagedOk hm (.step w p) nofun
  next p _ _ _ => exact Mach.asCommand_stagedOk hm (.dbgResume w p) nofun
  next p _ _ _ =>
    have drawn : Mach.stagedOk { m with ctr := m.ctr + 1 } := hm
    split
    · exact Mach.asCommand_stagedOk hm (.accessScratchpad w p) nofun
    · exact Mach.asCommand_stagedOk hm (.accessInstructionStore w p) nofun
    · exact Mach.asCommand_stagedOk hm (.accessArrayLevels w p) nofun
    · exact Mach.asCommand_stagedOk hm (.accessCtrlRegister w p) nofun
    · exact Mach.asCommand_stagedOk drawn (.accessArrayProgram w p _) nofun
    · exact Mach.asCommand_stagedOk drawn (.accessArrayErase w p _) nofun
    · exact hm
  · exact hm

/-! ### Registers -/

theorem Mach.writeTaken_stagedOk (w : Writer) (x : Place32) (v32 : Nat) (hx : x.part = none → floorFree (fieldsAt x.blk x.off)) :
    (m.writeTaken w x v32).stagedOk := by
  have fields (n : Mach) (hn : n.stagedOk) :
      ((fieldsAt x.blk x.off).foldl (fun m f => m.writeField x.part v32 f) n).stagedOk :=
    List.foldlRecOn _ _ hn fun n hn f hf => Mach.writeField_stagedOk hn x.part v32 f fun hp hr => Fld.key_ne_floor (hx hp f hf hr)
  unfold Mach.writeTaken
  dsimp only
  split
  · exact Mach.stagedOk_of_staged hm (Mach.writeErr_staged _ _ _)
  · exact List.foldlRecOn _ _ (Mach.stagedOk_of_staged (fields m hm) (Mach.afterWrite_staged _ _ _)) fun n hn f _ =>
      Mach.commandField_stagedOk hn w x v32 f

theorem Mach.moduleWrite_stagedOk (w : Writer) {f : Mach → Mach} (hf : ∀ n : Mach, n.stagedOk → (f n).stagedOk) :
    (m.moduleWrite w f).stagedOk := by
  rcases m.moduleWrite_cases w f with h | h | h <;> rw [h]
  · exact hf m hm
  · exact hm
  · exact Mach.stagedOk_of_staged hm (Mach.evt_staged _ _)

theorem Mach.bootOp_stagedOk (w : Writer) {f : Mach → Mach} (hf : ∀ n : Mach, n.stagedOk → (f n).stagedOk) :
    (m.bootOp w f).stagedOk := by
  unfold Mach.bootOp
  split
  · exact Mach.moduleWrite_stagedOk hm w hf
  split
  · exact hf m hm
  · exact hm

theorem Mach.write32_stagedOk (w : Writer) (off v32 : Nat) : (m.write32 w off v32).stagedOk := by
  unfold Mach.write32
  split
  · exact hm
  next x hx =>
    have taken (n : Mach) (hn : n.stagedOk) : (n.writeTaken w x v32).stagedOk :=
      Mach.writeTaken_stagedOk hn w x v32 fun hp => moduleBlk_floorFree (Mach.placeOf_module hx hp)
    split
    · split
      · exact hm
      split
      · exact Mach.stagedOk_of_staged hm (Mach.onPart_staged _ _ _)
      · exact taken m hm
    · split
      · exact Mach.bootOp_stagedOk hm w taken
      · exact Mach.moduleWrite_stagedOk hm w taken

end

theorem execRegisterWrite_stagedOk {s s' : State} (hs : s.m.stagedOk) {w : Writer} {off size : Nat} {val : W64} {poisoned : Bool}
    (h : execRegisterWrite w off size val poisoned s = .next s') : s'.m.stagedOk := by
  cases h
  dsimp only
  split
  · exact hs
  split
  · exact Mach.write32_stagedOk hs w _ _
  split
  · exact Mach.write32_stagedOk (Mach.write32_stagedOk hs w _ _) w _ _
  · exact hs

theorem exec_stagedOk {c : Instr} {s s' : State} (hs : s.m.stagedOk) (h : exec c s = .next s') : s'.m.stagedOk := by
  by_cases hc : ∀ w off size val poisoned, c ≠ .registerWrite w off size val poisoned
  · obtain ⟨m', e, hm⟩ := exec_staged c hc s
    cases e.symm.trans h
    exact hm.stagedOk hs
  · push Not at hc
    obtain ⟨w, off, size, val, poisoned, rfl⟩ := hc
    exact execRegisterWrite_stagedOk hs h

/-- Settles O58: a register write stages RWS fields alone, and every other command leaves the staged values as they are or empties them. -/
theorem stagedFields : Obligations.StagedFields := by
  intro s s' hs h
  unfold step at h
  split at h
  · cases h
    exact hs
  next c cs _ => exact exec_stagedOk (s := { s with pending := cs }) hs h

end Sys2Proof.Machine
end

section
/-! Writes of a partition's registers through the physical function (R10, R12, R486, R524, R528). -/
namespace Sys2Proof

theorem Map.insert_insert {α : Type} (m : Map α) (k : Nat) (v v' : α) : Map.insert (Map.insert m k v) k v' = Map.insert m k v' := by
  induction m with
  | nil => simp [Map.insert]
  | cons e m ih =>
    obtain ⟨j, u⟩ := e
    simp only [Map.insert]
    split
    · simp [Map.insert]
    split
    · simp [Map.insert]
    · simp [Map.insert, *]

/-- The later of two values listed at one key stands. -/
theorem Map.set_set_listed {α : Type} [DecidableEq α] {d v v' : α} (hv : v ≠ d) (hv' : v' ≠ d) (m : Map α) (k : Nat) :
    Map.set d (Map.set d m k v) k v' = Map.set d m k v' := by
  simp [Map.set, hv, hv', Map.insert_insert]

namespace Machine

/-! ### A partition that differs from its reset state -/

theorem Mach.part_setPart_listed {P : Part} (h : P ≠ {}) (m : Mach) (p : Nat) : (m.setPart p P).part p = P :=
  Map.get_set_listed h m.parts p
theorem Mach.setPart_setPart_listed {P Q : Part} (hP : P ≠ {}) (hQ : Q ≠ {}) (m : Mach) (p : Nat) :
    (m.setPart p P).setPart p Q = m.setPart p Q :=
  congrArg (fun ps => { m with parts := ps }) (Map.set_set_listed hP hQ m.parts p)

theorem Part.ne_reset_of_staged {P : Part} (h : P.staged ≠ []) : P ≠ {} := fun e => h (congrArg Part.staged e)

/-! ### An event bit -/

/-- The bit of an event whose reset value is 0 reads 1 once it is set. -/
theorem Part.getR_evt_same (P : Part) {e : Fld} (hr : e.reset = 0) (hw : e.width = 1) : (P.evt e).getR e = 1 := by
  have h1 : 1 % 2 ^ e.width = 1 := by rw [hw]; rfl
  have hne : 1 % 2 ^ e.width ≠ e.reset := by rw [h1, hr]; decide
  exact (Map.get_set_listed hne P.regs e.key).trans h1

/-- `Q` is `P` with the event bit set: its staged values and every other field are those of `P`. -/
def Part.raised (e : Fld) (P Q : Part) : Prop :=
  Q.flagR e = true ∧ Q.staged = P.staged ∧ ∀ f : Fld, f.key ≠ e.key → Q.getR f = P.getR f

theorem Part.raised_evt (P : Part) {e : Fld} (hr : e.reset = 0) (hw : e.width = 1) : Part.raised e P (P.evt e) := by
  refine ⟨?_, rfl, fun f hf => Part.getR_setR_other hf P 1⟩
  have h := Part.getR_evt_same P hr hw
  simpa [Part.flagR, RegFile.flag, Part.getR] using h
theorem Part.raised.trans {e : Fld} {P Q R : Part} (h : Part.raised e P Q) (h' : Part.raised e Q R) : Part.raised e P R :=
  ⟨h'.1, h'.2.1.trans h.2.1, fun f hf => (h'.2.2 f hf).trans (h.2.2 f hf)⟩

theorem Mach.part_modPart_evt (m : Mach) (p : Nat) {e : Fld} (hr : e.reset = 0) (hw : e.width = 1) :
    (m.modPart p fun P => P.evt e).part p = (m.part p).evt e := by
  refine Mach.part_setPart_listed (fun h => ?_) m p
  have h1 := Part.getR_evt_same (m.part p) hr hw
  exact absurd (hr.symm.trans ((congrArg (·.getR e) h).symm.trans h1)) (by decide)

/-! ### One field of a write -/

/-- The partition with the field of a word staged. -/
def Part.stageField (v32 : Nat) (P : Part) (f : Fld) : Part := { P with staged := stage P.staged f (bits v32 f.lo f.width) }

theorem Part.stageField_ne_reset (v32 : Nat) (P : Part) (f : Fld) : P.stageField v32 f ≠ {} :=
  Part.ne_reset_of_staged (List.append_ne_nil_of_right_ne_nil _ (List.cons_ne_nil _ _))
theorem Part.foldl_stageField (v32 : Nat) (fs : List Fld) (P : Part) : fs.foldl (Part.stageField v32) P
    = { P with staged := fs.foldl (fun st f => stage st f (bits v32 f.lo f.width)) P.staged } := by
  induction fs generalizing P with
  | nil => rfl
  | cons f fs ih => exact ih _

section
variable {m : Mach} {p : PartId} {v32 : Nat} {f : Fld}

/-- A field of RWS access while no commit is pending. -/
theorem Mach.writeField_rws_stages (hr : f.acc = .rws) (ht : f.blk ≠ .tile) (hc : (m.part p.val).getR Reg.COMMIT_STATUS_STATE ≠ 1)
    (hlo : f.min ≤ bits v32 f.lo f.width) (hhi : bits v32 f.lo f.width ≤ f.max) :
    m.writeField (some p) v32 f = m.setPart p.val ((m.part p.val).stageField v32 f) := by
  have own : m.foreignTile (some p) f = false := by simp [Mach.foreignTile, ht]
  have known : f.reserved (bits v32 f.lo f.width) = false := by simp [Fld.reserved, hlo, hhi]
  simp [Mach.writeField, hr, own, known, Mach.scopeGet, Mach.scopeStage, hc, Mach.modPart, Part.stageField]

/-- A field of RWS access while a commit is pending. -/
theorem Mach.writeField_rws_busy (hr : f.acc = .rws) (ht : f.blk ≠ .tile) (hc : (m.part p.val).getR Reg.COMMIT_STATUS_STATE = 1) :
    m.writeField (some p) v32 f = m.modPart p.val fun P => P.evt Reg.STAGE_EVT_STAGE_BUSY := by
  have own : m.foreignTile (some p) f = false := by simp [Mach.foreignTile, ht]
  simp [Mach.writeField, hr, own, Mach.scopeGet, Mach.scopeSet, hc, Part.evt]

/-- A field of RWL access outside FREE. -/
theorem Mach.writeField_rwl_locked (hr : f.acc = .rwl) (hs : (m.part p.val).state ≠ stFree) :
    m.writeField (some p) v32 f = m.modPart p.val Part.lockViolation := by
  simp [Mach.writeField, hr, hs]

end

/-! ### The fields of a register -/

section
variable {p : PartId} {v32 : Nat}

theorem Mach.foldl_writeField_setPart {fs : List Fld} (hfs : ∀ f ∈ fs, f.acc = .rws ∧ f.blk ≠ .tile
      ∧ f.min ≤ bits v32 f.lo f.width ∧ bits v32 f.lo f.width ≤ f.max)
    (m : Mach) {P : Part} (hP : P ≠ {}) (hc : P.getR Reg.COMMIT_STATUS_STATE ≠ 1) :
    fs.foldl (fun m f => m.writeField (some p) v32 f) (m.setPart p.val P) = m.setPart p.val (fs.foldl (Part.stageField v32) P) := by
  induction fs generalizing P with
  | nil => rfl
  | cons f fs ih =>
    obtain ⟨⟨hr, ht, hlo, hhi⟩, hrest⟩ := List.forall_mem_cons.mp hfs
    have hget := Mach.part_setPart_listed hP m p.val
    have hP' := P.stageField_ne_reset v32 f
    rw [List.foldl_cons, Mach.writeField_rws_stages hr ht (by rwa [hget]) hlo hhi, hget, Mach.setPart_setPart_listed hP hP']
    exact ih hrest hP' hc

/-- Every field of the register staged in turn. -/
theorem Mach.foldl_writeField_stages {fs : List Fld} (hfs : ∀ f ∈ fs, f.acc = .rws ∧ f.blk ≠ .tile
      ∧ f.min ≤ bits v32 f.lo f.width ∧ bits v32 f.lo f.width ≤ f.max)
    {m : Mach} (hc : (m.part p.val).getR Reg.COMMIT_STATUS_STATE ≠ 1) (hne : fs ≠ []) :
    fs.foldl (fun m f => m.writeField (some p) v32 f) m = m.setPart p.val (fs.foldl (Part.stageField v32) (m.part p.val)) := by
  obtain ⟨f, fs, rfl⟩ := List.exists_cons_of_ne_nil hne
  obtain ⟨⟨hr, ht, hlo, hhi⟩, hrest⟩ := List.forall_mem_cons.mp hfs
  rw [List.foldl_cons, Mach.writeField_rws_stages hr ht hc hlo hhi]
  exact Mach.foldl_writeField_setPart hrest m ((m.part p.val).stageField_ne_reset v32 f) hc

/-- Where every field only sets the event bit as long as field `g` reads as it did, so does the register. -/
theorem Mach.foldl_writeField_raised {e g : Fld} (he : e.reset = 0) (hw : e.width = 1) (hg : g.key ≠ e.key) {fs : List Fld} {v : Nat}
    (hfs : ∀ f ∈ fs, ∀ n : Mach, (n.part p.val).getR g = v → n.writeField (some p) v32 f = n.modPart p.val fun P => P.evt e)
    {m : Mach} (hm : (m.part p.val).getR g = v) (hne : fs ≠ []) :
    Part.raised e (m.part p.val) ((fs.foldl (fun m f => m.writeField (some p) v32 f) m).part p.val) := by
  have step {n : Mach} {f : Fld} (hf : f ∈ fs) (hn : (n.part p.val).getR g = v) :
      Part.raised e (n.part p.val) ((n.writeField (some p) v32 f).part p.val) := by
    rw [hfs f hf n hn, Mach.part_modPart_evt n p.val he hw]
    exact Part.raised_evt _ he hw
  obtain ⟨f, fs', rfl⟩ := List.exists_cons_of_ne_nil hne
  exact List.foldlRecOn fs' _ (motive := fun n => Part.raised e (m.part p.val) (n.part p.val)) (step List.mem_cons_self hm)
    fun (n : Mach) hn f' hf' => Part.raised.trans hn (step (List.mem_cons_of_mem f hf') ((hn.2.2 g hg).trans hm))

end

/-! ### The register -/

theorem Mach.commandField_of_not_wo {f : Fld} (hf : f.acc ≠ .wo) (m : Mach) (w : Writer) (x : Place32) (v32 : Nat) :
    m.commandField w x v32 f = m := if_pos (by simpa using hf)

/-- Of a partition's blocks, writes of TILE_SETUP and DEBUG_SETUP alone have effects beside the fields. -/
theorem Mach.afterWrite_fields {p : PartId} {b : Blk} (ht : b ≠ .tile) (hd : b ≠ .debug) (old m : Mach) (o : Nat) :
    Mach.afterWrite old m ⟨some p, b, o⟩ = m := by
  unfold Mach.afterWrite
  split
  next h => exact absurd h ht
  next h => exact absurd h hd
  next h _ => cases h
  · rfl

/-- A register whose fields carry no command, outside the blocks with further effects of a write. -/
theorem Mach.writeTaken_fields {m : Mach} {w : Writer} {p : PartId} {b : Blk} {o v32 : Nat} (ht : b ≠ .tile) (hd : b ≠ .debug)
    (hfs : ∀ f ∈ fieldsAt b o, f.acc ≠ .wo) :
    m.writeTaken w ⟨some p, b, o⟩ v32 = (fieldsAt b o).foldl (fun m f => m.writeField (some p) v32 f) m := by
  have good : badCommand (fieldsAt b o) v32 = false := List.any_eq_false.mpr fun f hf => by simp [hfs f hf]
  have quiet (n : Mach) : (fieldsAt b o).foldl (fun m f => m.commandField w ⟨some p, b, o⟩ v32 f) n = n :=
    List.foldlRecOn _ _ (motive := fun k => k = n) rfl fun k hk f hf => (Mach.commandField_of_not_wo (hfs f hf) k w _ v32).trans hk
  simp only [Mach.writeTaken, good, Mach.afterWrite_fields ht hd, quiet, Bool.false_eq_true, if_false]

/-- The physical function's view of partition `p`'s region. -/
theorem regionOf_physical (p : PartId) {o : Nat} (ho : o < 0x100000) : regionOf 0 (0x1000000 + 0x100000 * p.val + o) = some (p, o) := by
  obtain ⟨p, hp⟩ := p
  have hbase : 0x1000000 ≤ 0x1000000 + 0x100000 * p + o := by omega
  have hdiv : (0x1000000 + 0x100000 * p + o - 0x1000000) / 0x100000 = p := by omega
  have hmod : (0x1000000 + 0x100000 * p + o - 0x1000000) % 0x100000 = o := by omega
  simp only [regionOf, if_true, hdiv, hmod, dif_pos (And.intro hbase hp)]

/-- A 4 B write by the physical function of a register of a partition. -/
theorem exec_registerWrite_part {s : State} {w : Writer} {p : PartId} {o o' : Nat} {b : Blk} {val : W64} (hw : w.func.val = 0)
    (hr : s.m.ready = true) (ha : (0x1000000 + 0x100000 * p.val + o) % 4 = 0) (ho : o < 0x10000) (hb : partBlk o = some (b, o'))
    (hd : b ≠ .debug) (hl : b ≠ .load) :
    exec (.registerWrite w (0x1000000 + 0x100000 * p.val + o) 4 val false) s
      = .next { s with m := s.m.writeTaken w ⟨some p, b, o'⟩ (val.toNat % 2 ^ 32) } := by
  have place : s.m.placeOf w (0x1000000 + 0x100000 * p.val + o) = some ⟨some p, b, o'⟩ := by
    have region := regionOf_physical p (Nat.lt_trans ho (by decide : 0x10000 < 0x100000))
    simp [Mach.placeOf, hw, region, Mach.reaches, hr, hb]
  have written (v32 : Nat) : s.m.write32 w (0x1000000 + 0x100000 * p.val + o) v32 = s.m.writeTaken w ⟨some p, b, o'⟩ v32 := by
    simp [Mach.write32, place, hd, hl]
  rw [← written]
  simp [exec, execRegisterWrite, lift_next, ha]

section
variable {s : State} {w : Writer} {p : PartId} {o o' : Nat} {b : Blk} {val : W64} (hw : w.func.val = 0) (hr : s.m.ready = true)
  (ha : (0x1000000 + 0x100000 * p.val + o) % 4 = 0) (ho : o < 0x10000) (hb : partBlk o = some (b, o'))
include hw hr ha ho hb

/-- A register of fields without a command, in a block with no further effects: its fields are written in turn. -/
theorem exec_registerWrite_fields (hd : b ≠ .debug) (hl : b ≠ .load) (ht : b ≠ .tile) (hfs : ∀ f ∈ fieldsAt b o', f.acc ≠ .wo) :
    exec (.registerWrite w (0x1000000 + 0x100000 * p.val + o) 4 val false) s = .next { s with
      m := (fieldsAt b o').foldl (fun m f => m.writeField (some p) (val.toNat % 2 ^ 32) f) s.m } := by
  rw [exec_registerWrite_part hw hr ha ho hb hd hl, Mach.writeTaken_fields ht hd hfs]

/-- R524: the fields of the word are staged. -/
theorem exec_registerWrite_stages (hd : b ≠ .debug) (hl : b ≠ .load) (ht : b ≠ .tile)
    (hfs : ∀ f ∈ fieldsAt b o', f.acc = .rws ∧ f.blk = b) (hc : (s.m.part p.val).getR Reg.COMMIT_STATUS_STATE ≠ 1)
    (hv : ∀ f ∈ fieldsAt b o', f.min ≤ bits (val.toNat % 2 ^ 32) f.lo f.width ∧ bits (val.toNat % 2 ^ 32) f.lo f.width ≤ f.max)
    (hne : fieldsAt b o' ≠ []) :
    exec (.registerWrite w (0x1000000 + 0x100000 * p.val + o) 4 val false) s = .next (s.withPart p { s.m.part p.val with
      staged := (fieldsAt b o').foldl (fun st f => stage st f (bits (val.toNat % 2 ^ 32) f.lo f.width)) (s.m.part p.val).staged }) := by
  rw [exec_registerWrite_fields hw hr ha ho hb hd hl ht fun f hf => by simp [(hfs f hf).1],
    Mach.foldl_writeField_stages (fun f hf => ⟨(hfs f hf).1, (hfs f hf).2 ▸ ht, hv f hf⟩) hc hne, Part.foldl_stageField]
  rfl

/-- R528: while a commit is pending the fields of the word are dropped. -/
theorem exec_registerWrite_busy (hd : b ≠ .debug) (hl : b ≠ .load) (ht : b ≠ .tile)
    (hfs : ∀ f ∈ fieldsAt b o', f.acc = .rws ∧ f.blk = b) (hc : (s.m.part p.val).getR Reg.COMMIT_STATUS_STATE = 1)
    (hne : fieldsAt b o' ≠ []) : ∃ s', exec (.registerWrite w (0x1000000 + 0x100000 * p.val + o) 4 val false) s = .next s'
      ∧ Part.raised Reg.STAGE_EVT_STAGE_BUSY (s.m.part p.val) (s'.m.part p.val) :=
  ⟨_, exec_registerWrite_fields hw hr ha ho hb hd hl ht fun f hf => by simp [(hfs f hf).1],
    Mach.foldl_writeField_raised (g := Reg.COMMIT_STATUS_STATE) rfl rfl (by decide)
      (fun f hf _ hn => Mach.writeField_rws_busy (hfs f hf).1 ((hfs f hf).2 ▸ ht) hn) hc hne⟩

/-- R12: outside FREE the fields of the word are dropped. -/
theorem exec_registerWrite_locked (hd : b ≠ .debug) (hl : b ≠ .load) (ht : b ≠ .tile) (hfs : ∀ f ∈ fieldsAt b o', f.acc = .rwl)
    (hs : (s.m.part p.val).state ≠ 0) (hne : fieldsAt b o' ≠ []) :
    ∃ s', exec (.registerWrite w (0x1000000 + 0x100000 * p.val + o) 4 val false) s = .next s'
      ∧ Part.raised Reg.PART_EVT_LOCK_VIOLATION (s.m.part p.val) (s'.m.part p.val) :=
  ⟨_, exec_registerWrite_fields hw hr ha ho hb hd hl ht fun f hf => by simp [hfs f hf],
    Mach.foldl_writeField_raised (g := Reg.PART_STATUS_STATE) rfl rfl (by decide)
      (fun f hf _ hn => Mach.writeField_rwl_locked (hfs f hf) (hn.trans_ne hs)) rfl hne⟩

end

/-- A write of another size or alignment. -/
theorem exec_registerWrite_misaligned (s : State) (w : Writer) {n size : Nat} (val : W64) (h4 : ¬(size = 4 ∧ n % 4 = 0))
    (h8 : ¬(size = 8 ∧ n % 8 = 0)) :
    exec (.registerWrite w n size val false) s = .next { s with m := { s.m with out := s.m.out ++ [.aer w.port] } } := by
  simp [exec, execRegisterWrite, lift_next, h4, h8, Mach.send]

/-- Settles O31: the fields of the word in turn, each staged, dropped with STAGE_BUSY or dropped with LOCK_VIOLATION. -/
theorem registerWrites : Obligations.RegisterWrites := by
  unfold Obligations.RegisterWrites
  intro s w p o o' b val
  refine ⟨fun hw hr ha ho hb => ⟨fun hblk hfs => ?rws, ?rwl⟩, fun n size => rfl, fun n size h4 h8 =>
    ⟨_, exec_registerWrite_misaligned s w val h4 h8, rfl⟩⟩
  case rws =>
    have hd : b ≠ .debug := by rcases hblk with rfl | rfl | rfl | rfl <;> decide
    have hl : b ≠ .load := by rcases hblk with rfl | rfl | rfl | rfl <;> decide
    have ht : b ≠ .tile := by rcases hblk with rfl | rfl | rfl | rfl <;> decide
    refine ⟨fun hc hv hne => exec_registerWrite_stages hw hr ha ho hb hd hl ht hfs hc hv hne, fun hc hne => ?_⟩
    obtain ⟨s', hs', hflag, hstaged, -⟩ := exec_registerWrite_busy hw hr ha ho hb hd hl ht hfs hc hne
    exact ⟨s', hs', hstaged, hflag⟩
  case rwl =>
    rintro rfl hfs hne hs
    obtain ⟨s', hs', hflag, -, hkept⟩ := exec_registerWrite_locked hw hr ha ho hb (by decide) (by decide) (by decide) hfs hs hne
    exact ⟨s', hs', hflag, hkept⟩

end Machine
end Sys2Proof
end

section
/-! O48: the idle boundary of a request whose stream number lies above those of R319. -/
namespace Sys2Proof.Machine

/-! ### A partition at its idle boundary -/

/-- A request of stream 64, one above the last of the 64 streams. -/
def strayReq : Req := { desc := { stream := 64, len := 1 } }
/-- Slot 0 claimed by that request. -/
def straySlot : Slot := { req := some strayReq }
/-- A SEALED partition that takes a boundary now: slot 0 waits to be bound, and ring 67 = 3 + 64 is marked full. -/
def strayPart : Part :=
  { Part.setR {} Reg.PART_STATUS_STATE stSealed with
    decided := true, boundaryNext := true, slots := [(0, straySlot)], rings := [(67, { full := true })] }
/-- The module with that partition, its pallet 0 and the member tile 0. -/
def strayState : State :=
  { pending := [], m := { tiles := [(0, { member := true })], parts := [(0, strayPart)], pallets := [(0, { owner := some 0 })] } }

theorem strayState_ordered : strayState.m.ordered := by unfold Mach.ordered; decide

/-- The rings of the 64 streams are empty; ring 67 is none of them. -/
theorem strayPart_ring {n : Nat} (hn : n < 64) : strayPart.ring (3 + n) = {} := by
  have other : 3 + n ≠ 67 := by omega
  simp [Part.ring, strayPart, Map.get, Map.find, other]
theorem strayPart_quiet : strayPart.quiet := by
  refine ⟨rfl, rfl, rfl, rfl, rfl, rfl, rfl, by decide, by decide, fun n hn => ?_⟩
  rw [strayPart_ring hn]
  decide

/-- The boundary binds slot 0 and, as the ring of its stream is full, pauses its request at once (R319, R320). -/
theorem idleBoundary_pauses_strayReq : ∃ s', exec (.idleBoundary 0) strayState = .next s'
    ∧ ((s'.m.part 0).slot 0).req.map (·.hostPaused) = some true :=
  ⟨_, rfl, by decide +kernel⟩

/-- Refutes O48, by its clause on idle boundaries: `Part.quiet` speaks of the rings of streams 0 to 63 only, and no premise keeps the
request's stream below 64, as check 2 of R323 does at admission. A request of stream 64 whose ring is full is paused by the boundary that
binds it, where the clause has it unpaused. -/
theorem not_turnBoundaries : ¬ Obligations.TurnBoundaries := by
  unfold Obligations.TurnBoundaries
  intro h
  obtain ⟨-, -, hturn, -⟩ := h strayState 0 default 0 0
  obtain ⟨-, hidle⟩ := hturn (by decide) (by decide) (by decide) strayPart_quiet (by unfold Part.regsOk; decide)
  obtain ⟨s', hs', -, -, -, -, -, -, hreq, -⟩ := hidle 0 straySlot strayReq (by decide) (by decide) rfl rfl rfl rfl rfl rfl rfl rfl
    rfl rfl rfl (by decide) strayState_ordered (by decide)
  obtain ⟨t, ht, hpaused⟩ := idleBoundary_pauses_strayReq
  obtain rfl : s' = t := by rw [hs'] at ht; exact Host.Outcome.next.inj ht
  have unpaused : ((s'.m.part 0).slot 0).req.map (·.hostPaused) = some false := congrArg (Option.map Req.hostPaused) hreq
  rw [unpaused] at hpaused
  exact absurd hpaused (by decide)

end Sys2Proof.Machine
end


section
/-! Array commands: records, arrays, the controller's queue with one command, and their report. -/
namespace Sys2Proof

/-! ### Stores and lists -/

/-- A count at each of several keys, each once: the keys named read one more, and every other key as before. -/
theorem Map.get_foldl_count (key : Nat → Nat) {as : List Nat} (hn : (as.map key).Nodup) (m : Map Nat) :
    (∀ a ∈ as, Map.get 0 (as.foldl (fun c a => Map.modify 0 c (key a) (· + 1)) m) (key a) = Map.get 0 m (key a) + 1)
    ∧ ∀ k, (∀ a ∈ as, k ≠ key a) → Map.get 0 (as.foldl (fun c a => Map.modify 0 c (key a) (· + 1)) m) k = Map.get 0 m k := by
  induction as generalizing m with
  | nil => simp
  | cons a as ih =>
    obtain ⟨ha, has⟩ := List.nodup_cons.1 hn
    obtain ⟨hin, hout⟩ := ih has (Map.modify 0 m (key a) (· + 1))
    have hother : ∀ b ∈ as, key a ≠ key b := fun b hb e => ha (e ▸ List.mem_map_of_mem hb)
    refine ⟨fun b hb => ?_, fun k hk => ?_⟩
    · rcases List.mem_cons.1 hb with rfl | hb
      · exact (hout _ hother).trans (Map.get_set_listed (Nat.succ_ne_zero _) m _)
      · exact (hin b hb).trans (by rw [Map.get_modify_other (hother b hb).symm])
    · obtain ⟨hka, hkas⟩ := List.forall_mem_cons.1 hk
      exact (hout k hkas).trans (Map.get_modify_other hka _ _ _)

/-- A key within a written range reads the value written there. -/
theorem Map.get_writeFrom_in {α : Type} [DecidableEq α] {d : α} {vs : List α} {m : Map α} (h : Map.wf d m = true) {k i : Nat}
    (hi : i < vs.length) :
    Map.get d (Map.writeFrom d m k vs) (k + i) = vs[i] := by
  induction vs generalizing m k i with
  | nil => exact absurd hi (Nat.not_lt_zero i)
  | cons v vs ih =>
    cases i with
    | zero => exact (Map.get_writeFrom_other d vs _ (k + 1) k (.inl (Nat.lt_succ_self k))).trans (Map.get_set_same h k v)
    | succ i =>
      have hi' : i < vs.length := Nat.lt_of_succ_lt_succ hi
      have hk : k + (i + 1) = k + 1 + i := by omega
      rw [hk]
      exact ih (Map.wf_set h k v) hi'

/-- Where every piece has the same length, a place in their concatenation is a place in one piece. -/
theorem getElem?_flatMap_range {α : Type} {n : Nat} {f : Nat → List α} (hf : ∀ a, (f a).length = n) {k a i : Nat} (ha : a < k) (hi : i < n) :
    ((List.range k).flatMap f)[n * a + i]? = (f a)[i]? := by
  induction k with
  | zero => omega
  | succ k ih =>
    have hlen : ((List.range k).flatMap f).length = n * k := by simp [List.length_flatMap, hf, Nat.mul_comm]
    rw [List.range_succ, List.flatMap_append, List.flatMap_singleton]
    rcases Nat.lt_succ_iff_lt_or_eq.1 ha with ha | rfl
    · have : n * a + i < n * k := by nlinarith
      rw [List.getElem?_append_left (hlen ▸ this), ih ha]
    · rw [List.getElem?_append_right (by omega), hlen, Nat.add_sub_cancel_left]

namespace Machine

/-! ### Records -/

theorem leNat_leBytes (n v : Nat) : leNat (leBytes n v) = v % 256 ^ n := by
  induction n generalizing v with
  | zero => simp [leBytes, leNat, Nat.mod_one]
  | succ n ih =>
    have hb : (BitVec.ofNat 8 v).toNat = v % 256 := BitVec.toNat_ofNat v 8
    rw [leBytes, leNat, ih, hb, pow_succ', Nat.mod_mul]

theorem leBytes_length (n v : Nat) : (leBytes n v).length = n := by
  induction n generalizing v with
  | zero => rfl
  | succ n ih => simp [leBytes, ih]

theorem leBytes_getElem? {n i : Nat} (h : i < n) (v : Nat) : (leBytes n v)[i]? = some (BitVec.ofNat 8 (v / 256 ^ i)) := by
  induction n generalizing v i with
  | zero => omega
  | succ n ih =>
    cases i with
    | zero => simp [leBytes]
    | succ i => simp [leBytes, ih (Nat.lt_of_succ_lt_succ h), pow_succ', Nat.div_div_eq_div_mul]

/-- The four registers of a block hold 256 bits. -/
theorem Tile.block_lt (T : Tile) (n : Nat) : T.block n < 2 ^ 256 := by
  have h0 := (T.getX n).isLt
  have h1 := (T.getX (n + 1)).isLt
  have h2 := (T.getX (n + 2)).isLt
  have h3 := (T.getX (n + 3)).isLt
  unfold Tile.block
  omega

/-- A queued record reads as the block it was issued with. -/
theorem leNat_record (T : Tile) (n : Nat) : leNat (leBytes 32 (T.block n)) = T.block n := by
  rw [leNat_leBytes, Nat.mod_eq_of_lt]
  exact (T.block_lt n).trans_le (by norm_num)

theorem bits_eq_one_iff (v i : Nat) : (bits v i 1 == 1) = v.testBit i := by
  simp [bits, Nat.testBit_eq_decide_div_mod_eq, beq_eq_decide]

theorem nodup_maskArrs (mask : Nat) : (maskArrs mask).Nodup := List.nodup_range.filter _
theorem lt_of_mem_maskArrs {mask a : Nat} (h : a ∈ maskArrs mask) : a < 64 := List.mem_range.1 (List.mem_filter.1 h).1

theorem ACmd.names_mask {c : ACmd} {op : Nat} (h : c.op = op) (hop : op = 1 ∨ (3 ≤ op ∧ op ≤ 6)) : c.names = maskArrs c.mask := by
  rw [ACmd.names, h, if_pos hop]

/-! ### Arrays -/

/-- `T'` is `T` but for its arrays, which are in canonical form: array `k` is what `f k` makes of it. -/
structure Tile.ArrsBecome (T : Tile) (f : Nat → Arr → Arr) (T' : Tile) : Prop where
  same : T' = { T with arrs := T'.arrs }
  wf : Map.wf {} T'.arrs
  arr : ∀ k, T'.arr k = f k (T.arr k)

theorem Tile.ArrsBecome.refl {T : Tile} (h : Map.wf {} T.arrs) : T.ArrsBecome (fun _ A => A) T := ⟨rfl, h, fun _ => rfl⟩

theorem Tile.ArrsBecome.trans {T T' T'' : Tile} {f g : Nat → Arr → Arr} (h : T.ArrsBecome f T') (h' : T'.ArrsBecome g T'') :
    T.ArrsBecome (fun k A => g k (f k A)) T'' :=
  ⟨by rw [h'.same, h.same], h'.wf, fun k => by rw [h'.arr, h.arr]⟩

theorem Tile.ArrsBecome.congr {T T' : Tile} {f g : Nat → Arr → Arr} (h : T.ArrsBecome f T') (hfg : ∀ k, f k (T.arr k) = g k (T.arr k)) :
    T.ArrsBecome g T' := ⟨h.same, h.wf, fun k => (h.arr k).trans (hfg k)⟩

theorem Tile.arrsBecome_modArr {T : Tile} (h : Map.wf {} T.arrs) (a : Nat) (f : Arr → Arr) :
    T.ArrsBecome (fun k A => if k = a then f A else A) (T.modArr a f) := by
  refine ⟨rfl, Map.wf_modify h a f, fun k => ?_⟩
  by_cases hk : k = a
  · rw [if_pos hk, hk]; exact Map.get_modify_same h a f
  · rw [if_neg hk]; exact Map.get_modify_other hk _ _ f

/-- The same change of several arrays, each once. -/
theorem Tile.arrsBecome_foldl (f : Nat → Arr → Arr) {as : List Nat} (hn : as.Nodup) {T : Tile} (h : Map.wf {} T.arrs) :
    T.ArrsBecome (fun k A => if k ∈ as then f k A else A) (as.foldl (fun T a => T.modArr a (f a)) T) := by
  induction as generalizing T with
  | nil => exact (Tile.ArrsBecome.refl h).congr fun k => by simp
  | cons a as ih =>
    obtain ⟨ha, has⟩ := List.nodup_cons.1 hn
    have h1 := Tile.arrsBecome_modArr h a (f a)
    refine (h1.trans (ih has h1.wf)).congr fun k => ?_
    by_cases hk : k = a
    · subst hk; simp [ha]
    · simp [hk]

/-! ### The queue with one command -/

/-- The tile with one array command in its queue. -/
def Tile.withCmd (T : Tile) (c : ACmd) : Tile := { T with aq := [c] }

section
variable {T : Tile} {c : ACmd} {x : ACtx}

theorem Tile.findCmd_alone (h : T.aq = [c]) : T.findCmd c.id = some c := by simp [Tile.findCmd, h]
theorem Tile.modCmd_alone (h : T.aq = [c]) (f : ACmd → ACmd) : T.modCmd c.id f = T.withCmd (f c) := by simp [Tile.modCmd, Tile.withCmd, h]
theorem Tile.ahead_alone (h : T.aq = [c]) : T.ahead c.id = [] := by simp [Tile.ahead, h]
theorem Tile.arrsFree_alone (h : T.aq = [c]) : T.arrsFree c = true := by simp [Tile.arrsFree, Tile.ahead_alone h]

theorem Tile.arrayKick_empty (h : T.aq = []) : T.arrayKick x = (T, []) := by
  have hp : T.promote = T := by simp [Tile.promote, h]
  simp [Tile.arrayKick, hp, h]
theorem Tile.arrayKick_alone (h : T.aq = [c]) (hs : c.stage = .queued) : T.arrayKick x = T.kickOne x c.id := by
  have hp : T.promote = T := by simp [Tile.promote, h, hs]
  simp [Tile.arrayKick, hp, h]

/-! ### What R50 lets the only command do -/

section
variable (h : T.aq = [c]) (hs : c.stage = .queued)
include h hs

theorem Tile.kickOne_badFields (hb : badFields c.rec_ = true) : T.kickOne x c.id = (T.withCmd (c.endWith stBadCmd), []) := by
  by_cases h1 : c.op = 1
  · simp [Tile.kickOne, Tile.findCmd_alone h, Tile.modCmd_alone h, Tile.ahead_alone h, hs, h1, Tile.inStage, h, Tile.passGate, hb]
  · simp [Tile.kickOne, Tile.findCmd_alone h, Tile.modCmd_alone h, hs, h1, hb]

theorem Tile.kickOne_pass (h1 : c.op = 1) (hg : (T.asOf c.id).passGate c = .ok) :
    T.kickOne x c.id = (T.withCmd { c with stage := .load }, []) := by
  simp [Tile.kickOne, Tile.findCmd_alone h, Tile.modCmd_alone h, Tile.ahead_alone h, hs, h1, Tile.inStage, h, hg]

theorem Tile.kickOne_refused (h1 : c.op ≠ 1) (hb : badFields c.rec_ = false) (hok : T.stateOk (x.part.flagR Reg.ARR_CFG_AUTO_WAKE) c = false) :
    T.kickOne x c.id = (T.withCmd (c.endWith stState), []) := by
  simp [Tile.kickOne, Tile.findCmd_alone h, Tile.modCmd_alone h, Tile.ahead_alone h, Tile.arrsFree_alone h, hs, h1, hb, hok]

theorem Tile.kickOne_begins (h1 : c.op ≠ 1) (hb : badFields c.rec_ = false) (hok : T.stateOk (x.part.flagR Reg.ARR_CFG_AUTO_WAKE) c = true)
    (hsus : c.op = 2 → (T.arr (blk c.rec_ 4 1)).suspect = false) (hg : (T.asOf c.id).cmdGate c = .ok) :
    T.kickOne x c.id = (T.withCmd { c with stage := .running }).begin_ c := by
  have hns : ¬(c.op = 2 ∧ (T.arr (blk c.rec_ 4 1)).suspect = true) := fun e => by simp [hsus e.1] at e
  simp [Tile.kickOne, Tile.findCmd_alone h, Tile.modCmd_alone h, Tile.ahead_alone h, Tile.arrsFree_alone h, hs, h1, hb, hok, hg, hns]
end

/-! ### Issue to an empty queue -/

/-- The command that the block in registers n to n + 3 issues to an empty queue. -/
def Tile.issuedCmd (T : Tile) (n : Nat) : ACmd := { id := T.nextId, by_ := .core T.pc, record := leBytes 32 (T.block n) }
/-- The tile that has issued it (R175, R179). -/
def Tile.issuedTile (T : Tile) (n : Nat) : Tile :=
  { T with
    pc := T.pc + 4, nextId := T.nextId + 1, aq := [T.issuedCmd n]
    sb := T.sb ++ (cmdRanges (T.block n)).map fun r : LineRange => ⟨r.1, r.2.1, r.2.2, T.nextId⟩ }

theorem Tile.issuedCmd_rec (T : Tile) (n : Nat) : (T.issuedCmd n).rec_ = T.block n := leNat_record T n

/-- A command block whose core issues, and whose OP is the row's, acts as its body says (R175). -/
theorem blockIssue_runs {m : Mach} {t : TileId} {n : RegNo} {op : Nat} (hi : m.issuesBlock t n op) {q : Nat → Bool} (hq : q op = true)
    (major : Nat) (body : Tile → Nat → TRes) :
    blockIssue major t n q body (m.tile t.val) = body (m.tile t.val) ((m.tile t.val).block n.val) := by
  obtain ⟨hrun, h4, hn, hop⟩ := hi
  have hlt := n.isLt
  have hblk : blk ((m.tile t.val).block n.val) 0 1 = op := by simpa [blk, bits] using hop
  have hreg : blockReg n.val = true := by simp [blockReg, h4, hn]; omega
  refine (Tile.issue_runs hrun _ (fun r hr => ?_) _).trans (by simp [hreg, hblk, hq])
  have hr4 : n.val ≤ r ∧ r < n.val + 4 := by simp at hr; omega
  exact ⟨⟨r, by omega⟩, List.mem_filter.2 ⟨List.mem_finRange _, by simpa using hr4⟩, rfl⟩

theorem Tile.blockGate_passes {T : Tile} {compat stall : Bool} {done : Nat}
    (hf : done < 256 → compat = true ∨ T.allocated done = true) (hs : stall = false) :
    T.blockGate compat done none none .ok stall = none := by
  have hflag : ¬(done < 256 ∧ (!T.flagOk compat done) = true) := fun e => by
    have := hf e.1
    simp_all [Tile.flagOk]
  simp only [Tile.blockGate, if_neg hflag, hs, Bool.false_eq_true, if_false]

theorem Tile.enqueueCmd_issued {T : Tile} (h : T.aq = []) (n : Nat) :
    ((T.sbEnter T.nextId (cmdRanges (T.block n))).enqueueCmd (.core T.pc) (T.block n)).advance = T.issuedTile n := by
  have htag : (T.sbEnter T.nextId (cmdRanges (T.block n))).freeTag = 0 := by
    show T.freeTag = 0
    rw [Tile.freeTag, h]
    rfl
  have hnew : (T.sbEnter T.nextId (cmdRanges (T.block n))).aq = [] := h
  rw [Tile.enqueueCmd, htag, hnew]
  rfl

section
variable {s : State} {t : TileId} {n : RegNo} {op : Nat} (hi : s.m.issuesBlock t n op) {q : Nat → Bool} (hq : q op = true)
  (hf : blk ((s.m.tile t.val).block n.val) 2 2 < 256 → (s.m.ownerPart t.val).compat = true
    ∨ (s.m.tile t.val).allocated (blk ((s.m.tile t.val).block n.val) 2 2) = true)
  (haq : (s.m.tile t.val).aq = []) (hsb : (s.m.tile t.val).sbStall (cmdRanges ((s.m.tile t.val).block n.val)) = false)
include hi hq hf haq hsb

/-- An array command that nothing keeps back is queued with its record, and the controller does with it what R50 lets it do. -/
theorem acmdIssue_alone {T' : Tile} {ss : List Sig}
    (hk : ((s.m.tile t.val).issuedTile n.val).kickOne ⟨s.m, t.val⟩ (s.m.tile t.val).nextId = (T', ss)) :
    acmdIssue t n q s = .next { s with m := (s.m.setTile t.val T').sigs t.val ss } := by
  have hstall : (decide (8 ≤ (s.m.tile t.val).aq.length) || (s.m.tile t.val).sbStall (cmdRanges ((s.m.tile t.val).block n.val))) = false := by
    simp [haq, hsb]
  have hkick : ((s.m.tile t.val).issuedTile n.val).arrayKick ⟨s.m, t.val⟩ = (T', ss) := (Tile.arrayKick_alone rfl rfl).trans hk
  simp only [acmdIssue, lift_next, Mach.act_eq, blockIssue_runs hi hq, Tile.blockGate_passes hf hstall, Tile.enqueueCmd_issued haq, hkick]

theorem acmdIssue_alone_quiet {T' : Tile}
    (hk : ((s.m.tile t.val).issuedTile n.val).kickOne ⟨s.m, t.val⟩ (s.m.tile t.val).nextId = (T', [])) :
    acmdIssue t n q s = .next (s.withTile t T') := acmdIssue_alone hi hq hf haq hsb hk
end
end
end Machine
end Sys2Proof
end


section
/-! O15: the issue of an array command to an empty queue (R50 to R75). -/
namespace Sys2Proof.Machine

/-- The arrays of a tile have wear keys of their own. -/
theorem Mach.nodup_wearKey (m : Mach) (t mask : Nat) : ((maskArrs mask).map (m.wearKey t)).Nodup := by
  refine (nodup_maskArrs mask).map_on fun a ha b hb e => ?_
  have := lt_of_mem_maskArrs ha
  have := lt_of_mem_maskArrs hb
  simp only [Mach.wearKey] at e
  omega

/-- The checks of an address look at the banks alone. -/
theorem Tile.gate_congr {T T' : Tile} (h : T.banks = T'.banks) (allow : PortClass → Bool) (align addr n : Nat) :
    T.gate allow align addr n = T'.gate allow align addr n := by
  have hbank : ∀ b, T.bank b = T'.bank b := fun b => by rw [Tile.bank, Tile.bank, h]
  have hbad : ∀ addr bad bs, T.firstBad addr bad bs = T'.firstBad addr bad bs := fun addr bad bs => by
    induction bs with
    | nil => rfl
    | cons b bs ih => rw [Tile.firstBad, Tile.firstBad, hbank, ih]
  simp only [Tile.gate, Tile.check, hbad, hbank]

/-! ### The checks of R59 to R75 -/

theorem foldl_gate_ok {f : Nat → Gate} {js : List Nat} (h : ∀ j ∈ js, f j = .ok) :
    js.foldl (fun g j => Gate.and g (f j)) Gate.ok = Gate.ok := by
  induction js with
  | nil => rfl
  | cons j js ih =>
    obtain ⟨hj, hjs⟩ := List.forall_mem_cons.1 h
    rw [List.foldl_cons, hj]
    exact ih hjs

theorem foldl_max_div_lt {n i : Nat} {as : List Nat} (hi : i / 8 < n) (h : ∀ a ∈ as, a / 8 < n) : as.foldl Nat.max i / 8 < n := by
  induction as generalizing i with
  | nil => exact hi
  | cons a as ih =>
    obtain ⟨ha, has⟩ := List.forall_mem_cons.1 h
    have hmax : max i a / 8 < n := by rcases max_choice i a with e | e <;> rw [e] <;> assumption
    exact ih hmax has

section
variable {T : Tile} {c : ACmd}

theorem Tile.passGate_ok (h1 : c.op = 1) (hb : badFields c.rec_ = false) (hseg : ∀ a ∈ c.names, a / 8 < blk c.rec_ 24 1)
    (hin : T.gate arrayAllow 64 (blk c.rec_ 12 4) (512 * blk c.rec_ 24 1) = .ok)
    (hout : ∀ j ∈ passBlocks c.rec_, T.gate arrayAllow 64
          (blk c.rec_ 16 4 + j * blockBytes ((c.names.head?.map fun a => (T.arr a).w8).getD false) (c.flag 4))
          (blockBytes ((c.names.head?.map fun a => (T.arr a).w8).getD false) (c.flag 4)) = .ok
        ∧ (blk c.rec_ 20 4 = 0xFFFFFFFF ∨ T.gate arrayAllow 64 (blk c.rec_ 20 4 + 64 * j) 64 = .ok)) :
    T.passGate c = .ok := by
  have hpos : 1 ≤ blk c.rec_ 24 1 := by
    have h1' : blk c.rec_ 0 1 = 1 := h1
    simp only [badFields, h1', Bool.or_eq_false_iff, Bool.not_eq_false', Bool.and_eq_true, decide_eq_true_eq] at hb
    obtain ⟨-, ⟨⟨⟨-, hlen, -⟩, -⟩, -⟩, -⟩ := hb
    exact hlen
  have hmax : ¬blk c.rec_ 24 1 ≤ c.names.foldl Nat.max 0 / 8 := Nat.not_le.2 (foldl_max_div_lt hpos hseg)
  simp only [Tile.passGate, hb, if_neg hmax, hin]
  refine foldl_gate_ok fun j hj => ?_
  obtain ⟨hblock, hmask⟩ := hout j hj
  rw [hblock]
  rcases hmask with hmask | hmask <;> simp [hmask, Gate.and]

theorem Tile.cmdGate_read (h : c.op = 2) (hout : T.gate readAllow 64 (blk c.rec_ 12 4) (256 * blk c.rec_ 8 2) = .ok)
    (hchk : c.flag 0 = true → T.gate arrayAllow 4 (blk c.rec_ 16 4) (4 * blk c.rec_ 8 2) = .ok) : T.cmdGate c = .ok := by
  cases hf : c.flag 0 <;> simp [Tile.cmdGate, h, hout, hf, hchk, Gate.and]
theorem Tile.cmdGate_stateOnly (h : c.op = 4 ∨ c.op = 5 ∨ c.op = 6) : T.cmdGate c = .ok := by
  rcases h with h | h | h <;> simp [Tile.cmdGate, h]
theorem Tile.cmdGate_status (h : c.op = 7) : T.cmdGate c = T.gate arrayAllow 4 (blk c.rec_ 16 4) 256 := by simp [Tile.cmdGate, h]
theorem Tile.cmdGate_prog (h : c.op = 3)
    (hin : T.gate progAllow 64 (blk c.rec_ 12 4) (256 * c.names.length * blk c.rec_ 16 2) = .ok)
    (hrep : blk c.rec_ 24 4 = 0xFFFFFFFF ∨ T.gate arrayAllow 8 (blk c.rec_ 24 4) (8 * blk c.rec_ 20 2) = .ok) : T.cmdGate c = .ok := by
  rcases hrep with hrep | hrep <;> simp [Tile.cmdGate, h, hin, hrep, Gate.and]

theorem Tile.stateOk_read (h : c.op = 2) (auto : Bool) (hp : (T.arr (blk c.rec_ 4 1)).power = .active)
    (hc : (T.arr (blk c.rec_ 4 1)).content = .valid ∨ (T.arr (blk c.rec_ 4 1)).content = .patched
      ∨ (T.arr (blk c.rec_ 4 1)).content = .empty) : T.stateOk auto c = true := by
  rcases hc with hc | hc | hc <;> simp [Tile.stateOk, Tile.accepts, ACmd.names, h, hp, hc]
theorem Tile.stateOk_prog (h : c.op = 3) (auto : Bool) (ha : ∀ a ∈ c.names, (T.arr a).content = .empty ∧ (T.arr a).power = .active) :
    T.stateOk auto c = true := by
  simp only [Tile.stateOk, h, Tile.accepts, List.all_eq_true]
  intro a hmem
  simp [ha a hmem]
theorem Tile.stateOk_refresh (h : c.op = 4) (auto : Bool) : T.stateOk auto c = true ↔
    ∀ a ∈ c.names, (T.arr a).power ≠ .off ∧ ((T.arr a).content = .valid ∨ (T.arr a).content = .patched) := by
  simp [Tile.stateOk, h]
theorem Tile.stateOk_erase (h : c.op = 5) (auto : Bool) : T.stateOk auto c = true ↔
    ∀ a ∈ c.names, (T.arr a).power ≠ .off ∧ (T.arr a).content ≠ .loading := by
  simp [Tile.stateOk, h]
theorem Tile.stateOk_power (h : c.op = 6) (auto : Bool) : T.stateOk auto c = true ↔
    (blk c.rec_ 1 1 = 0 → ∀ a ∈ c.names, (T.arr a).power = .off ∨ (T.arr a).content = .empty ∨ (T.arr a).content = .unknown) := by
  simp [Tile.stateOk, h, or_assoc, Decidable.imp_iff_not_or]
end

/-! ### The command begins -/

section
variable {T : Tile} {c : ACmd}

theorem Tile.begin_quiet (h2 : c.op ≠ 2) (h3 : c.op ≠ 3) : T.begin_ c = (T, []) := by simp [Tile.begin_, h2, h3]

/-- An array that AUTO_WAKE has made ACTIVE. -/
def Arr.woken (A : Arr) : Arr := { A with power := .active }
theorem Arr.woken_of_active {A : Arr} (h : A.power = .active) : A.woken = A := by rw [Arr.woken, ← h]

theorem Tile.arrsBecome_wakeArrs (h : Map.wf {} T.arrs) {as : List Nat} (hn : as.Nodup) :
    T.ArrsBecome (fun k A => if k ∈ as then A.woken else A) (T.wakeArrs as) := Tile.arrsBecome_foldl (fun _ => Arr.woken) hn h

theorem Tile.begin_read (h : c.op = 2) : T.begin_ c = (T.wakeArrs c.names, []) := by simp [Tile.begin_, h]
theorem Tile.begin_prog (h : c.op = 3) : T.begin_ c =
    (c.names.foldl (fun T a => T.modArr a fun A => A.startProg (c.flag 1)) (T.wakeArrs c.names), [.cycles c.names]) := by
  simp [Tile.begin_, h]

/-- A PROG wakes its arrays and puts them in LOADING (R68, R75). -/
theorem Tile.arrsBecome_begin_prog (h : c.op = 3) (hw : Map.wf {} T.arrs) (hn : c.names.Nodup) :
    T.ArrsBecome (fun k A => if k ∈ c.names then A.woken.startProg (c.flag 1) else A) (T.begin_ c).1 := by
  rw [Tile.begin_prog h]
  have hwake := Tile.arrsBecome_wakeArrs hw hn
  refine (hwake.trans (Tile.arrsBecome_foldl (fun _ A => A.startProg (c.flag 1)) hn hwake.wf)).congr fun k => ?_
  by_cases hk : k ∈ c.names <;> simp [hk]
end

/-! ### An issued command -/

section
variable (T : Tile) (n : Nat)

theorem Tile.gate_issued (allow : PortClass → Bool) (align addr k : Nat) :
    ((T.issuedTile n).asOf T.nextId).gate allow align addr k = (T.asOf T.nextId).gate allow align addr k :=
  Tile.gate_congr (T := (T.issuedTile n).asOf T.nextId) (T' := T.asOf T.nextId) rfl _ _ _ _
theorem Tile.issuedCmd_op : (T.issuedCmd n).op = blk (T.block n) 0 1 := by rw [ACmd.op, Tile.issuedCmd_rec]
theorem Tile.issuedCmd_flag (i : Nat) : (T.issuedCmd n).flag i = (T.block n).testBit (8 + i) := by
  rw [ACmd.flag, Tile.issuedCmd_rec, bits_eq_one_iff]
theorem Tile.issuedCmd_names_mask {op : Nat} (h : (T.issuedCmd n).op = op) (hop : op = 1 ∨ (3 ≤ op ∧ op ≤ 6)) :
    (T.issuedCmd n).names = maskArrs (blk (T.block n) 4 8) := by
  rw [ACmd.names_mask h hop, ACmd.mask, Tile.issuedCmd_rec]
theorem Tile.issuedCmd_names_read (h : (T.issuedCmd n).op = 2) : (T.issuedCmd n).names = [blk (T.block n) 4 1] := by
  simp [ACmd.names, h, Tile.issuedCmd_rec]
end

section
variable {T : Tile} {n : Nat} {x : ACtx}

theorem Tile.kick_issued_badFields (hb : badFields (T.block n) = true) :
    (T.issuedTile n).kickOne x T.nextId = ((T.issuedTile n).withCmd ((T.issuedCmd n).endWith stBadCmd), []) :=
  Tile.kickOne_badFields rfl rfl ((congrArg badFields (T.issuedCmd_rec n)).trans hb)

section
variable (hb : badFields (T.block n) = false)
include hb

theorem Tile.kick_issued_pass (h1 : (T.issuedCmd n).op = 1) (hseg : ∀ a ∈ maskArrs (blk (T.block n) 4 8), a / 8 < blk (T.block n) 24 1)
    (hin : (T.asOf T.nextId).gate arrayAllow 64 (blk (T.block n) 12 4) (512 * blk (T.block n) 24 1) = .ok)
    (hout : ∀ j ∈ passBlocks (T.block n), (T.asOf T.nextId).gate arrayAllow 64 (blk (T.block n) 16 4
            + j * blockBytes (((maskArrs (blk (T.block n) 4 8)).head?.map fun a => (T.arr a).w8).getD false) ((T.block n).testBit 12))
          (blockBytes (((maskArrs (blk (T.block n) 4 8)).head?.map fun a => (T.arr a).w8).getD false) ((T.block n).testBit 12)) = .ok
        ∧ (blk (T.block n) 20 4 = 0xFFFFFFFF ∨ (T.asOf T.nextId).gate arrayAllow 64 (blk (T.block n) 20 4 + 64 * j) 64 = .ok)) :
    (T.issuedTile n).kickOne x T.nextId = ((T.issuedTile n).withCmd { T.issuedCmd n with stage := .load }, []) := by
  refine Tile.kickOne_pass rfl rfl h1 (Tile.passGate_ok h1 ?_ ?_ ?_ ?_) <;> rw [T.issuedCmd_rec]
  · exact hb
  · rw [T.issuedCmd_names_mask n h1 (.inl rfl)]; exact hseg
  · exact (T.gate_issued n _ _ _ _).trans hin
  · rw [T.issuedCmd_names_mask n h1 (.inl rfl), T.issuedCmd_flag]
    intro j hj
    obtain ⟨hblock, hmask⟩ := hout j hj
    exact ⟨(T.gate_issued n _ _ _ _).trans hblock, hmask.imp_right (T.gate_issued n _ _ _ _).trans⟩

/-- A command that is no PASS, READ or PROG runs where its arrays' state allows it, and else ends with STATE. -/
theorem Tile.kick_issued_runs (h1 : (T.issuedCmd n).op ≠ 1) (h2 : (T.issuedCmd n).op ≠ 2) (h3 : (T.issuedCmd n).op ≠ 3)
    (hg : ((T.issuedTile n).asOf T.nextId).cmdGate (T.issuedCmd n) = .ok)
    (hok : (T.issuedTile n).stateOk (x.part.flagR Reg.ARR_CFG_AUTO_WAKE) (T.issuedCmd n) = true) :
    (T.issuedTile n).kickOne x T.nextId = ((T.issuedTile n).withCmd { T.issuedCmd n with stage := .running }, []) := by
  refine (Tile.kickOne_begins rfl rfl h1 ?_ hok (fun e => absurd e h2) hg).trans (Tile.begin_quiet h2 h3)
  rw [T.issuedCmd_rec]; exact hb
theorem Tile.kick_issued_refused (h1 : (T.issuedCmd n).op ≠ 1)
    (hok : (T.issuedTile n).stateOk (x.part.flagR Reg.ARR_CFG_AUTO_WAKE) (T.issuedCmd n) ≠ true) :
    (T.issuedTile n).kickOne x T.nextId = ((T.issuedTile n).withCmd ((T.issuedCmd n).endWith stState), []) := by
  refine Tile.kickOne_refused rfl rfl h1 ?_ (Bool.eq_false_iff.2 hok)
  rw [T.issuedCmd_rec]; exact hb

theorem Tile.kick_issued_read (h2 : (T.issuedCmd n).op = 2) (hw : Map.wf {} T.arrs)
    (hsus : (T.arr (blk (T.block n) 4 1)).suspect = false) (hact : (T.arr (blk (T.block n) 4 1)).power = .active)
    (hcont : (T.arr (blk (T.block n) 4 1)).content = .valid ∨ (T.arr (blk (T.block n) 4 1)).content = .patched
      ∨ (T.arr (blk (T.block n) 4 1)).content = .empty)
    (hout : (T.asOf T.nextId).gate readAllow 64 (blk (T.block n) 12 4) (256 * blk (T.block n) 8 2) = .ok)
    (hchk : (T.block n).testBit 8 = true → (T.asOf T.nextId).gate arrayAllow 4 (blk (T.block n) 16 4) (4 * blk (T.block n) 8 2) = .ok) :
    ∃ arrs', (T.issuedTile n).kickOne x T.nextId
        = ({ (T.issuedTile n).withCmd { T.issuedCmd n with stage := .running } with arrs := arrs' }, [])
      ∧ ∀ k, Map.get {} arrs' k = T.arr k := by
  have hbegin := Tile.arrsBecome_wakeArrs (T := (T.issuedTile n).withCmd { T.issuedCmd n with stage := .running })
    hw (List.nodup_singleton (blk (T.block n) 4 1))
  refine ⟨_, ((Tile.kickOne_begins rfl rfl (by rw [h2]; decide) ?_ (Tile.stateOk_read h2 _ ?_ ?_) (fun _ => ?_)
    (Tile.cmdGate_read h2 ?_ ?_)).trans (Tile.begin_read h2)).trans ?_, fun k => (hbegin.arr k).trans ?_⟩
  case refine_7 => rw [T.issuedCmd_names_read n h2, ← hbegin.same]
  case refine_8 =>
    show (if k ∈ [blk (T.block n) 4 1] then (T.arr k).woken else T.arr k) = T.arr k
    split
    case isTrue hk => exact Arr.woken_of_active (List.mem_singleton.1 hk ▸ hact)
    case isFalse => rfl
  all_goals rw [T.issuedCmd_rec]
  · exact hb
  · exact hact
  · exact hcont
  · exact hsus
  · exact (T.gate_issued n _ _ _ _).trans hout
  · rw [T.issuedCmd_flag]; exact fun h => (T.gate_issued n _ _ _ _).trans (hchk h)

theorem Tile.kick_issued_prog (h3 : (T.issuedCmd n).op = 3) (hw : Map.wf {} T.arrs)
    (hst : ∀ a ∈ maskArrs (blk (T.block n) 4 8), (T.arr a).content = .empty ∧ (T.arr a).power = .active)
    (hin : (T.asOf T.nextId).gate progAllow 64 (blk (T.block n) 12 4)
      (256 * (maskArrs (blk (T.block n) 4 8)).length * blk (T.block n) 16 2) = .ok)
    (hrep : blk (T.block n) 24 4 = 0xFFFFFFFF ∨ (T.asOf T.nextId).gate arrayAllow 8 (blk (T.block n) 24 4) (8 * blk (T.block n) 20 2) = .ok) :
    ∃ arrs', (T.issuedTile n).kickOne x T.nextId
        = ({ (T.issuedTile n).withCmd { T.issuedCmd n with stage := .running } with arrs := arrs' }, [.cycles (maskArrs (blk (T.block n) 4 8))])
      ∧ ∀ k, Map.get {} arrs' k
        = if k ∈ maskArrs (blk (T.block n) 4 8) then (T.arr k).startProg ((T.block n).testBit 9) else T.arr k := by
  have hnames := T.issuedCmd_names_mask n h3 (by decide)
  have hbegin := Tile.arrsBecome_begin_prog (T := (T.issuedTile n).withCmd { T.issuedCmd n with stage := .running }) h3 hw
    (hnames ▸ nodup_maskArrs _)
  refine ⟨_, (Tile.kickOne_begins rfl rfl (by rw [h3]; decide) ?_ (Tile.stateOk_prog h3 _ ?_) (fun e => by rw [h3] at e; cases e)
    (Tile.cmdGate_prog h3 ?_ ?_)).trans ?_, fun k => (hbegin.arr k).trans ?_⟩
  case refine_5 => rw [← hnames, ← hbegin.same, Tile.begin_prog h3]
  case refine_6 =>
    rw [hnames, T.issuedCmd_flag]
    show (if k ∈ maskArrs (blk (T.block n) 4 8) then (T.arr k).woken.startProg _ else T.arr k) = _
    split
    case isTrue hk => rw [Arr.woken_of_active (hst k hk).2]
    case isFalse => rfl
  case refine_2 => rw [hnames]; exact hst
  all_goals rw [T.issuedCmd_rec]
  · exact hb
  · rw [hnames]; exact (T.gate_issued n _ _ _ _).trans hin
  · exact hrep.imp_right (T.gate_issued n _ _ _ _).trans
end
end

theorem badFields_of_noOp {b : Nat} (h : blk b 0 1 = 0 ∨ 8 ≤ blk b 0 1) : badFields b = true := by
  unfold badFields
  simp only []
  split <;> first | omega | simp

/-- Settles O15: the block is queued alone, so what the controller does with it is `kickOne` on a queue of one, branch by branch. -/
theorem arrayIssue : Obligations.ArrayIssue := by
  unfold Obligations.ArrayIssue
  intro s t n op hi T b fld arrs B base cmd goes runsIf hf haq hsb
  have hblk : blk b 0 1 = op := by
    obtain ⟨-, -, -, hop⟩ := hi
    simpa [blk, bits] using hop
  have hop : (T.issuedCmd n.val).op = op := (T.issuedCmd_op n.val).trans hblk
  have hgoes : ∀ {q : Nat → Bool} {T' : Tile}, q op = true → (T.issuedTile n.val).kickOne ⟨s.m, t.val⟩ T.nextId = (T', []) →
      acmdIssue t n q s = .next (s.withTile t T') := fun hq hk => acmdIssue_alone_quiet hi hq hf haq hsb hk
  refine ⟨?_, fun h => badFields_of_noOp (hblk.symm ▸ h), ?_⟩
  · intro hbad c hc
    have hk := Tile.kick_issued_badFields (x := ⟨s.m, t.val⟩) hbad
    rcases hc with ⟨rfl, rfl⟩ | ⟨rfl, rfl⟩ | ⟨rfl, rfl⟩ | ⟨rfl, rfl⟩ | ⟨rfl, rfl⟩ | ⟨rfl, rfl⟩ | ⟨rfl, rfl⟩ | ⟨h, rfl⟩
    case inr.inr.inr.inr.inr.inr.inr => exact hgoes (q := fun op => op == 0 || decide (8 ≤ op)) (by simpa using h) hk
    all_goals exact hgoes rfl hk
  intro hb
  have hmask : op = 1 ∨ (3 ≤ op ∧ op ≤ 6) → (T.issuedCmd n.val).names = arrs := T.issuedCmd_names_mask n.val hop
  have hruns : ∀ {q : Nat → Bool} {ok : Prop}, q op = true → op ≠ 1 → op ≠ 2 → op ≠ 3 →
      ((T.issuedTile n.val).asOf T.nextId).cmdGate (T.issuedCmd n.val) = .ok →
      ((T.issuedTile n.val).stateOk ((s.m.ownerPart t.val).flagR Reg.ARR_CFG_AUTO_WAKE) (T.issuedCmd n.val) = true ↔ ok) →
      (ok → acmdIssue t n q s = .next (s.withTile t ((T.issuedTile n.val).withCmd { T.issuedCmd n.val with stage := .running })))
        ∧ (¬ok → acmdIssue t n q s = .next (s.withTile t ((T.issuedTile n.val).withCmd ((T.issuedCmd n.val).endWith stState)))) :=
    fun hq h1 h2 h3 hg hok => ⟨fun h => hgoes hq (Tile.kick_issued_runs hb (hop ▸ h1) (hop ▸ h2) (hop ▸ h3) hg (hok.2 h)),
      fun h => hgoes hq (Tile.kick_issued_refused hb (hop ▸ h1) (mt hok.1 h))⟩
  refine ⟨?pass, ?refresh, ?erase, ?power, ?status, ?read, ?prog⟩
  case pass =>
    rintro rfl hseg hin hout
    exact hgoes (q := (· == 1)) rfl (Tile.kick_issued_pass hb hop hseg hin hout)
  case refresh =>
    rintro rfl
    refine hruns (q := (· == 4)) rfl (by decide) (by decide) (by decide) (Tile.cmdGate_stateOnly (.inl hop))
      ((Tile.stateOk_refresh hop _).trans ?_)
    rw [hmask (by decide)]; rfl
  case erase =>
    rintro rfl
    refine hruns (q := (· == 5)) rfl (by decide) (by decide) (by decide) (Tile.cmdGate_stateOnly (.inr (.inl hop)))
      ((Tile.stateOk_erase hop _).trans ?_)
    rw [hmask (by decide)]; rfl
  case power =>
    rintro rfl
    refine hruns (q := (· == 6)) rfl (by decide) (by decide) (by decide) (Tile.cmdGate_stateOnly (.inr (.inr hop)))
      ((Tile.stateOk_power hop _).trans ?_)
    rw [hmask (by decide), T.issuedCmd_rec]; rfl
  case status =>
    rintro rfl hg
    refine (hruns (q := (· == 7)) (ok := True) rfl (by decide) (by decide) (by decide) ?_ (by simp [Tile.stateOk, hop])).1 trivial
    rw [Tile.cmdGate_status hop, T.issuedCmd_rec]
    exact (T.gate_issued n.val _ _ _ _).trans hg
  case read =>
    rintro hw rfl hsus hact hcont hout hchk
    obtain ⟨arrs', hk, harrs⟩ := Tile.kick_issued_read (x := ⟨s.m, t.val⟩) hb hop hw hsus hact hcont hout hchk
    exact ⟨arrs', hgoes (q := (· == 2)) rfl hk, harrs⟩
  case prog =>
    rintro hw rfl hst hin hrep
    obtain ⟨arrs', hk, harrs⟩ := Tile.kick_issued_prog (x := ⟨s.m, t.val⟩) hb hop hw hst hin hrep
    obtain ⟨hcounted, hothers⟩ := Map.get_foldl_count (s.m.wearKey t.val) (s.m.nodup_wearKey t.val (fld 4 8)) s.m.wear.cycles
    exact ⟨arrs', _, acmdIssue_alone hi (q := (· == 3)) rfl hf haq hsb hk, harrs, hcounted, hothers⟩
end Sys2Proof.Machine
end


section
/-! ARRAY_CMD_COMPLETE on the only command of a tile's queue: its report (R52, R53), and what a step of the tile leaves to the services
of its partition (R354, R369). -/
namespace Sys2Proof.Machine

/-! ### The report -/

section
variable {T : Tile} {c : ACmd} {x : ACtx} {phys : ArrPhys} {pc : Nat}

theorem Tile.raise_first (hexc : T.excCause = none) (k : Cause) (info : W64) :
    T.raise k pc info = ({ T with run := T.run.except, excCause := some k, excPc := pc, excInfo := info }, [.exc k none]) := by
  simp [Tile.raise, Tile.recordExc, hexc]

theorem Tile.reported_eq (h : T.aq = [c]) (st : Nat) :
    (Tile.sbRetire { T with aq := T.aq.filter fun e => e.id != c.id } c.id).pushCq (BitVec.ofNat 32 (completionWord c st))
      = T.reported c st := by
  have haq : (T.aq.filter fun e => e.id != c.id) = [] := by simp [h]
  by_cases hlen : T.cq.length < 16
  · have hlost : decide (16 ≤ T.cq.length) = false := by simpa using hlen
    simp [Tile.pushCq, Tile.sbRetire, Tile.reported, completionWord, haq, hlen, hlost]
  · have hlost : decide (16 ≤ T.cq.length) = true := by simpa using hlen
    simp [Tile.pushCq, Tile.sbRetire, Tile.reported, completionWord, haq, hlen, hlost]

variable (h : T.aq = [c]) (hby : c.by_ = .core pc)
include h hby

/-- A command that ends with OK. -/
theorem Tile.reportCmd_ok (hop : c.op ≠ 1) (hsat : c.sat = 0) :
    T.reportCmd c 0 = ((T.reported c 0).doneFlag c.done, []) := by
  simp [Tile.reportCmd, hby, Tile.reported_eq h, hop, hsat, statusEvt]

/-- A command that ends with a status above 1: the tile takes an ARRAY exception. -/
theorem Tile.reportCmd_fails {st : Nat} (hop : c.op ≠ 1) (hsat : c.sat = 0) (hst : 1 < st) (hexc : T.excCause = none) :
    T.reportCmd c st = ({ T.reported c st with
        run := T.run.except, excCause := some .array, excPc := pc, excInfo := BitVec.ofNat 64 (2 ^ 16 * st + 2 ^ 8 * c.qtag + c.op) },
      statusEvt st ++ (if st = stCheck then [.blame ((T.reported c st).failing c)] else []) ++ [.exc .array none]) := by
  simp [Tile.reportCmd, hby, Tile.reported_eq h, hop, hsat, Nat.not_le.2 hst, Tile.raise_first (T := T.reported c st) hexc]
  exact ⟨rfl, rfl⟩
end

/-! ### The completion -/

section
variable {T : Tile} {c : ACmd} {x : ACtx} {phys : ArrPhys}

/-- A running command whose work ends it is reported. -/
theorem Tile.completeCmd_ends {T1 : Tile} {c1 : ACmd} {ss : List Sig} {st : Nat} (h : T.aq = [c]) (hrun : c.stage = .running)
    (hwork : T.runCmd x c phys = (T1.withCmd c1, ss)) (hid : c1.id = c.id) (hst : c1.stage = .ended st)
    {T2 : Tile} {ss2 : List Sig} (hrep : (T1.withCmd c1).reportCmd c1 st = (T2, ss2)) (haq : T2.aq = []) :
    T.completeCmd x c.id phys = (T2, ss ++ ss2) := by
  have hfind : (T1.withCmd c1).findCmd c.id = some c1 := hid ▸ Tile.findCmd_alone rfl
  simp [Tile.completeCmd, Tile.findCmd_alone h, hrun, hwork, hfind, hst, hrep, Tile.arrayKick_empty haq]
end

/-! ### The report of a command that ends well -/

/-- The flags once an operation has set the flag it names. -/
def Tile.doneFlags (T : Tile) (d : Option FlagNo) : Map Bool :=
  match d with
  | none => T.flags
  | some f => Map.set false T.flags f.val true

theorem Tile.doneFlag_eq (T : Tile) (d : Option FlagNo) : T.doneFlag d = { T with flags := T.doneFlags d } := by cases d <;> rfl

section
variable {T : Tile} {c : ACmd} {x : ACtx} {phys : ArrPhys} {pc : Nat}
variable (h : T.aq = [c]) (hby : c.by_ = .core pc) (hrun : c.stage = .running) (hop : c.op ≠ 1) (hsat : c.sat = 0)
include h hby hrun hop hsat

theorem Tile.completeCmd_ok {T1 : Tile} (hwork : T.runCmd x c phys = (T1.withCmd (c.endWith stOk), [])) :
    T.completeCmd x c.id phys = ({ T1.reported c 0 with flags := T1.doneFlags c.done }, []) := by
  have hrep : (T1.withCmd (c.endWith stOk)).reportCmd (c.endWith stOk) 0
      = ({ T1.reported c 0 with flags := T1.doneFlags c.done }, []) :=
    (Tile.reportCmd_ok (T := T1.withCmd (c.endWith stOk)) rfl hby hop hsat).trans (by rw [Tile.doneFlag_eq]; rfl)
  exact Tile.completeCmd_ends h hrun hwork rfl rfl hrep rfl
end

/-! ### The services of the partition -/

/-- Nothing of the partition waits on array commands: no load, and no overflow shards. -/
def Part.unserved (P : Part) : Prop := P.loadOp = none ∧ ∀ e ∈ P.residentPlaces, (e.2.header.any fun h => h.overflow) = false

theorem Part.unserved.congr {P Q : Part} (h : P.unserved) (hl : Q.loadOp = P.loadOp) (hp : Q.places = P.places) : Q.unserved := by
  simpa only [Part.unserved, Part.residentPlaces, hl, hp] using h

theorem Mach.feedLoad_idle {m : Mach} {p : PartId} (h : (m.part p.val).loadOp = none) : m.feedLoad p = m := by
  simp only [Mach.feedLoad, h]
theorem Mach.feedOverflow_idle {m : Mach} {p : PartId}
    (h : ∀ e ∈ (m.part p.val).residentPlaces, (e.2.header.any fun h => h.overflow) = false) : m.feedOverflow p = m := by
  have hnone : ((m.part p.val).residentPlaces.filter fun e => e.2.header.any fun h => h.overflow) = [] :=
    List.filter_eq_nil_iff.2 fun e he => by simp [h e he]
  simp only [Mach.feedOverflow, hnone, List.foldl_nil]

theorem Mach.tiles_sigs (m : Mach) (t : Nat) (ss : List Sig) : (m.sigs t ss).tiles = m.tiles := by
  obtain ⟨htiles, -⟩ := Mach.sigs_frame ss m t
  exact htiles
theorem Mach.owner_sigs (m : Mach) (t : Nat) (ss : List Sig) (u : Nat) : (m.sigs t ss).owner u = m.owner u := by
  obtain ⟨-, hpallets, -⟩ := Mach.sigs_frame ss m t
  rw [Mach.owner, Mach.owner, Mach.pallet, Mach.pallet, hpallets]

/-- A completion that leaves the partition unserved is a step of the tile alone. -/
theorem exec_arrayCmdComplete {s : State} {t : TileId} {id : Nat} {phys : ArrPhys} {T' : Tile} {ss : List Sig}
    (hc : (s.m.tile t.val).completeCmd ⟨s.m, t.val⟩ id phys = (T', ss)) (hl : loaderEnds ss = [])
    (hu : ∀ p, s.m.owner t.val = some p → (((s.m.setTile t.val T').sigs t.val ss).part p.val).unserved) :
    exec (.arrayCmdComplete t id phys) s = .next { s with m := (s.m.setTile t.val T').sigs t.val ss } := by
  show execArrayCmdComplete t id phys s = _
  have ho : ((s.m.setTile t.val T').sigs t.val ss).owner t.val = s.m.owner t.val := Mach.owner_sigs _ _ _ _
  cases hp : s.m.owner t.val with
  | none => simp [execArrayCmdComplete, lift_next, hc, ho, hp]
  | some p =>
    obtain ⟨hload, hovf⟩ := hu p hp
    simp [execArrayCmdComplete, lift_next, hc, ho, hp, hl, Mach.feedLoad_idle hload, Mach.feedOverflow_idle hovf]

theorem exec_arrayCmdComplete_quiet {s : State} {t : TileId} {id : Nat} {phys : ArrPhys} {T' : Tile} (hs : s.m.noService t)
    (hc : (s.m.tile t.val).completeCmd ⟨s.m, t.val⟩ id phys = (T', [])) :
    exec (.arrayCmdComplete t id phys) s = .next (s.withTile t T') :=
  exec_arrayCmdComplete hc rfl hs

/-! ### An exception at the report leaves the services of the partition as they are -/

theorem Mach.sig_evt_part {m : Mach} {t : Nat} {p : PartId} (ho : m.owner t = some p) {e : Fld} (hr : e.reset = 0) (hw : e.width = 1) :
    (m.sig t (.evt e)).part p.val = (m.part p.val).evt e := by
  simp only [Mach.sig, ho, Mach.part_modPart_evt m p.val hr hw]

theorem Part.noteExc_array_frame (P : Part) (t : Nat) (member : Bool) :
    (P.noteExc t member .array none).loadOp = P.loadOp ∧ (P.noteExc t member .array none).places = P.places := by
  by_cases h0 : P.getR Reg.TILE_EXC_EVT_CAUSE_SEEN = 0 <;> cases member <;> simp only [Part.noteExc, h0, if_true, if_false] <;>
    exact ⟨rfl, rfl⟩
theorem Part.noteExc_array_regs (P : Part) (t : Nat) (member : Bool) :
    ∃ r : RegFile, (P.noteExc t member .array none).regs
      = r.set Reg.TILE_EXC_EVT_CAUSE_SEEN (P.getR Reg.TILE_EXC_EVT_CAUSE_SEEN ||| 2 ^ 9) := by
  cases member <;> exact ⟨_, rfl⟩

theorem Part.noteExc_array_ne_reset (P : Part) (t : Nat) (member : Bool) : P.noteExc t member .array none ≠ {} := fun e => by
  obtain ⟨r, hr⟩ := P.noteExc_array_regs t member
  have hbit : ((P.getR Reg.TILE_EXC_EVT_CAUSE_SEEN ||| 2 ^ 9) % 2 ^ 14).testBit 9 = true := by
    rw [Nat.testBit_mod_two_pow, Nat.testBit_or, Nat.testBit_two_pow_self, Bool.or_true]; rfl
  have hne : (P.getR Reg.TILE_EXC_EVT_CAUSE_SEEN ||| 2 ^ 9) % 2 ^ 14 ≠ 0 := fun e0 => by
    rw [e0] at hbit
    exact absurd hbit (by decide)
  have hget := RegFile.get_set_same (r := r) (f := Reg.TILE_EXC_EVT_CAUSE_SEEN) (.inr hne)
  rw [← hr, e] at hget
  exact hne hget.symm

theorem Mach.sig_exc_unserved {m : Mach} {t : Nat} {p : PartId} (ho : m.owner t = some p) (hu : (m.part p.val).unserved) :
    ((m.sig t (.exc .array none)).part p.val).unserved := by
  have hnote : ∀ member, ((m.setPart p.val ((m.part p.val).noteExc t member .array none)).part p.val).unserved := fun member => by
    obtain ⟨hl, hp⟩ := (m.part p.val).noteExc_array_frame t member
    rw [Mach.part_setPart_listed ((m.part p.val).noteExc_array_ne_reset t member)]
    exact hu.congr hl hp
  simp only [Mach.sig, ho, Mach.modPart, Mach.blameLine]
  split
  · exact hnote true
  · exact hnote false
theorem Mach.sigs_evt_exc_unserved {m : Mach} {t : Nat} {e : Fld} (hr : e.reset = 0) (hw : e.width = 1) {p : PartId} (ho : m.owner t = some p)
    (hu : (m.part p.val).unserved) : ((m.sigs t [.evt e, .exc .array none]).part p.val).unserved := by
  have ho' : (m.sig t (.evt e)).owner t = some p := (m.owner_sigs t [.evt e] t).trans ho
  refine Mach.sig_exc_unserved ho' ?_
  rw [Mach.sig_evt_part ho hr hw]
  exact hu.congr rfl rfl

end Sys2Proof.Machine
end


section
/-! O16: POWER, ERASE, REFRESH and STATUS run and report (R52, R53, R69 to R74). -/
namespace Sys2Proof.Machine

/-! ### POWER, ERASE and STATUS -/

section
variable {T : Tile} {c : ACmd} (x : ACtx) (phys : ArrPhys)

theorem Tile.ArrsBecome.aq {T' : Tile} {f : Nat → Arr → Arr} (h : T.ArrsBecome f T') : T'.aq = T.aq := by rw [h.same]

/-- The power state that a POWER gives (R74). -/
def ACmd.toPower (c : ACmd) : ArrPower := if blk c.rec_ 1 1 = 0 then .off else if blk c.rec_ 1 1 = 1 then .standby else .active

theorem Tile.runCmd_power (h : T.aq = [c]) (hop : c.op = 6) (hw : Map.wf {} T.arrs) :
    ∃ T1, T.ArrsBecome (fun k A => if k ∈ maskArrs c.mask then { A with power := c.toPower } else A) T1
      ∧ T.runCmd x c phys = (T1.withCmd (c.endWith stOk), []) := by
  have hbec := Tile.arrsBecome_foldl (fun _ A => { A with power := c.toPower }) (nodup_maskArrs c.mask) hw
  refine ⟨_, hbec, ?_⟩
  simp only [Tile.runCmd, hop, ACmd.names_mask hop (by decide)]
  exact congrArg (·, []) (Tile.modCmd_alone (hbec.aq.trans h) fun c => c.endWith _)

theorem Tile.runCmd_erase (h : T.aq = [c]) (hop : c.op = 5) (hw : Map.wf {} T.arrs) :
    ∃ T1, T.ArrsBecome (fun k A => if k ∈ maskArrs c.mask then A.eraseDone x.m.timeUs (phys.eraseFail.contains k) else A) T1
      ∧ T.runCmd x c phys = (T1.withCmd (c.endWith
          (if (maskArrs c.mask).any fun a => phys.eraseFail.contains a then stProgFail else stOk)), []) := by
  have hbec := Tile.arrsBecome_foldl (fun k A => A.eraseDone x.m.timeUs (phys.eraseFail.contains k)) (nodup_maskArrs c.mask) hw
  refine ⟨_, hbec, ?_⟩
  simp only [Tile.runCmd, hop, ACmd.names_mask hop (by decide)]
  exact congrArg (·, []) (Tile.modCmd_alone (hbec.aq.trans h) fun c => c.endWith _)

/-- The state words of the 64 arrays (R73). -/
def Tile.stateWords (T : Tile) : List Byte := (List.range 64).flatMap fun a => leBytes 4 (T.arr a).word
theorem Tile.stateWords_length (T : Tile) : T.stateWords.length = 256 := by
  simp [Tile.stateWords, List.length_flatMap, leBytes_length]
theorem Tile.stateWords_at (T : Tile) {a i : Nat} (ha : a < 64) (hi : i < 4) (hlen : 4 * a + i < T.stateWords.length) :
    T.stateWords[4 * a + i] = BitVec.ofNat 8 ((T.arr a).word / 256 ^ i) := by
  refine Option.some.inj ((List.getElem?_eq_getElem hlen).symm.trans ?_)
  exact (getElem?_flatMap_range (fun a => leBytes_length 4 _) ha hi).trans (leBytes_getElem? hi _)

theorem Tile.runCmd_status (h : T.aq = [c]) (hop : c.op = 7) :
    T.runCmd x c phys = ((T.storeRun (blk c.rec_ 16 4) T.stateWords).withCmd (c.endWith stOk), []) := by
  simp only [Tile.runCmd, hop]
  exact congrArg (·, []) (Tile.modCmd_alone (T := T.storeRun _ _) h fun c => c.endWith stOk)
end

theorem Arr.eraseDone_false (A : Arr) (now : Nat) : (A.eraseDone now false).content = .empty ∧ (A.eraseDone now false).rows = []
    ∧ (A.eraseDone now false).stuck = [] ∧ (A.eraseDone now false).power = A.power := ⟨rfl, rfl, rfl, rfl⟩
theorem Arr.eraseDone_content (A : Arr) (now : Nat) (fails : Bool) :
    (A.eraseDone now fails).content = if fails then .failed else .empty := by cases fails <;> rfl

/-! ### REFRESH -/

/-- A row sensed and restored (R71, R108): its levels as they were, its time now. -/
def Arr.restored (now : Nat) (A : Arr) (r : Nat) : Arr :=
  { A with rows := Map.set [] A.rows r (A.row r), rowTime := Map.insert A.rowTime r now, retryRows := A.retryRows.erase r }

section
variable {A : Arr} (hw : Map.wf [] A.rows) (now : Nat)
include hw

theorem Arr.row_restored (r k : Nat) : (A.restored now r).row k = A.row k := by
  by_cases hk : k = r
  · exact hk ▸ Map.get_set_same hw k (A.row k)
  · exact Map.get_set_other hk _ _ _ _
theorem Arr.rowOk_restored (r k : Nat) : (A.restored now r).rowOk k = A.rowOk k := by
  unfold Arr.rowOk
  rw [Arr.row_restored hw]
  rfl
end

theorem Arr.find_rowTime_restored (A : Arr) (now r k : Nat) :
    Map.find (A.restored now r).rowTime k = if k = r then some now else Map.find A.rowTime k := by
  by_cases hk : k = r
  · rw [if_pos hk, hk]; exact Map.find_insert_same _ _ _
  · rw [if_neg hk]; exact Map.find_insert_other hk _ _

/-- What the restoring of several rows leaves and changes. -/
theorem Arr.restored_rows (now : Nat) (rs : List Nat) {A : Arr} (hw : Map.wf [] A.rows) :
    (∀ k, (rs.foldl (Arr.restored now) A).row k = A.row k) ∧ (rs.foldl (Arr.restored now) A).content = A.content
      ∧ (∀ k, Map.get 0 (rs.foldl (Arr.restored now) A).rowTime k = if k ∈ rs then now else Map.get 0 A.rowTime k) := by
  induction rs generalizing A with
  | nil => simp
  | cons r rs ih =>
    obtain ⟨hrow, hcont, htime⟩ := ih (A := A.restored now r) (Map.wf_set hw r _)
    refine ⟨fun k => (hrow k).trans (Arr.row_restored hw now r k), hcont, fun k => (htime k).trans ?_⟩
    by_cases hk : k = r
    · simp [Map.get, Arr.find_rowTime_restored, hk]
    · simp [Map.get, Arr.find_rowTime_restored, hk]

section
variable {T : Tile} {now a : Nat}

theorem Tile.lateness_zero_iff {r : Nat} :
    T.lateness a r now = 0 ↔ ∀ at_, Map.find (T.arr a).rowTime r = some at_ → now ≤ at_ + T.period := by
  unfold Tile.lateness
  cases Map.find (T.arr a).rowTime r with
  | none => simp
  | some at_ => by_cases h : now ≤ at_ + T.period <;> by_cases h2 : now ≤ at_ + 2 * T.period <;> simp [h, h2]

/-- Restoring a row makes no row late. -/
theorem Tile.lateness_modArr_restored (hw : Map.wf {} T.arrs) (r : Nat) {k : Nat} (h : T.lateness a k now = 0) :
    (T.modArr a fun A => A.restored now r).lateness a k now = 0 := by
  have harr : (T.modArr a fun A => A.restored now r).arr a = (T.arr a).restored now r :=
    Map.get_modify_same hw a fun A => A.restored now r
  refine Tile.lateness_zero_iff.2 fun at_ hat => ?_
  rw [harr, Arr.find_rowTime_restored] at hat
  split at hat
  case isTrue => exact Option.some.inj hat ▸ Nat.le_add_right now _
  case isFalse => exact Tile.lateness_zero_iff.1 h at_ hat

/-- A row in time that passes its check takes its slot. -/
theorem Tile.rowSlot_passes {r : Nat} (t : Nat) (hl : T.lateness a r now = 0) (hok : (T.arr a).rowOk r = true) :
    T.rowSlot t a r now [] = (T.modArr a fun A => A.restored now r, []) := by
  have hcheck : (T.arr a).checkRow r ((T.arr a).sensed r []) = true := hok
  have hrest : restores [] = true := rfl
  simp only [Tile.rowSlot, Tile.noteLate, hl, hcheck, hrest]
  rfl

/-- REFRESH of rows of one array, all in time and all passing their checks. -/
theorem Tile.refreshRows_passes (t : Nat) (rs : List Nat) (hw : Map.wf {} T.arrs) (hr : Map.wf [] (T.arr a).rows)
    (hrows : ∀ r ∈ rs, (T.arr a).rowOk r = true ∧ T.lateness a r now = 0) :
    ∃ T1, T.refreshRows t a now [] rs = (T1, []) ∧ T.ArrsBecome (fun k A => if k = a then rs.foldl (Arr.restored now) A else A) T1 := by
  induction rs generalizing T with
  | nil => exact ⟨T, rfl, (Tile.ArrsBecome.refl hw).congr fun k => by simp⟩
  | cons r rs ih =>
    obtain ⟨⟨hok, hl⟩, hrs⟩ := List.forall_mem_cons.1 hrows
    have hbec := Tile.arrsBecome_modArr hw a fun A => A.restored now r
    have harr : (T.modArr a fun A => A.restored now r).arr a = (T.arr a).restored now r := (hbec.arr a).trans (if_pos rfl)
    obtain ⟨T1, he, hT1⟩ := ih hbec.wf (by rw [harr]; exact Map.wf_set hr r _) fun k hk => by
      obtain ⟨hkok, hkl⟩ := hrs k hk
      exact ⟨by rw [harr, Arr.rowOk_restored hr, hkok], Tile.lateness_modArr_restored hw r hkl⟩
    refine ⟨T1, ?_, (hbec.trans hT1).congr fun k => by by_cases hk : k = a <;> simp [hk]⟩
    have hslot : T.rowSlot t a r now (cellsOf [] a r false) = _ := Tile.rowSlot_passes t hl hok
    simp only [Tile.refreshRows, hslot, he, List.nil_append]
end

/-- The same rows of several arrays. -/
theorem Tile.refresh_passes (t now : Nat) (rs : List Nat) {as : List Nat} (hn : as.Nodup) {T : Tile} (hw : Map.wf {} T.arrs)
    (hr : ∀ a ∈ as, Map.wf [] (T.arr a).rows) (hrows : ∀ a ∈ as, ∀ r ∈ rs, (T.arr a).rowOk r = true ∧ T.lateness a r now = 0) :
    ∃ T1, as.foldl (fun (r : TRes) a => ((r.1.refreshRows t a now [] rs).1, r.2 ++ (r.1.refreshRows t a now [] rs).2)) (T, []) = (T1, [])
      ∧ T.ArrsBecome (fun k A => if k ∈ as then rs.foldl (Arr.restored now) A else A) T1 := by
  induction as generalizing T with
  | nil => exact ⟨T, rfl, (Tile.ArrsBecome.refl hw).congr fun k => by simp⟩
  | cons a as ih =>
    obtain ⟨ha, has⟩ := List.nodup_cons.1 hn
    obtain ⟨hra, hras⟩ := List.forall_mem_cons.1 hr
    obtain ⟨hrowsa, hrowsas⟩ := List.forall_mem_cons.1 hrows
    obtain ⟨T1, he, hT1⟩ := Tile.refreshRows_passes t rs hw hra hrowsa
    have hothers : ∀ b ∈ as, T1.arr b = T.arr b := fun b hb => (hT1.arr b).trans (if_neg fun e : b = a => ha (e ▸ hb))
    have hperiod : T1.period = T.period := by rw [hT1.same]
    obtain ⟨T2, he2, hT2⟩ := ih has hT1.wf (fun b hb => by rw [hothers b hb]; exact hras b hb) fun b hb r hmem => by
      obtain ⟨hok, hl⟩ := hrowsas b hb r hmem
      refine ⟨by rw [hothers b hb, hok], ?_⟩
      rwa [Tile.lateness, hothers b hb, hperiod]
    refine ⟨T2, ?_, (hT1.trans hT2).congr fun k => ?_⟩
    · rw [List.foldl_cons, he]; exact he2
    · by_cases hk : k = a
      · subst hk; simp [ha]
      · simp [hk]

/-- The rows that a REFRESH names (R71). -/
def ACmd.refreshed (c : ACmd) : List Nat := (List.range (blk c.rec_ 14 2)).map (blk c.rec_ 12 2 + ·)
theorem ACmd.mem_refreshed {c : ACmd} {r : Nat} : r ∈ c.refreshed ↔ blk c.rec_ 12 2 ≤ r ∧ r < blk c.rec_ 12 2 + blk c.rec_ 14 2 := by
  simp only [ACmd.refreshed, List.mem_map, List.mem_range]
  exact ⟨fun ⟨i, hi, e⟩ => by omega, fun h => ⟨r - blk c.rec_ 12 2, by omega, by omega⟩⟩

theorem Tile.runCmd_refresh {T : Tile} {c : ACmd} (x : ACtx) {phys : ArrPhys} (h : T.aq = [c]) (hop : c.op = 4) (hw : Map.wf {} T.arrs)
    (hsenses : phys.senses = []) (hr : ∀ a ∈ maskArrs c.mask, Map.wf [] (T.arr a).rows)
    (hrows : ∀ a ∈ maskArrs c.mask, ∀ r ∈ c.refreshed, (T.arr a).rowOk r = true ∧ T.lateness a r x.m.timeUs = 0) :
    ∃ T1, T.ArrsBecome (fun k A => if k ∈ maskArrs c.mask then c.refreshed.foldl (Arr.restored x.m.timeUs) A else A) T1
      ∧ T.runCmd x c phys = (T1.withCmd (c.endWith stOk), []) := by
  obtain ⟨T1, he, hbec⟩ := Tile.refresh_passes x.t x.m.timeUs c.refreshed (nodup_maskArrs c.mask) hw hr hrows
  refine ⟨T1, hbec, ?_⟩
  have hcmd : T1.modCmd c.id (fun c => c.endWith stOk) = T1.withCmd (c.endWith stOk) :=
    Tile.modCmd_alone (hbec.aq.trans h) fun c => c.endWith stOk
  rw [← hcmd]
  simp only [Tile.runCmd, hop, ACmd.names_mask hop (by decide), hsenses]
  exact congrArg (fun r : TRes => (r.1.modCmd c.id fun c => c.endWith stOk, r.2)) he

/-! ### What STATUS writes -/

/-- Bytes written where no bank is pending-scrub. -/
theorem Tile.putBytes_clear {T : Tile} {addr : Nat} {bs : List Byte} (h : ∀ i < bs.length, (T.bankAt (addr + i)).scrub = false) :
    T.putBytes addr bs = Map.writeFrom 0 T.mem addr bs := by
  have hall : ((List.range bs.length).all fun i => !T.dropsAt (addr + i)) = true := by
    simpa [List.all_eq_true, Tile.dropsAt] using h
  simp only [Tile.putBytes, hall, if_true]

theorem Tile.reported_storeRun (T : Tile) (c : ACmd) (d : Option FlagNo) (addr : Nat) (bs : List Byte) :
    ({ (T.storeRun addr bs).reported c 0 with flags := (T.storeRun addr bs).doneFlags d } : Tile)
      = { T.reported c 0 with
          flags := T.doneFlags d, mem := (T.storeRun addr bs).mem, poison := (T.storeRun addr bs).poison
          wordErr := (T.storeRun addr bs).wordErr } := rfl

/-- The two ends of a range no longer than a bank lie in all the banks that it meets. -/
theorem Tile.bankAt_between {T : Tile} {addr n : Nat} (hn : n < 65536) (h0 : (T.bankAt addr).scrub = false)
    (h1 : (T.bankAt (addr + n)).scrub = false) {i : Nat} (hi : i ≤ n) : (T.bankAt (addr + i)).scrub = false := by
  have hbank : (addr + i) / 65536 = addr / 65536 ∨ (addr + i) / 65536 = (addr + n) / 65536 := by omega
  unfold Tile.bankAt at h0 h1 ⊢
  rcases hbank with e | e <;> rw [e] <;> assumption

theorem Tile.storeRun_mem {T : Tile} {addr : Nat} {bs : List Byte} (hw : Map.wf 0 T.mem)
    (h : ∀ i < bs.length, (T.bankAt (addr + i)).scrub = false) :
    (∀ i (hi : i < bs.length), Map.get 0 (T.storeRun addr bs).mem (addr + i) = bs[i])
      ∧ ∀ k, k < addr ∨ addr + bs.length ≤ k → Map.get 0 (T.storeRun addr bs).mem k = Map.get 0 T.mem k := by
  have hmem : (T.storeRun addr bs).mem = Map.writeFrom 0 T.mem addr bs := Tile.putBytes_clear h
  rw [hmem]
  exact ⟨fun i hi => Map.get_writeFrom_in hw hi, fun k hk => Map.get_writeFrom_other 0 bs T.mem addr k hk⟩

/-! ### The obligation -/

/-- Settles O16: each command's work is `runCmd` on its own arrays or bytes, and its report the rest of `completeCmd`. -/
theorem arrayRuns : Obligations.ArrayRuns := by
  unfold Obligations.ArrayRuns
  intro s t c pc phys T fld arrs flags ends haq hby hrun hsat hserv hw
  have hok : ∀ {T1 : Tile}, c.op ≠ 1 → T.runCmd ⟨s.m, t.val⟩ c phys = (T1.withCmd (c.endWith stOk), []) →
      exec (.arrayCmdComplete t c.id phys) s = .next (s.withTile t { T1.reported c 0 with flags := T1.doneFlags c.done }) :=
    fun hop hwork => exec_arrayCmdComplete_quiet hserv (Tile.completeCmd_ok haq hby hrun hop hsat hwork)
  have hends : ∀ {f : Nat → Arr → Arr} {T1 : Tile} {good : Map Arr → Prop}, c.op ≠ 1 → T.ArrsBecome f T1 →
      T.runCmd ⟨s.m, t.val⟩ c phys = (T1.withCmd (c.endWith stOk), []) → good T1.arrs →
      (∀ k, k ∉ arrs → f k (T.arr k) = T.arr k) → ends good := fun hop hbec hwork hgood hout =>
    ⟨_, (hok hop hwork).trans (by rw [hbec.same]; rfl), hgood, fun k hk => (hbec.arr k).trans (hout k hk)⟩
  refine ⟨?power, ?erase, ?eraseFails, ?refresh, ?status⟩
  case power =>
    intro hop
    obtain ⟨T1, hbec, hwork⟩ := Tile.runCmd_power ⟨s.m, t.val⟩ phys haq hop hw
    exact hends (by rw [hop]; decide) hbec hwork (fun a ha => (hbec.arr a).trans (if_pos ha)) fun k hk => if_neg hk
  case erase =>
    intro hop hnone
    obtain ⟨T1, hbec, hwork⟩ := Tile.runCmd_erase ⟨s.m, t.val⟩ phys haq hop hw
    have hany : ((maskArrs c.mask).any fun a => phys.eraseFail.contains a) = false :=
      List.any_eq_false.2 fun a ha => by simpa using hnone a ha
    rw [hany] at hwork
    refine hends (by rw [hop]; decide) hbec hwork (fun a ha => ?_) fun k hk => if_neg hk
    have harr : Map.get {} T1.arrs a = (T.arr a).eraseDone s.m.timeUs false := by
      have hfail : phys.eraseFail.contains a = false := by simpa using hnone a ha
      exact (hbec.arr a).trans ((if_pos ha).trans (by rw [hfail]))
    rw [harr]
    exact Arr.eraseDone_false _ _
  case eraseFails =>
    intro hop hsome hexc
    obtain ⟨T1, hbec, hwork⟩ := Tile.runCmd_erase ⟨s.m, t.val⟩ phys haq hop hw
    obtain ⟨a, ha, hfail⟩ := hsome
    have hany : ((maskArrs c.mask).any fun a => phys.eraseFail.contains a) = true :=
      List.any_eq_true.2 ⟨a, ha, by simpa using hfail⟩
    rw [hany] at hwork
    have h1 : c.op ≠ 1 := by rw [hop]; decide
    have hrep := Tile.reportCmd_fails (T := T1.withCmd (c.endWith stProgFail)) (st := stProgFail) rfl hby h1 hsat (by decide)
      (by rw [hbec.same]; exact hexc)
    have hdone := Tile.completeCmd_ends haq hrun hwork rfl rfl hrep rfl
    refine ⟨_, T1.arrs, exec_arrayCmdComplete hdone rfl fun p hp =>
      Mach.sigs_evt_exc_unserved (m := s.m.setTile t.val _) rfl rfl hp (hserv p hp), ?_, fun b hb => ?_⟩
    · rw [Mach.tiles_sigs, hbec.same, ← hop]
      rfl
    · have harr : Map.get {} T1.arrs b = (T.arr b).eraseDone s.m.timeUs (phys.eraseFail.contains b) := (hbec.arr b).trans (if_pos hb)
      rw [harr, Arr.eraseDone_content]
      simp
  case refresh =>
    intro hop hsenses hrw hrows
    obtain ⟨T1, hbec, hwork⟩ := Tile.runCmd_refresh ⟨s.m, t.val⟩ haq hop hw hsenses hrw
      fun a ha r hr => hrows a ha r (ACmd.mem_refreshed.1 hr).1 (ACmd.mem_refreshed.1 hr).2
    refine hends (by rw [hop]; decide) hbec hwork (fun a ha => ?_) fun k hk => if_neg hk
    have harr : Map.get {} T1.arrs a = c.refreshed.foldl (Arr.restored s.m.timeUs) (T.arr a) := (hbec.arr a).trans (if_pos ha)
    obtain ⟨hrow, hcont, htime⟩ := Arr.restored_rows s.m.timeUs c.refreshed (hrw a ha)
    rw [harr]
    exact ⟨fun r h0 h1 => (htime r).trans (if_pos (ACmd.mem_refreshed.2 ⟨h0, h1⟩)), hrow, hcont⟩
  case status =>
    intro hop hmem h0 h255
    have hwork := Tile.runCmd_status ⟨s.m, t.val⟩ phys haq hop
    have hlen := T.stateWords_length
    obtain ⟨hin, hout⟩ := Tile.storeRun_mem (T := T) (addr := fld 16 4) (bs := T.stateWords) hmem fun i hi =>
      Tile.bankAt_between (by decide) h0 h255 (by omega)
    refine ⟨_, _, _, (hok (by rw [hop]; decide) hwork).trans (by rw [Tile.reported_storeRun]; rfl), fun a i ha hi => ?_,
      fun k hk => hout k (by rwa [hlen])⟩
    have hlt : 4 * a + i < T.stateWords.length := by omega
    rw [Nat.add_assoc]
    exact (hin _ hlt).trans (T.stateWords_at ha hi hlt)
end Sys2Proof.Machine
end


section
/-! O17: a READ whose tile's partition is listed twice. -/
namespace Sys2Proof.Machine

/-- A row of an EMPTY array is not checked (R96). -/
theorem Arr.rowOk_of_empty {A : Arr} (h : A.content = .empty) (r : Nat) : A.rowOk r = true := by simp [Arr.rowOk, Arr.checkRow, h]

/-! ### A partition listed twice -/

/-- A READ of row 0 of array 0 to 0x1000, alone in its tile's queue (R61). -/
def loneRead : ACmd := { by_ := .core 8, record := leBytes 32 (2 ^ 96 * 0x1000 + 2 ^ 64 + 0xFFFF0002), stage := .running }
/-- A load with one row on its way to the ring of tile 1. -/
def hiddenLoad : Load := { runs := [⟨1, 1, false, 0, 0, [(0, [])], false, false, []⟩] }
/-- Tile 0 with that READ. Its partition 0 is listed twice: it reads as the first listing, at its reset state, and the second holds the load. -/
def twiceListed : State :=
  { pending := []
    m := { tiles := [(0, { aq := [loneRead] })], parts := [(0, {}), (0, { loadOp := some hiddenLoad })], pallets := [(0, { owner := some 0 })] } }

theorem twiceListed_noService : twiceListed.m.noService 0 := by
  intro p hp
  obtain rfl : (0 : PartId) = p := Option.some.inj hp
  exact ⟨rfl, fun e he => absurd he (List.not_mem_nil)⟩

/-- The report of the READ writes the first listing back at its reset state, which lists it no more; the load of the second then goes on, and
fills a slot of the ring of tile 1 (R357). -/
theorem loneRead_feeds_hiddenLoad : ∃ s', exec (.arrayCmdComplete 0 loneRead.id ⟨[], 0, [], []⟩) twiceListed = .next s'
    ∧ (Map.find s'.m.tiles 1).isSome = true :=
  ⟨_, rfl, by decide +kernel⟩

/-- Refutes O17, by its clause on READ: `Mach.noService` looks at the partition that is read, and no premise keeps the store of partitions in order
(`Mach.ordered`), so the report of a READ can uncover a second listing of the partition, whose load then writes another tile. -/
theorem not_arrayProgramAndRead : ¬ Obligations.ArrayProgramAndRead := by
  unfold Obligations.ArrayProgramAndRead
  rintro ⟨-, hread⟩
  obtain ⟨hgood, -⟩ := hread twiceListed 0 loneRead 8 ⟨[], 0, [], []⟩ rfl rfl rfl (by decide) rfl (by decide) (by decide)
    twiceListed_noService (by decide) (by decide) rfl fun _ _ => rfl
  obtain ⟨s', T', hs', htiles, -⟩ := hgood fun r _ _ => Arr.rowOk_of_empty rfl r
  obtain ⟨s2, hs2, hfed⟩ := loneRead_feeds_hiddenLoad
  obtain rfl : s' = s2 := Host.Outcome.next.inj (hs'.symm.trans hs2)
  have hother : Map.find s'.m.tiles 1 = Map.find twiceListed.m.tiles 1 := by
    rw [htiles]
    exact Map.find_set_other (by decide) _ _ _
  rw [hother] at hfed
  exact absurd hfed (by decide)

end Sys2Proof.Machine
end


section
/-! Steps of one array of a tile: what the tile, the partition that owns it and the list of tests read afterwards. -/
namespace Sys2Proof

/-- What is found in a store is listed in it. -/
theorem Map.mem_of_find {α : Type} {m : Map α} {k : Nat} {v : α} (h : Map.find m k = some v) : (k, v) ∈ m := by
  induction m with
  | nil => cases h
  | cons e m ih =>
    obtain ⟨j, w⟩ := e
    rw [Map.find] at h
    split at h
    case isTrue hk => rw [hk, Option.some.inj h]; exact List.mem_cons_self
    case isFalse => exact List.mem_cons_of_mem _ (ih h)

namespace Machine

/-! ### The array that is changed -/

/-- An array other than those of a tile that is not listed: these hold nothing beside their content state. -/
def Arr.used (A : Arr) : Prop := ∀ c : Content, A ≠ { content := c }

theorem Arr.used.ne_default {A : Arr} (h : A.used) : A ≠ {} := h .empty
theorem Arr.used_of_rowTime {A : Arr} (h : A.rowTime ≠ []) : A.used := fun _ e => h (congrArg Arr.rowTime e)
theorem Arr.used_of_retryRows {A : Arr} (h : A.retryRows ≠ []) : A.used := fun _ e => h (congrArg Arr.retryRows e)
theorem Arr.used_of_verifyCount {A : Arr} (h : A.verifyCount ≠ 0) : A.used := fun _ e => h (congrArg Arr.verifyCount e)

section
variable {T : Tile} {a : Nat} {f : Arr → Arr}

theorem Tile.arr_modArr_listed (h : f (T.arr a) ≠ {}) : (T.modArr a f).arr a = f (T.arr a) := Map.get_set_listed h T.arrs a
theorem Tile.arr_modArr_other {b : Nat} (h : b ≠ a) : (T.modArr a f).arr b = T.arr b := Map.get_modify_other h _ T.arrs f
end

/-! ### The tile that is changed -/

/-- A tile that is not listed has arrays as power-on, bring-up or parking leaves them (R68, R462, R513). -/
theorem Mach.not_used_blankAt (m : Mach) (t a : Nat) : ¬((m.blankAt t).arr a).used := by
  intro h
  unfold Mach.blankAt Mach.blank at h
  split at h
  · exact h .empty rfl
  split at h
  · exact h .empty rfl
  cases hf : Map.find Tile.fresh.arrs a with
  | none => exact h .empty (by rw [Tile.arr, Map.get, hf]; rfl)
  | some A =>
    obtain ⟨b, -, hb⟩ := List.mem_map.1 (Map.mem_of_find hf)
    have hA : ({ content := .unknown } : Arr) = A := congrArg Prod.snd hb
    exact h .unknown (by rw [Tile.arr, Map.get, hf, hA]; rfl)

theorem Mach.tile_setTile_used {T : Tile} {a : Nat} (h : (T.arr a).used) (m : Mach) (t : Nat) : (m.setTile t T).tile t = T :=
  Map.get_set_listed (fun e : T = m.blankAt t => m.not_used_blankAt t a (e ▸ h)) m.tiles t

theorem Mach.tile_sigs (m : Mach) (t : Nat) (ss : List Sig) (u : Nat) : (m.sigs t ss).tile u = m.tile u := by
  obtain ⟨htiles, hpallets, -, -, -, -, -, hzeroed, -⟩ := Mach.sigs_frame ss m t
  unfold Mach.tile Mach.blankAt Mach.blank
  rw [htiles, hpallets, hzeroed]

/-- A lifted step of a tile. -/
theorem lift_act {s : State} {t : TileId} {f : Tile → TRes} {T : Tile} {ss : List Sig} (h : f (s.m.tile t.val) = (T, ss)) :
    lift (fun m => m.act t.val f) s = .next { s with m := (s.m.setTile t.val T).sigs t.val ss } := by
  simp only [lift_next, Mach.act_eq, h]

/-- What the tile reads after a step that leaves one of its arrays used. -/
theorem Mach.tile_stepped {T : Tile} {a : Nat} (h : (T.arr a).used) (m : Mach) (t : Nat) (ss : List Sig) :
    ((m.setTile t T).sigs t ss).tile t = T := (Mach.tile_sigs _ t ss t).trans (Mach.tile_setTile_used h m t)

/-- What the array reads after a step of its tile that puts it there. -/
theorem Mach.arr_stepped {A : Arr} (h : A.used) (m : Mach) (t a : Nat) (T : Tile) (ss : List Sig) :
    (((m.setTile t (T.modArr a fun _ => A)).sigs t ss).tile t).arr a = A := by
  have harr : (T.modArr a fun _ => A).arr a = A := Tile.arr_modArr_listed h.ne_default
  rw [Mach.tile_stepped (a := a) (harr.symm ▸ h), harr]

/-! ### Signals -/

section
variable (m : Mach) (t : Nat)

theorem Mach.mem_tests_startTest (u : TestUnit) : u ∈ (m.startTest u).tests := by
  unfold Mach.startTest
  split
  case isTrue h => exact List.contains_iff_mem.1 h
  case isFalse => exact List.mem_append_right _ (List.mem_singleton_self u)

/-- A unit whose test is the last that a step asks for is under test. -/
theorem Mach.mem_tests_sigs (ss : List Sig) (u : TestUnit) : u ∈ (m.sigs t (ss ++ [.test u])).tests := by
  rw [Mach.sigs, List.foldl_append]
  exact Mach.mem_tests_startTest _ u

theorem Mach.sig_test_parts (u : TestUnit) : (m.sig t (.test u)).parts = m.parts := by
  show (m.startTest u).parts = m.parts
  unfold Mach.startTest
  split <;> rfl

theorem Mach.sig_evt_tests (e : Fld) : (m.sig t (.evt e)).tests = m.tests := by
  simp only [Mach.sig]
  split <;> rfl

theorem Mach.flagR_sig_evt {p : PartId} (ho : m.owner t = some p) {e : Fld} (hr : e.reset = 0) (hw : e.width = 1) :
    ((m.sig t (.evt e)).part p.val).flagR e = true := by
  obtain ⟨hflag, -⟩ := Part.raised_evt (m.part p.val) hr hw
  rw [Mach.sig_evt_part ho hr hw, hflag]
/-- A test that starts leaves the event as it is. -/
theorem Mach.flagR_sigs_evt_test {p : PartId} (ho : m.owner t = some p) {e : Fld} (hr : e.reset = 0) (hw : e.width = 1) (u : TestUnit) :
    ((m.sigs t [.evt e, .test u]).part p.val).flagR e = true := by
  have hparts : (m.sigs t [.evt e, .test u]).parts = (m.sig t (.evt e)).parts := Mach.sig_test_parts (m.sig t (.evt e)) t u
  rw [Mach.part, hparts]
  exact Mach.flagR_sig_evt m t ho hr hw
end

end Machine
end Sys2Proof
end


section
/-! O23: refresh slots and calibration (R88 to R92, R105 to R110). -/
namespace Sys2Proof

theorem Map.insert_ne_nil {α : Type} (m : Map α) (k : Nat) (v : α) : Map.insert m k v ≠ [] := by
  cases m with
  | nil => exact List.cons_ne_nil _ _
  | cons e m => unfold Map.insert; split_ifs <;> exact List.cons_ne_nil _ _

/-- A function listed at each key of a list, its default values left out, reads back at every key of the list. -/
theorem Map.get_filter_graph {α : Type} [DecidableEq α] (d : α) (f : Nat → α) (ks : List Nat) (k : Nat) :
    Map.get d ((ks.map fun c => (c, f c)).filter fun e => e.2 != d) k = if k ∈ ks then f k else d := by
  induction ks with
  | nil => rfl
  | cons c ks ih =>
    by_cases hd : f c = d
    · have hskip : ((c :: ks).map fun c => (c, f c)).filter (fun e => e.2 != d) = (ks.map fun c => (c, f c)).filter fun e => e.2 != d := by
        simp [hd]
      rw [hskip, ih]
      by_cases hk : k = c <;> simp [hk, hd]
    · have hlist : ((c :: ks).map fun c => (c, f c)).filter (fun e => e.2 != d)
          = (c, f c) :: (ks.map fun c => (c, f c)).filter fun e => e.2 != d := by simp [hd]
      rw [hlist]
      by_cases hk : k = c
      · simp [Map.get, Map.find, hk]
      · have hrest := ih
        simp only [Map.get] at hrest
        simp [Map.get, Map.find, hk, hrest]

namespace Machine

/-! ### The refresh period (R105) -/

theorem periodAt_cold {t : Int} (h : t ≤ 45) : periodAt t = 64000 := if_pos h
theorem periodAt_warm {t : Int} (h0 : 45 ≤ t) (h1 : t ≤ 85) : (periodAt t : Int) = 64000 - 1200 * (t - 45) := by
  unfold periodAt
  split_ifs <;> omega
theorem periodAt_hot {t : Int} (h0 : 85 ≤ t) (h1 : t ≤ 105) : (periodAt t : Int) = 16000 - 400 * (t - 85) := by
  unfold periodAt
  split_ifs <;> omega
theorem periodAt_max {t : Int} (h : 105 ≤ t) : periodAt t = 8000 := by
  unfold periodAt
  split_ifs <;> omega

/-! ### The slot of a row (R107 to R109) -/

/-- A row that has had its slot: its levels as sensed, its time now. -/
def Arr.slotted (now : Nat) (A : Arr) (r : Nat) (lv : Row) : Arr :=
  { A with rows := Map.set [] A.rows r lv, rowTime := Map.insert A.rowTime r now, retryRows := A.retryRows.erase r }
/-- A row that waits for a second slot. -/
def Arr.retried (A : Arr) (r : Nat) : Arr := { A with retryRows := A.retryRows ++ [r] }

theorem Arr.used_slotted (now : Nat) (A : Arr) (r : Nat) (lv : Row) : (A.slotted now r lv).used :=
  Arr.used_of_rowTime (Map.insert_ne_nil _ _ _)
theorem Arr.used_retried (A : Arr) (r : Nat) : (A.retried r).used :=
  Arr.used_of_retryRows (List.append_ne_nil_of_right_ne_nil _ (List.cons_ne_nil _ _))

section
variable {T : Tile} {t a r now : Nat} {cells : List CellSense}

theorem Tile.rowSlot_good (hl : T.lateness a r now = 0) (hc : (T.arr a).checkRow r ((T.arr a).sensed r cells) = true)
    (hr : restores cells = true) :
    T.rowSlot t a r now cells = (T.modArr a fun _ => (T.arr a).slotted now r ((T.arr a).sensed r cells), []) := by
  simp only [Tile.rowSlot, Tile.noteLate, hl, hc, hr]
  rfl

section
variable (hl : T.lateness a r now = 0) (hbad : ¬((T.arr a).checkRow r ((T.arr a).sensed r cells) = true ∧ restores cells = true))
include hl hbad

theorem Tile.rowSlot_first (hn : r ∉ (T.arr a).retryRows) : T.rowSlot t a r now cells = (T.modArr a fun _ => (T.arr a).retried r, []) := by
  simp only [Tile.rowSlot, Tile.noteLate, hl, Bool.and_eq_true, if_neg hbad, List.contains_iff_mem, if_neg hn]
  rfl

theorem Tile.rowSlot_second (hm : r ∈ (T.arr a).retryRows) : T.rowSlot t a r now cells
    = (T.modArr a fun _ => { (T.arr a).slotted now r ((T.arr a).sensed r cells) with suspect := true },
      [.evt Reg.ARR_ACC_EVT_RESTORE_FAIL, .test (.array t a)]) := by
  simp only [Tile.rowSlot, Tile.noteLate, hl, Bool.and_eq_true, if_neg hbad, List.contains_iff_mem, if_pos hm]
  rfl
end

theorem Tile.rowDue_iff {at_ : Nat} (h : Map.find (T.arr a).rowTime r = some at_) :
    T.rowDue a r now = true ↔ 8 * at_ + 7 * T.period ≤ 8 * now ∨ r ∈ (T.arr a).retryRows := by
  simp [Tile.rowDue, h]

theorem Tile.refreshSlot_runs (hc : (T.arr a).refreshes = true) (hp : (T.arr a).power ≠ .off) (hd : T.rowDue a r now = true)
    (hg : T.arrRuns a true = false) : T.refreshSlot t a r now cells = T.rowSlot t a r now cells := by
  simp [Tile.refreshSlot, hc, hp, hd, hg]
theorem Tile.refreshSlot_notDue (h : T.rowDue a r now = false) : T.refreshSlot t a r now cells = (T, []) := by
  simp [Tile.refreshSlot, h]
theorem Tile.refreshSlot_noGap (h : T.arrRuns a true = true ∨ (T.arr a).refreshes = false ∨ (T.arr a).power = .off) :
    T.refreshSlot t a r now cells = (T, []) := by
  rcases h with h | h | h <;> simp [Tile.refreshSlot, h]

/-! ### A late row (R110) -/

theorem Tile.noteLate_inTime {at_ : Nat} (hf : Map.find (T.arr a).rowTime r = some at_) (h : now ≤ at_ + T.period) :
    T.noteLate a r now = (T, []) := by simp [Tile.noteLate, Tile.lateness, hf, h]
theorem Tile.noteLate_late {at_ : Nat} (hf : Map.find (T.arr a).rowTime r = some at_) (h1 : at_ + T.period < now)
    (h2 : now ≤ at_ + 2 * T.period) : T.noteLate a r now = (T.modArr a fun A => { A with refreshLate := true }, []) := by
  simp [Tile.noteLate, Tile.lateness, hf, Nat.not_le.2 h1, h2]
theorem Tile.noteLate_lost {at_ : Nat} (hf : Map.find (T.arr a).rowTime r = some at_) (h : at_ + 2 * T.period < now) :
    T.noteLate a r now = (T.modArr a fun A => { A with refreshLate := true, suspect := true }, [.evt Reg.ARR_ACC_EVT_REFRESH_OVERDUE]) := by
  have h1 : ¬now ≤ at_ + T.period := by omega
  simp [Tile.noteLate, Tile.lateness, hf, h1, Nat.not_le.2 h]
end

section
variable {s : State} {t : TileId} {a : ArrId} {row : Fin 512} {data checks : List CellSense}

theorem exec_rowRefreshSlot {T : Tile} {ss : List Sig}
    (h : (s.m.tile t.val).refreshSlot t.val a.val row.val s.m.timeUs (data ++ checks) = (T, ss)) :
    exec (.rowRefreshSlot t a row data checks) s = .next { s with m := (s.m.setTile t.val T).sigs t.val ss } := lift_act h

theorem exec_refreshOverdue {T : Tile} {ss : List Sig} (hr : ((s.m.tile t.val).arr a.val).refreshes = true)
    (h : (s.m.tile t.val).noteLate a.val row.val s.m.timeUs = (T, ss)) :
    exec (.refreshOverdue t a row) s = .next { s with m := (s.m.setTile t.val T).sigs t.val ss } :=
  lift_act (by rw [if_pos hr, h])
theorem exec_refreshOverdue_not_refreshes (hr : ((s.m.tile t.val).arr a.val).refreshes = false) :
    exec (.refreshOverdue t a row) s = .next (s.withTile t (s.m.tile t.val)) :=
  lift_act_quiet (by rw [if_neg (by rw [hr]; decide)])
end

/-! ### What makes a calibration due, forces it and ends it (R88, R90) -/

section
variable {s : State} {t : TileId} {a : ArrId}

/-- A calibration of the array is due by temperature or by period. -/
def Mach.calIsDue (m : Mach) (t a : Nat) : Prop :=
  (m.ownerPart t).getR Reg.ARR_CAL_CFG_CAL_DELTA_T ≤ (m.tileTj t - ((m.tile t).arr a).calTemp).natAbs
    ∨ ((m.tile t).arr a).calBegan + 1000 * (m.ownerPart t).getR Reg.ARR_CAL_CFG_CAL_PERIOD ≤ m.timeUs

theorem exec_calibrationDue_sets (hp : ((s.m.tile t.val).arr a.val).power ≠ .off) (hn : ((s.m.tile t.val).arr a.val).calDue = none)
    (hd : s.m.calIsDue t.val a.val) : exec (.calibrationDue t a) s
      = .next (s.withTile t ((s.m.tile t.val).modArr a.val fun A => { A with calDue := some s.m.timeUs, calEscalated := false })) := by
  have hdue := hd
  simp only [Mach.calIsDue, ← not_lt, ← not_and_or] at hdue
  show execCalibrationDue t a s = _
  simp [execCalibrationDue, lift_next, hp, hn, hdue]
  rfl
theorem exec_calibrationDue_notDue (hd : ¬s.m.calIsDue t.val a.val) : exec (.calibrationDue t a) s = .next s := by
  have hnot := hd
  simp only [Mach.calIsDue, not_or, not_le] at hnot
  show execCalibrationDue t a s = _
  simp [execCalibrationDue, lift_next, hnot]

theorem exec_calEscalate_late {d : Nat} (hd : ((s.m.tile t.val).arr a.val).calDue = some d)
    (he : ((s.m.tile t.val).arr a.val).calEscalated = false)
    (hl : d + 1000 * (s.m.ownerPart t.val).getR Reg.ARR_CAL_CFG_CAL_GRACE ≤ s.m.timeUs
      ∨ 8 ≤ (s.m.tileTj t.val - ((s.m.tile t.val).arr a.val).calTemp).natAbs) :
    exec (.calEscalate t a) s = .next { s with
      m := (s.m.setTile t.val ((s.m.tile t.val).modArr a.val fun A => { A with calEscalated := true })).sigs t.val
        [.evt Reg.ARR_ACC_EVT_CAL_LATE, .forced a.val] } := by
  simp only [← not_lt, ← not_and_or] at hl
  show execCalEscalate t a s = _
  simp [execCalEscalate, lift_next, hd, he, hl]
  rfl

theorem exec_calRestart_late (hs : ((s.m.tile t.val).arr a.val).calStep ≠ none)
    (hl : ((s.m.tile t.val).arr a.val).calBegan + 5000 < s.m.timeUs) :
    exec (.calRestart t a) s = .next (s.withTile t ((s.m.tile t.val).modArr a.val Arr.calReset)) := by
  show execCalRestart t a s = _
  simp [execCalRestart, lift_next, Option.isSome_iff_ne_none.2 hs, hl]
  rfl

theorem Part.ne_reset_of_flagR {P : Part} {e : Fld} (hr : e.reset = 0) (h : P.flagR e = true) : P ≠ {} := fun hP => by
  have h0 : ({} : Part).flagR e = (e.reset == 1) := rfl
  rw [hP, h0, hr] at h
  cases h

/-- What a partition reads after an event with a forced item (R419). -/
theorem Mach.part_sigs_evt_forced {m : Mach} {t : Nat} {p : PartId} (ho : m.owner t = some p) {e : Fld} (hr : e.reset = 0)
    (hw : e.width = 1) (b : Nat) :
    (t, b) ∈ ((m.sigs t [.evt e, .forced b]).part p.val).forced ∧ ((m.sigs t [.evt e, .forced b]).part p.val).flagR e = true := by
  have ho' : (m.sig t (.evt e)).owner t = some p := (m.owner_sigs t [.evt e] t).trans ho
  have hflag := Mach.flagR_sig_evt m t ho hr hw
  have hsigs : m.sigs t [.evt e, .forced b] = (m.sig t (.evt e)).modPart p.val fun P =>
      if P.forced.contains (t, b) then P else { P with forced := P.forced ++ [(t, b)] } := by
    show (m.sig t (.evt e)).sig t (.forced b) = _
    generalize m.sig t (.evt e) = n at ho'
    simp only [Mach.sig, ho']
  generalize m.sig t (.evt e) = n at hflag hsigs
  rw [hsigs, Mach.modPart]
  by_cases h : (n.part p.val).forced.contains (t, b) = true
  · rw [if_pos h, Mach.part_setPart_listed (Part.ne_reset_of_flagR hr hflag)]
    exact ⟨List.contains_iff_mem.1 h, hflag⟩
  · rw [if_neg h, Mach.part_setPart_listed (Part.ne_reset_of_flagR hr (by exact hflag))]
    exact ⟨List.mem_append_right _ (List.mem_singleton_self _), hflag⟩
end

/-! ### The steps of a calibration (R89) -/

theorem Tile.mayCalibrate_false {T : Tile} {a now : Nat} (h : (T.arr a).calDue = none ∨ T.arrRuns a false = true) :
    T.mayCalibrate a now = false := by
  rcases h with h | h <;> simp [Tile.mayCalibrate, h]

/-- The array after the GAIN step from group `g`. -/
def Arr.gained (A : Arr) (P : Part) (g : Nat) (codes : List Int) : Arr :=
  { A with
    calGain := A.calGain ++ groupsOf (Min.min 4 (512 / P.getR Reg.ARR_CFG_ROW_GROUP_LIMIT - g)) codes
    calStep := some (.gain (g + 4)) }

/-- The array with the values that its steps have yielded in effect. -/
def Arr.calTaken (A : Arr) (now round : Nat) : Arr :=
  { (A.recalibrated round).calReset with calDone := some now, doneTemp := A.calTemp, calDue := none, calEscalated := false }
theorem Arr.calEnd_fails {A : Arr} {now round : Nat} (h : A.calFails round = true) :
    A.calEnd now round = ({ A.calReset with calDue := none, calEscalated := false, suspect := true }, false) := if_pos h
theorem Arr.calEnd_takes {A : Arr} {now round : Nat} (h : A.calFails round = false) : A.calEnd now round = (A.calTaken now round, true) :=
  if_neg (by rw [h]; decide)
theorem Arr.calTaken_frame (A : Arr) (now round : Nat) : (A.calTaken now round).rows = A.rows
    ∧ (A.calTaken now round).suspect = A.suspect ∧ (A.calTaken now round).doneTemp = A.calTemp := by
  simp only [Arr.calTaken, Arr.calReset, Arr.recalibrated, and_self]
theorem Arr.off_calTaken (A : Arr) (now round : Nat) {c : Nat} (hc : c < 520) :
    Map.get 0 (A.calTaken now round).off c = Map.get 0 A.calOff c := by
  simp only [Arr.calTaken, Arr.calReset, Arr.recalibrated]
  rw [Map.get_filter_graph, if_pos (List.mem_range.2 hc)]

section
variable {T : Tile} {t a now round : Nat} {P : Part} {tj : Int} {sums diffs codes : List Int}

theorem Tile.calibrate_offset (h : (T.arr a).calStep = none) : T.calibrate t a P now round tj sums diffs codes
    = (T.modArr a fun _ => { (T.arr a).calReset with
        calStep := some .inject, calBegan := now, calTemp := tj, calOff := mapOfList sums }, []) := by
  simp only [Tile.calibrate, h]
theorem Tile.calibrate_inject (h : (T.arr a).calStep = some .inject) : T.calibrate t a P now round tj sums diffs codes
    = (T.modArr a fun _ => { T.arr a with calStep := some (.gain 0), calK := mapOfList diffs }, []) := by
  simp only [Tile.calibrate, h]

section
variable {g : Nat} (h : (T.arr a).calStep = some (.gain g))
include h

theorem Tile.calibrate_gain (hg : g + 4 < 512 / P.getR Reg.ARR_CFG_ROW_GROUP_LIMIT) : T.calibrate t a P now round tj sums diffs codes
    = (T.modArr a fun _ => (T.arr a).gained P g codes, []) := by
  simp only [Tile.calibrate, h, if_pos hg]
  rfl

variable (hg : 512 / P.getR Reg.ARR_CFG_ROW_GROUP_LIMIT ≤ g + 4)
include hg

theorem Tile.calibrate_tooLate (hl : (T.arr a).calBegan + 5000 < now) : T.calibrate t a P now round tj sums diffs codes
    = (T.modArr a fun _ => (T.arr a).calReset, []) := by
  simp only [Tile.calibrate, h, if_neg (Nat.not_lt.2 hg), if_pos hl]

variable (hl : now ≤ (T.arr a).calBegan + 5000)
include hl

theorem Tile.calibrate_last : T.calibrate t a P now round tj sums diffs codes
    = (T.modArr a fun _ => (((T.arr a).gained P g codes).calEnd now round).1,
      .free :: if (((T.arr a).gained P g codes).calEnd now round).2 then [] else [.evt Reg.ARR_ACC_EVT_CAL_FAIL, .test (.array t a)]) := by
  simp only [Tile.calibrate, h, if_neg (Nat.not_lt.2 hg), if_neg (Nat.not_lt.2 hl)]
  rfl
theorem Tile.calibrate_fails (hf : ((T.arr a).gained P g codes).calFails round = true) :
    T.calibrate t a P now round tj sums diffs codes
      = (T.modArr a fun _ => { (T.arr a).calReset with calDue := none, calEscalated := false, suspect := true },
        [.free, .evt Reg.ARR_ACC_EVT_CAL_FAIL, .test (.array t a)]) := by
  rw [Tile.calibrate_last h hg hl, Arr.calEnd_fails hf]
  rfl
theorem Tile.calibrate_takes (hf : ((T.arr a).gained P g codes).calFails round = false) :
    T.calibrate t a P now round tj sums diffs codes
      = (T.modArr a fun _ => ((T.arr a).gained P g codes).calTaken now round, [.free]) := by
  rw [Tile.calibrate_last h hg hl, Arr.calEnd_takes hf]
  rfl
end
end

/-- A column whose offset lies outside ±16 code steps fails the calibration (R92). -/
theorem Arr.calFails_of_offset {A : Arr} {round c : Nat} (hc : c < 520) (h : 256 < (Map.get 0 A.calOff c).natAbs) :
    A.calFails round = true := by
  have hany : (List.range 520).any (fun c => decide (256 < (Map.get 0 A.calOff c).natAbs) || decide (5 * Map.get 0 A.calK c < 4 * 3072)
      || decide (6 * 3072 < 5 * Map.get 0 A.calK c) || decide (A.newGain round c < 12288) || decide (20480 < A.newGain round c)) = true :=
    List.any_eq_true.2 ⟨c, List.mem_range.2 hc, by simp [h]⟩
  simp only [Arr.calFails, hany, Bool.or_true]

section
variable {s : State} {t : TileId} {a : ArrId} {sums diffs codes : List Int}

theorem exec_calibrationStep (hm : (s.m.tile t.val).mayCalibrate a.val s.m.timeUs = true) {T : Tile} {ss : List Sig}
    (h : (s.m.tile t.val).calibrate t.val a.val (s.m.ownerPart t.val) s.m.timeUs (Config.freeValue s.m.ctr) (s.m.tileTj t.val)
      sums diffs codes = (T, ss)) :
    exec (.calibrationStep t a sums diffs codes) s = .next { s with m := (s.m.setTile t.val T).sigs t.val ss } :=
  lift_act (by rw [if_pos hm, h])
theorem exec_calibrationStep_waits (hm : (s.m.tile t.val).mayCalibrate a.val s.m.timeUs = false) :
    exec (.calibrationStep t a sums diffs codes) s = .next (s.withTile t (s.m.tile t.val)) :=
  lift_act_quiet (by rw [if_neg (by rw [hm]; decide)])
end

/-! ### The obligation -/

/-- Settles O23: each command is a step of its tile, branch by branch, whose one changed array and signals are read afterwards. -/
theorem refreshAndCalibration : Obligations.RefreshAndCalibration := by
  unfold Obligations.RefreshAndCalibration
  constructor
  case left =>
    intro s t a row data checks at_ cells T A now tj lv good slot done only
    have hslot : ∀ {T' : Tile} {ss : List Sig}, T.refreshSlot t.val a.val row.val now cells = (T', ss) →
        slot = .next { s with m := (s.m.setTile t.val T').sigs t.val ss } := exec_rowRefreshSlot
    refine ⟨⟨periodAt tj, rfl, periodAt_cold, periodAt_warm, periodAt_hot, periodAt_max⟩, ?due, ?early, ?noGap, ?overdue⟩
    case due =>
      intro hf hr hp hg hl hd
      have hdue := (Tile.rowDue_iff hf).2 hd
      have hlate : T.lateness a.val row.val now = 0 := Tile.lateness_zero_iff.2 fun x hx => by
        rw [hf] at hx
        exact Option.some.inj hx ▸ hl
      have hrun := Tile.refreshSlot_runs (t := t.val) (cells := cells) hr hp hdue hg
      refine ⟨fun ⟨hc, hrest⟩ => ?good, fun hbad hn => ?first, fun hbad hm => ?second⟩
      case good =>
        exact ⟨_, hslot (hrun.trans (Tile.rowSlot_good hlate hc hrest)), rfl, Mach.arr_stepped (Arr.used_slotted _ _ _ _) _ _ _ _ _⟩
      case first =>
        exact ⟨_, hslot (hrun.trans (Tile.rowSlot_first hlate hbad hn)), rfl, Mach.arr_stepped (Arr.used_retried _ _) _ _ _ _ _⟩
      case second =>
        refine ⟨_, hslot (hrun.trans (Tile.rowSlot_second hlate hbad hm)), ?_, fun p hp => ?_,
          Mach.arr_stepped (Arr.used_of_rowTime (Map.insert_ne_nil _ _ _)) _ _ _ _ _⟩
        · exact Mach.mem_tests_sigs _ _ [_] _
        · exact Mach.flagR_sigs_evt_test (s.m.setTile t.val _) t.val hp rfl rfl _
    case early =>
      intro hf he hn
      refine hslot (Tile.refreshSlot_notDue (Bool.eq_false_iff.2 fun hd => ?_))
      rcases (Tile.rowDue_iff hf).1 hd with hd | hd
      · omega
      · exact hn hd
    case noGap => exact fun h => hslot (Tile.refreshSlot_noGap h)
    case overdue =>
      intro hf
      refine ⟨fun h => ?_, fun hr h1 h2 => exec_refreshOverdue hr (Tile.noteLate_late hf h1 h2), fun hr h => ?_⟩
      · cases hr : A.refreshes with
        | false => exact exec_refreshOverdue_not_refreshes hr
        | true => exact exec_refreshOverdue hr (Tile.noteLate_inTime hf (h.resolve_right (by rw [hr]; decide)))
      · exact ⟨_, exec_refreshOverdue hr (Tile.noteLate_lost hf h), Mach.tiles_sigs _ _ _,
          fun p hp => Mach.flagR_sig_evt (s.m.setTile t.val _) t.val hp rfl rfl⟩
  case right =>
    intro s t a sums diffs codes T A P now tj total round only step clear last isDue
    refine ⟨exec_calibrationDue_sets, exec_calibrationDue_notDue, fun d p hd he hp hl => ?forced, exec_calRestart_late,
      exec_calibrationStep_waits, Tile.mayCalibrate_false, fun hm => ?steps⟩
    case forced =>
      obtain ⟨hforced, hflag⟩ := Mach.part_sigs_evt_forced (m := s.m.setTile t.val _) hp (e := Reg.ARR_ACC_EVT_CAL_LATE) rfl rfl a.val
      exact ⟨_, exec_calEscalate_late hd he hl, Mach.tiles_sigs _ _ _, hforced, hflag⟩
    case steps =>
      refine ⟨fun h => ?offset, fun h => ?inject, fun g h hg => ?gain, fun g h hg hl => ?tooLate, fun g h hg hl hf => ?fails,
        fun g c h hc ho => Arr.calFails_of_offset hc ho, fun g h hg hl hf => ?takes⟩
      case offset => exact exec_calibrationStep hm (Tile.calibrate_offset h)
      case inject => exact exec_calibrationStep hm (Tile.calibrate_inject h)
      case gain => exact exec_calibrationStep hm (Tile.calibrate_gain h hg)
      case tooLate => exact exec_calibrationStep hm (Tile.calibrate_tooLate h hg hl)
      case fails =>
        exact ⟨_, exec_calibrationStep hm (Tile.calibrate_fails h hg hl hf), Mach.tiles_sigs _ _ _, Mach.mem_tests_sigs _ _ [_, _] _⟩
      case takes =>
        obtain ⟨hrows, hsuspect, htemp⟩ := Arr.calTaken_frame (last g) now round
        exact ⟨_, Arr.calTaken (last g) now round, exec_calibrationStep hm (Tile.calibrate_takes h hg hl hf), Mach.tiles_sigs _ _ _,
          rfl, rfl, hrows, hsuspect, rfl, htemp, fun c hc => Arr.off_calTaken (last g) now round hc⟩

end Machine
end Sys2Proof
end


section
/-! O24: outlier verification (R111, R112) and the accuracy status (R115, R119). -/
namespace Sys2Proof.Machine

/-! ### The list of an array -/

/-- Clean lines are read as they are. -/
theorem Tile.senseLines_clean {T : Tile} (t : Nat) {ls : List Nat} (h : ∀ l ∈ ls, T.found l = .clean) :
    T.senseLines t ls = (T, [], false) := by
  induction ls with
  | nil => rfl
  | cons l ls ih =>
    obtain ⟨hl, hls⟩ := List.forall_mem_cons.1 h
    have hone : T.senseLine t l = (T, [], false) := by simp only [Tile.senseLine, hl]
    simp only [Tile.senseLines, hone, ih hls, List.append_nil, Bool.or_self]

/-- The entries of the list that a directory word names. -/
def Tile.listed (T : Tile) (dir : W32) : List (Nat × Nat × Int) :=
  if dir.toNat % 512 = 0 then []
  else outlierEntries (T.readBytes (64 * (dir.toNat / 2 ^ 16 % 2 ^ 15)) (4 * (dir.toNat % 512))) (dir.toNat % 512)

/-- A list that is free to be read, whose lines are clean and whose outputs exist, gives its entries (R98, R100). -/
theorem Tile.readList_clean {T : Tile} {dir : W32} {id : Nat} {w8 : Bool} (t : Nat) (hg : (T.asOf id).listGate dir = .ok)
    (hc : ∀ l ∈ listLines dir, T.found l = .clean) (h8 : w8 = true → ∀ e ∈ T.listed dir, e.2.1 < 256) :
    T.readList t id w8 dir = (T, [], .ok (T.listed dir)) := by
  have hn : bits dir.toNat 0 9 = dir.toNat % 512 := by simp [bits]
  have hat : bits dir.toNat 16 15 = dir.toNat / 2 ^ 16 % 2 ^ 15 := rfl
  by_cases h0 : dir.toNat % 512 = 0
  · simp only [Tile.readList, Tile.listed, hn, if_pos h0]
  · have hfmt : (w8 && (T.listed dir).any fun e => decide (256 ≤ e.2.1)) = false := by
      rw [Bool.and_eq_false_imp]
      intro hw
      exact List.any_eq_false.2 fun e he => by simpa using h8 hw e he
    simp only [Tile.listed, if_neg h0] at hfmt ⊢
    simp only [Tile.readList, hn, hat, if_neg h0, hg, Tile.senseLines_clean t hc, hfmt]
    rfl

/-! ### The verification -/

theorem Tile.mayVerify_false {T : Tile} {a now : Nat} (auto : Bool) (h : (T.arr a).content = .empty ∨ now < (T.arr a).verifyAt + 30000000) :
    T.mayVerify auto a now = false := by
  rcases h with h | h
  · simp [Tile.mayVerify, Tile.verifiable, h]
  · simp [Tile.mayVerify, Nat.not_le.2 h]
theorem Tile.content_of_mayVerify {T : Tile} {auto : Bool} {a now : Nat} (h : T.mayVerify auto a now = true) :
    (T.arr a).content ≠ .empty := fun he => by
  rw [Tile.mayVerify_false auto (.inl he)] at h
  cases h

/-- An array that has been verified. -/
def Arr.verifiedAt (A : Arr) (now : Nat) : Arr := { A with power := .active, verifyAt := now, verifyCount := A.verifyCount + 1 }
theorem Arr.used_verifiedAt (A : Arr) (now : Nat) : (A.verifiedAt now).used := Arr.used_of_verifyCount (Nat.succ_ne_zero _)

/-- The tile whose array has been verified. -/
def Tile.seen (T : Tile) (a now : Nat) : Tile :=
  (T.wakeArrs [a]).modArr a fun A => { A with verifyAt := now, verifyCount := A.verifyCount + 1 }

section
variable {T : Tile} {a : Nat}

theorem Tile.arr_seen (h : (T.arr a).content ≠ .empty) (now : Nat) : (T.seen a now).arr a = (T.arr a).verifiedAt now := by
  have hwake : (T.wakeArrs [a]).arr a = { T.arr a with power := .active } :=
    Tile.arr_modArr_listed fun e => h (congrArg Arr.content e)
  have hne : ((T.arr a).verifiedAt now) ≠ {} := (Arr.used_verifiedAt _ now).ne_default
  rw [Tile.seen, Tile.arr_modArr_listed (by rw [hwake]; exact hne), hwake]
  rfl
theorem Tile.arr_seen_other (now : Nat) {b : Nat} (h : b ≠ a) : (T.seen a now).arr b = T.arr b :=
  (Tile.arr_modArr_other h).trans (Tile.arr_modArr_other h)
end

/-- The event of an array out of its bound (R115). -/
def Mach.boundSigs (m : Mach) (t a : Nat) (A : Arr) : List Sig := if m.arrInBound t a A then [] else [.evt Reg.ARR_ACC_EVT_BEYOND_BOUND]

/-- The verification pass of the array agrees with the exact outputs (R112). -/
def Tile.agrees (x : ACtx) (T : Tile) (a : Nat) (senses : List RowSense) : Bool :=
  let G := x.part.getR Reg.ARR_CFG_ROW_GROUP_LIMIT
  (T.arr a).verified x.part (x.m.convCtx x.t a G (T.arr a)) G (verifySegment x.t a (T.arr a).verifyCount)
    (T.listed (Map.get 0 T.grout a)) senses

section
variable {x : ACtx} {T : Tile} {a : Nat} (senses : List RowSense)

theorem Tile.verify_waits (h : T.mayVerify (x.part.flagR Reg.ARR_CFG_AUTO_WAKE) a x.m.timeUs = false) :
    T.verify x a senses = (T, []) := by simp [Tile.verify, h]

theorem Tile.verify_reads (hm : T.mayVerify (x.part.flagR Reg.ARR_CFG_AUTO_WAKE) a x.m.timeUs = true)
    (hg : T.listGate (Map.get 0 T.grout a) = .ok)
    (hr : T.readList x.t T.nextId (T.arr a).w8 (Map.get 0 T.grout a) = (T, [], .ok (T.listed (Map.get 0 T.grout a)))) :
    T.verify x a senses = if T.agrees x a senses then (T.seen a x.m.timeUs, x.m.boundSigs x.t a (T.arr a) ++ [Sig.free])
      else ((T.seen a x.m.timeUs).modArr a fun A => { A with suspect := true },
        x.m.boundSigs x.t a (T.arr a) ++ [Sig.free, Sig.evt Reg.ARR_ACC_EVT_VERIFY_FAIL] ++ [Sig.test (TestUnit.array x.t a)]) := by
  have hgo : (!true || Gate.ok == Gate.wait) = false := rfl
  simp only [Tile.verify, hm, hg, hr, hgo, Bool.false_eq_true, if_false, Tile.agrees, Tile.seen, Mach.boundSigs, List.nil_append,
    List.append_assoc, List.cons_append]
end

theorem exec_outlierVerification {s : State} {t : TileId} {a : ArrId} {phys : ArrPhys} {T : Tile} {ss : List Sig}
    (h : (s.m.tile t.val).verify ⟨s.m, t.val⟩ a.val phys.senses = (T, ss)) :
    exec (.outlierVerification t a phys) s = .next { s with m := (s.m.setTile t.val T).sigs t.val ss } :=
  lift_act (f := fun T => T.verify ⟨s.m, t.val⟩ a.val phys.senses) h

theorem Mach.tests_sigs_boundSigs (m n : Mach) (t u a : Nat) (A : Arr) : (m.sigs t (n.boundSigs u a A ++ [.free])).tests = m.tests := by
  unfold Mach.boundSigs
  split
  · rfl
  · exact Mach.sig_evt_tests m t _

/-! ### Register fields that an event of a partition leaves alone -/

/-- The fields other than the two that an event or a sealed record may set. -/
abbrev Fld.eventFree (f : Fld) : Prop := f.key ≠ Reg.SERVE_EVT_EQ_LOST.key ∧ f.key ≠ Reg.PART_EVT_NONCE_LIMIT.key

section
variable {f : Fld} (hf : f.eventFree)
include hf

theorem Part.getR_seal (P : Part) (cls idx len : Nat) : (P.seal cls idx len).1.getR f = P.getR f := by
  unfold Part.seal
  split
  · dsimp only
    split
    · exact Part.getR_setR_other hf.2 P 1
    · rfl
  · rfl
theorem Part.getR_event (P : Part) (c : HCtx) (code a0 a1 : Nat) : (P.event c code a0 a1).1.getR f = P.getR f := by
  unfold Part.event
  dsimp only
  split
  · exact Part.getR_setR_other hf.1 P 1
  split
  · exact Part.getR_seal hf P _ _ _
  · rfl
end

/-! ### Alerts for arrays in age class Beyond (R84) -/

/-- From `m` to `n` tiles and pallets stay, and so does what a SEALED partition holds in the fields that events leave alone. -/
structure Mach.Alerted (p : PartId) (m n : Mach) : Prop where
  tiles : n.tiles = m.tiles
  pallets : n.pallets = m.pallets
  getR : (m.part p.val).isSealed = true → ∀ f : Fld, f.eventFree → (n.part p.val).getR f = (m.part p.val).getR f

theorem eventFree_state : Reg.PART_STATUS_STATE.eventFree := by decide

theorem Part.ne_reset_of_isSealed {P : Part} (h : P.isSealed = true) : P ≠ {} := fun e => by
  rw [e] at h
  exact absurd h (by decide)
theorem Part.isSealed_congr {P Q : Part} (h : Q.getR Reg.PART_STATUS_STATE = P.getR Reg.PART_STATUS_STATE) : Q.isSealed = P.isSealed := by
  rw [Part.isSealed, Part.isSealed, Part.state, Part.state, h]

section
variable {p : PartId} {m n k : Mach}

theorem Mach.Alerted.refl (p : PartId) (m : Mach) : Mach.Alerted p m m := ⟨rfl, rfl, fun _ _ _ => rfl⟩
theorem Mach.Alerted.trans (h : Mach.Alerted p m n) (h' : Mach.Alerted p n k) : Mach.Alerted p m k := by
  refine ⟨h'.tiles.trans h.tiles, h'.pallets.trans h.pallets, fun hs f hf => ?_⟩
  have hsn : (n.part p.val).isSealed = true := (Part.isSealed_congr (h.getR hs _ eventFree_state)).trans hs
  exact (h'.getR hsn f hf).trans (h.getR hs f hf)

theorem Mach.alerted_onPart {m : Mach} {q : PartId} {f : HCtx → Part → PRes}
    (h : ∀ g : Fld, g.eventFree → (f (m.hctx q) (m.part q.val)).1.getR g = (m.part q.val).getR g) (p : PartId) :
    Mach.Alerted p m (m.onPart q f) := by
  obtain ⟨htiles, hpallets, -, -, -, -, -, -, hother⟩ := Mach.onPart_frame m q f
  refine ⟨htiles, hpallets, fun hs g hg => ?_⟩
  by_cases hq : p.val = q.val
  · obtain rfl : p = q := Fin.ext hq
    have hsealed : ({ (f (m.hctx p) (m.part p.val)).1 with faultEnds := 0 } : Part).isSealed = true :=
      (Part.isSealed_congr (h _ eventFree_state)).trans hs
    have hpart : (m.onPart p f).part p.val = { (f (m.hctx p) (m.part p.val)).1 with faultEnds := 0 } :=
      Map.get_set_listed (Part.ne_reset_of_isSealed hsealed) m.parts p.val
    rw [hpart]
    exact h g hg
  · exact congrArg (Part.getR · g) (hother p.val hq)
theorem Mach.alerted_eventTo (m : Mach) (p q : PartId) (code a0 a1 : Nat) : Mach.Alerted p m (m.eventTo q code a0 a1) :=
  Mach.alerted_onPart (fun _ hg => Part.getR_event hg _ _ _ _ _) p

theorem Mach.alerted_alert (m : Mach) (p : PartId) (unit : W64) : Mach.Alerted p m (m.alert 3 unit) := by
  have hout : Mach.Alerted p m { m.evt Reg.SVC_EVT_ALERT with out := m.out ++ [.alert 3 unit] } := ⟨rfl, rfl, fun _ _ _ => rfl⟩
  refine hout.trans ?_
  simp only [Mach.alert, Mach.eventPallet, Nat.le_refl, if_true]
  split
  · exact Mach.alerted_eventTo _ p _ _ _ _
  · exact Mach.Alerted.refl p _

theorem Mach.alerted_alertBeyond (m : Mach) (p : PartId) : Mach.Alerted p m m.alertBeyond := by
  unfold Mach.alertBeyond
  generalize m.beyondKeys = ks
  induction ks generalizing m with
  | nil => exact Mach.Alerted.refl p m
  | cons k ks ih =>
    rw [List.foldl_cons]
    refine Mach.Alerted.trans ?_ (ih _)
    split
    · exact Mach.Alerted.refl p m
    · have hwear : Mach.Alerted p m { m with wear := { m.wear with beyond := m.wear.beyond ++ [wearUnit k] } } :=
        ⟨rfl, rfl, fun _ _ _ => rfl⟩
      exact hwear.trans (Mach.alerted_alert _ p _)
end

/-! ### The accuracy status (R119) -/

/-- The fields of ARR_ACC_STATUS written. -/
def Part.accFields (P : Part) (tj suspect age : Nat) (inb : Bool) : Part :=
  ((((P.setR Reg.ARR_ACC_STATUS_TJ_MAX tj).setR Reg.ARR_ACC_STATUS_SUSPECT_TILES suspect).setR
    Reg.ARR_ACC_STATUS_AGE_CLASS age).setR Reg.ARR_ACC_STATUS_DIGITAL_ACTIVE (P.getR Reg.ARR_MODE_DIGITAL)).setR
    Reg.ARR_ACC_STATUS_IN_BOUND (b2n inb)
/-- The partition after an update of its accuracy status. -/
def Part.accUpdated (P : Part) (tj suspect age : Nat) (inb : Bool) : Part :=
  if inb then P.accFields tj suspect age inb else (P.accFields tj suspect age inb).evt Reg.ARR_ACC_EVT_BEYOND_BOUND

theorem Part.flagR_iff {P : Part} {f : Fld} : P.flagR f = true ↔ P.getR f = 1 := beq_iff_eq
theorem b2n_eq_one {b : Bool} : b2n b = 1 ↔ b = true := by cases b <;> decide

theorem Part.regsOk.setR {P : Part} (h : P.regsOk) (f : Fld) (v : Nat) : (P.setR f v).regsOk := RegFile.sorted_set h f v

section
variable {P : Part} {tj suspect age : Nat} {inb : Bool}

theorem Part.getR_accUpdated {f : Fld} (h : f.key ≠ Reg.ARR_ACC_EVT_BEYOND_BOUND.key) :
    (P.accUpdated tj suspect age inb).getR f = (P.accFields tj suspect age inb).getR f := by
  cases inb with
  | true => rfl
  | false => exact Part.getR_setR_other h _ 1

theorem Part.isSealed_accUpdated (h : P.isSealed = true) : (P.accUpdated tj suspect age inb).isSealed = true := by
  refine (Part.isSealed_congr ?_).trans h
  rw [Part.getR_accUpdated (by decide)]
  simp (disch := decide) only [Part.accFields, Part.getR_setR_other]

theorem Part.beyondBound_accUpdated : (P.accUpdated tj suspect age false).getR Reg.ARR_ACC_EVT_BEYOND_BOUND = 1 :=
  Part.getR_evt_same _ rfl rfl

variable (h : P.regsOk)
include h

theorem Part.tjMax_accUpdated : (P.accUpdated tj suspect age inb).getR Reg.ARR_ACC_STATUS_TJ_MAX = tj % 2 ^ 8 := by
  rw [Part.getR_accUpdated (by decide)]
  simp (disch := decide) only [Part.accFields, Part.getR_setR_other]
  exact Part.getR_setR_same h _ tj
theorem Part.suspectTiles_accUpdated :
    (P.accUpdated tj suspect age inb).getR Reg.ARR_ACC_STATUS_SUSPECT_TILES = suspect % 2 ^ 8 := by
  rw [Part.getR_accUpdated (by decide)]
  simp (disch := decide) only [Part.accFields, Part.getR_setR_other]
  exact Part.getR_setR_same (h.setR _ _) _ suspect
theorem Part.inBound_accUpdated : (P.accUpdated tj suspect age inb).getR Reg.ARR_ACC_STATUS_IN_BOUND = b2n inb := by
  have hset := Part.getR_setR_same ((((h.setR Reg.ARR_ACC_STATUS_TJ_MAX tj).setR Reg.ARR_ACC_STATUS_SUSPECT_TILES suspect).setR
    Reg.ARR_ACC_STATUS_AGE_CLASS age).setR Reg.ARR_ACC_STATUS_DIGITAL_ACTIVE (P.getR Reg.ARR_MODE_DIGITAL))
    Reg.ARR_ACC_STATUS_IN_BOUND (b2n inb)
  rw [Part.getR_accUpdated (by decide)]
  exact hset.trans (by cases inb <;> rfl)
end

theorem foldl_max_of_le {l : List Int} {v : Int} (h : ∀ w ∈ l, w ≤ v) : l.foldl max v = v := by
  induction l with
  | nil => rfl
  | cons w l ih =>
    obtain ⟨hw, hl⟩ := List.forall_mem_cons.1 h
    rw [List.foldl_cons, max_eq_left hw, ih hl]
/-- The fold of `max` gives the largest entry, where the start is no larger. -/
theorem foldl_max_eq {l : List Int} {v : Int} (hv : v ∈ l) (hmax : ∀ w ∈ l, w ≤ v) {i : Int} (hi : i ≤ v) : l.foldl max i = v := by
  induction l generalizing i with
  | nil => cases hv
  | cons w l ih =>
    obtain ⟨hw, hl⟩ := List.forall_mem_cons.1 hmax
    rw [List.foldl_cons]
    rcases List.mem_cons.1 hv with rfl | hv
    · rw [max_eq_right hi, foldl_max_of_le hl]
    · exact ih hv hl (max_le hi hw)

section
variable (m : Mach) (p : PartId)

/-- Tiles of a partition with a suspect array (R119). -/
def Mach.suspectTiles : Nat := ((m.tilesOf p.val).filter fun t => (m.tile t).arrs.any fun e => e.2.suspect).length
/-- The highest junction temperature of a partition's pallets, not below 0 (R119; log entry 84). -/
def Mach.tjMax : Int := ((m.palletsOf p.val).map fun i => (m.pallet i).tj).foldl max 0
/-- Every programmed array of a partition is in its bound (R119). -/
def Mach.allInBound : Bool := (m.programmedArrs p.val).all fun x => m.arrInBound x.1 x.2 ((m.tile x.1).arr x.2)

/-- ACC_STATUS_UPDATE of a SEALED partition: its status is written, then alerts are raised. -/
theorem exec_accStatusUpdate {s : State} (hs : (s.m.part p.val).isSealed = true) : ∃ age m1, exec (.accStatusUpdate p) s = .next { s with m := m1 }
    ∧ m1.tiles = s.m.tiles ∧ m1.pallets = s.m.pallets
    ∧ ∀ f : Fld, f.eventFree → (m1.part p.val).getR f
      = ((s.m.part p.val).accUpdated (s.m.tjMax p).toNat (Nat.min (s.m.suspectTiles p) 255) age (s.m.allInBound p)).getR f := by
  have hage : ∃ age, s.m.accStatus p.val = s.m.setPart p.val
      ((s.m.part p.val).accUpdated (s.m.tjMax p).toNat (Nat.min (s.m.suspectTiles p) 255) age (s.m.allInBound p)) := ⟨_, rfl⟩
  obtain ⟨age, hacc⟩ := hage
  have hsealed := Part.isSealed_accUpdated (tj := (s.m.tjMax p).toNat) (suspect := Nat.min (s.m.suspectTiles p) 255) (age := age)
    (inb := s.m.allInBound p) hs
  have hpart := Mach.part_setPart_listed (Part.ne_reset_of_isSealed hsealed) s.m p.val
  have halert := (s.m.accStatus p.val).alerted_alertBeyond p
  have htiles : (s.m.accStatus p.val).tiles = s.m.tiles := Mach.modPart_tiles _ _ _
  have hpallets : (s.m.accStatus p.val).pallets = s.m.pallets := Mach.modPart_pallets _ _ _
  have hkeep := halert.getR
  rw [hacc, hpart] at hkeep
  refine ⟨age, (s.m.accStatus p.val).alertBeyond, ?_, halert.tiles.trans htiles, halert.pallets.trans hpallets, ?_⟩
  · show execAccStatusUpdate p s = _
    simp only [execAccStatusUpdate, lift_next, hs, if_true]
  · rw [hacc]
    exact hkeep hsealed
end

/-! ### The obligation -/

/-- Settles O24: the verification is one step of the tile, read by cases of its agreement; the status is the update of the partition's
fields, which the alerts that follow leave alone. -/
theorem verificationAndStatus : Obligations.VerificationAndStatus := by
  unfold Obligations.VerificationAndStatus
  intro s t a phys p T A P G dir n es may agrees seen
  refine ⟨fun hm hg hga hc h8 => ?verifies, fun hm => exec_outlierVerification (Tile.verify_waits phys.senses hm),
    Tile.mayVerify_false _, fun hs hr => ?status⟩
  case verifies =>
    have hread : T.readList t.val T.nextId A.w8 dir = (T, [], .ok (T.listed dir)) := Tile.readList_clean t.val hga hc h8
    have hver := Tile.verify_reads (x := ⟨s.m, t.val⟩) phys.senses hm hg hread
    have hseen : (T.seen a.val s.m.timeUs).arr a.val = seen := Tile.arr_seen (Tile.content_of_mayVerify hm) _
    have hused : seen.used := Arr.used_verifiedAt A _
    by_cases hag : agrees = true
    · rw [if_pos (show T.agrees ⟨s.m, t.val⟩ a.val phys.senses = true from hag)] at hver
      have htile := fun ss => Mach.tile_stepped (hseen ▸ hused) s.m t.val ss
      refine ⟨_, exec_outlierVerification hver, fun b hb => ?_, ?_⟩
      · rw [htile]; exact Tile.arr_seen_other _ hb
      · rw [if_pos hag, htile]
        exact ⟨Mach.tests_sigs_boundSigs _ _ _ _ _ _, hseen⟩
    · rw [if_neg (show ¬T.agrees ⟨s.m, t.val⟩ a.val phys.senses = true from hag)] at hver
      have hbad : ((T.seen a.val s.m.timeUs).modArr a.val fun A => { A with suspect := true }).arr a.val
          = { seen with suspect := true } := by
        rw [Tile.arr_modArr_listed fun e => Bool.noConfusion (congrArg Arr.suspect e : true = false), hseen]
      have hbadUsed : ({ seen with suspect := true } : Arr).used := Arr.used_of_verifyCount (Nat.succ_ne_zero _)
      have htile := fun ss => Mach.tile_stepped (hbad ▸ hbadUsed) s.m t.val ss
      refine ⟨_, exec_outlierVerification hver, fun b hb => ?_, ?_⟩
      · rw [htile]; exact (Tile.arr_modArr_other hb).trans (Tile.arr_seen_other _ hb)
      · rw [if_neg hag, htile]
        exact ⟨Mach.mem_tests_sigs _ _ _ _, hbad⟩
  case status =>
    obtain ⟨age, m1, hx, htiles, hpallets, hget⟩ := exec_accStatusUpdate p hs
    have hbound : (m1.part p.val).flagR Reg.ARR_ACC_STATUS_IN_BOUND = true ↔ s.m.allInBound p = true := by
      rw [Part.flagR_iff, hget _ (by decide), Part.inBound_accUpdated hr, b2n_eq_one]
    refine ⟨_, hx, htiles, hpallets, ?suspects, hbound.trans List.all_eq_true, fun hout => ?beyond, fun i hi h0 h255 hmax => ?hottest⟩
    case suspects =>
      rw [hget _ (by decide), Part.suspectTiles_accUpdated hr]
      exact Nat.mod_eq_of_lt (Nat.lt_succ_of_le (Nat.min_le_right _ _))
    case beyond =>
      have hnot : s.m.allInBound p = false := Bool.eq_false_iff.2 fun hin => by
        rw [hbound.2 hin] at hout
        cases hout
      rw [Part.flagR_iff, hget _ (by decide), hnot, Part.beyondBound_accUpdated]
    case hottest =>
      have htj : s.m.tjMax p = (s.m.pallet i).tj :=
        foldl_max_eq (List.mem_map_of_mem hi) (fun w hw => by obtain ⟨j, hj, rfl⟩ := List.mem_map.1 hw; exact hmax j hj) h0
      rw [hget _ (by decide), Part.tjMax_accUpdated hr, htj]
      exact Nat.mod_eq_of_lt (by omega)

end Sys2Proof.Machine
end

section
/-! The issue of a tile instruction: what its body leaves of the tile, what it signals, and the exceptions it raises (R122, R158, R189). -/
namespace Sys2Proof.Machine

/-- A lifted step of a tile, whose rule may look at the module. -/
theorem lift_act_mach {s : State} {t : TileId} {f : Mach → Tile → TRes} {T : Tile} {ss : List Sig} (h : f s.m (s.m.tile t.val) = (T, ss)) :
    lift (fun m => m.act t.val (f m)) s = .next { s with m := (s.m.setTile t.val T).sigs t.val ss } := by
  simp only [lift_next, Mach.act_eq, h]

theorem Tile.recordExc_first {T : Tile} (hrun : T.run = .running) (hnone : T.excCause = none) (c : Cause) (pc : Nat) (info : W64) :
    T.recordExc c pc info = { T with run := .excepted, excCause := some c, excPc := pc, excInfo := info } := by
  simp [Tile.recordExc, hnone, hrun, CoreRun.except]

/-- A step whose tile is the record of a first exception is trapped, whatever else it signals. -/
theorem lift_act_traps {s : State} {t : TileId} {f : Mach → Tile → TRes} {c : Cause} {info : W64} {ss : List Sig}
    (hrun : (s.m.tile t.val).run = .running) (hnone : (s.m.tile t.val).excCause = none)
    (h : f s.m (s.m.tile t.val) = ((s.m.tile t.val).recordExc c (s.m.tile t.val).pc info, ss)) :
    ∃ s', lift (fun m => m.act t.val (f m)) s = .next s' ∧ s'.pending = s.pending ∧ s.m.trapped s'.m t c info := by
  refine ⟨_, lift_act_mach h, rfl, ?_⟩
  obtain ⟨htiles, -⟩ := Mach.sigs_frame ss (s.m.setTile t.val ((s.m.tile t.val).recordExc c (s.m.tile t.val).pc info)) t.val
  rw [Mach.trapped, ← Tile.recordExc_first hrun hnone]
  exact htiles

/-- What is said of a trapped step without its queue. -/
theorem trapped_of_pending {s : State} {o : Host.Outcome State Fault Refusal} {P : State → Prop}
    (h : ∃ s', o = .next s' ∧ s'.pending = s.pending ∧ P s') : ∃ s', o = .next s' ∧ P s' := by
  obtain ⟨s', ho, -, hP⟩ := h
  exact ⟨s', ho, hP⟩

section
variable {s : State} {t : TileId} {regs : List RegNo} (hi : s.m.issues t regs) {rs : List Nat} (hr : ∀ r ∈ rs, ∃ q ∈ regs, q.val = r)
  {body : Mach → Tile → TRes}
include hi hr

theorem issue_next {T' : Tile} {ss : List Sig} (hb : body s.m (s.m.tile t.val) = (T', ss)) :
    lift (fun m => m.act t.val fun T => T.issue t.val rs (body m)) s = .next { s with m := (s.m.setTile t.val T').sigs t.val ss } :=
  lift_act_mach (f := fun m T => T.issue t.val rs (body m)) ((Tile.issue_runs hi rs hr _).trans hb)

theorem issue_quiet {T' : Tile} (hb : body s.m (s.m.tile t.val) = (T', [])) :
    lift (fun m => m.act t.val fun T => T.issue t.val rs (body m)) s = .next (s.withTile t T') := issue_next hi hr hb

theorem issue_traps (hnone : (s.m.tile t.val).excCause = none) {c : Cause} {info : W64} {ss : List Sig}
    (hb : body s.m (s.m.tile t.val) = ((s.m.tile t.val).recordExc c (s.m.tile t.val).pc info, ss)) :
    ∃ s', lift (fun m => m.act t.val fun T => T.issue t.val rs (body m)) s = .next s' ∧ s'.pending = s.pending
      ∧ s.m.trapped s'.m t c info := by
  obtain ⟨hrun, -⟩ := id hi
  exact lift_act_traps (f := fun m T => T.issue t.val rs (body m)) hrun hnone ((Tile.issue_runs hi rs hr _).trans hb)
end

/-! ### A register and the program counter -/

/-- The tile with xd written and the next instruction to come: a write to x0 is discarded (R158). -/
def Tile.wrote (T : Tile) (d : Nat) (v : W64) : Tile := { T with pc := T.pc + 4, x := if d = 0 then T.x else Map.set 0 T.x d v }

theorem Tile.advance_setX (T : Tile) (d : Nat) (v : W64) : (T.setX d v).advance = T.wrote d v := by
  unfold Tile.setX Tile.advance Tile.wrote
  split <;> rfl

end Sys2Proof.Machine
end

section
/-! The control core's arithmetic: register-to-register and immediate instructions, and division (R158, R162 to R164, R193). -/
namespace Sys2Proof.Machine

/-! ### The shapes of the instructions -/

section
variable {s : State} {t : TileId} {d a b : RegNo}

theorem aluR_next (hi : s.m.issues t [d, a, b]) (f : W64 → W64 → W64) :
    aluR t d a b f s = .next (s.withTile t ((s.m.tile t.val).wrote d.val (f ((s.m.tile t.val).getX a.val) ((s.m.tile t.val).getX b.val)))) :=
  issue_quiet hi (by simp) (congrArg (·, []) (Tile.advance_setX _ _ _))

theorem aluI_next (hi : s.m.issues t [d, a]) (f : W64 → W64) :
    aluI t d a f s = .next (s.withTile t ((s.m.tile t.val).wrote d.val (f ((s.m.tile t.val).getX a.val)))) :=
  issue_quiet hi (by simp) (congrArg (·, []) (Tile.advance_setX _ _ _))

theorem aluU_next (hi : s.m.issues t [d, a, b]) (hb : b.val = 0) (fn : Nat) (f : W64 → W64) :
    aluU t d a b fn f s = .next (s.withTile t ((s.m.tile t.val).wrote d.val (f ((s.m.tile t.val).getX a.val)))) :=
  issue_quiet hi (by simp) ((if_neg (not_not.2 hb)).trans (congrArg (·, []) (Tile.advance_setX _ _ _)))

/-- R159: the field b of a function of one operand names no register. -/
theorem aluU_traps (hi : s.m.issues t [d, a, b]) (hb : b.val ≠ 0) (hnone : (s.m.tile t.val).excCause = none) (fn : Nat) (f : W64 → W64) :
    ∃ s', aluU t d a b fn f s = .next s' ∧ s'.pending = s.pending
      ∧ s.m.trapped s'.m t .illegal (encR 0x01 d.val a.val b.val fn) :=
  issue_traps hi (by simp) hnone (if_pos hb)

theorem divOp_next (hi : s.m.issues t [d, a, b]) (hc : (s.m.ownerPart t.val).compat = false) (f : W64 → W64 → W64) :
    divOp t d a b f s = .next (s.withTile t ((s.m.tile t.val).wrote d.val (f ((s.m.tile t.val).getX a.val) ((s.m.tile t.val).getX b.val)))) := by
  have hok : ¬((s.m.tile t.val).getX b.val = 0 ∧ (s.m.ownerPart t.val).compat = true) := by simp [hc]
  exact issue_quiet hi (by simp) ((if_neg hok).trans (congrArg (·, []) (Tile.advance_setX _ _ _)))

theorem limm_next (hi : s.m.issues t [d, a]) (ha : a.val < 4) (imm : W16) :
    execLimm t d a imm s = .next (s.withTile t ((s.m.tile t.val).wrote d.val (limmField ((s.m.tile t.val).getX d.val) a.val imm))) :=
  issue_quiet hi (by simp) ((if_neg (not_le.2 ha)).trans (congrArg (·, []) (Tile.advance_setX _ _ _)))

/-- R193: a zero divisor under COMPAT_G1. -/
theorem divOp_traps (hi : s.m.issues t [d, a, b]) (hc : (s.m.ownerPart t.val).compat = true) (hz : (s.m.tile t.val).getX b.val = 0)
    (hnone : (s.m.tile t.val).excCause = none) (f : W64 → W64 → W64) :
    ∃ s', divOp t d a b f s = .next s' ∧ s'.pending = s.pending
      ∧ s.m.trapped s'.m t .divZero (BitVec.ofNat 64 (Config.freeValue s.m.ctr)) :=
  issue_traps hi (by simp) hnone (if_pos ⟨hz, hc⟩)
end

/-! ### Values -/

section
variable (x y : W64)

theorem eq_ofInt_of_toInt {v : W64} {z : Int} (h : v.toInt = z.bmod (2 ^ 64)) : v = BitVec.ofInt 64 z :=
  BitVec.eq_of_toInt_eq (h.trans (BitVec.toInt_ofInt z).symm)

theorem sub_eq_ofInt : x - y = BitVec.ofInt 64 (x.toInt - y.toInt) := eq_ofInt_of_toInt BitVec.toInt_sub

theorem mul_eq_ofNat : x * y = BitVec.ofNat 64 (x.toNat * y.toNat) := BitVec.eq_of_toNat_eq (by simp)

theorem shl64_eq : shl64 x y = BitVec.ofNat 64 (x.toNat * 2 ^ (y.toNat % 64)) :=
  BitVec.eq_of_toNat_eq (by simp [shl64, Nat.shiftLeft_eq])
theorem shr64_eq : shr64 x y = BitVec.ofNat 64 (x.toNat / 2 ^ (y.toNat % 64)) := by
  have h : x.toNat / 2 ^ (y.toNat % 64) < 2 ^ 64 := (Nat.div_le_self _ _).trans_lt x.isLt
  refine BitVec.eq_of_toNat_eq ?_
  rw [BitVec.toNat_ofNat, Nat.mod_eq_of_lt h, shr64, BitVec.toNat_ushiftRight, Nat.shiftRight_eq_div_pow]
theorem sar64_eq : sar64 x y = BitVec.ofInt 64 (x.toInt / 2 ^ (y.toNat % 64)) := by
  rw [sar64, BitVec.sshiftRight_eq, Int.shiftRight_eq_div_pow]
  norm_cast

theorem boolW_slt : boolW (x.slt y) = if x.toInt < y.toInt then 1 else 0 := by simp [boolW, BitVec.slt_eq_decide]
theorem boolW_ult : boolW (x.ult y) = if x.toNat < y.toNat then 1 else 0 := by simp [boolW, BitVec.ult]

theorem min_slt : (if x.slt y then x else y) = BitVec.ofInt 64 (min x.toInt y.toInt) := by
  by_cases h : x.toInt < y.toInt
  · simp [BitVec.slt_eq_decide, h, min_eq_left h.le]
  · simp [BitVec.slt_eq_decide, h, min_eq_right (not_lt.1 h)]
theorem max_slt : (if x.slt y then y else x) = BitVec.ofInt 64 (max x.toInt y.toInt) := by
  by_cases h : x.toInt < y.toInt
  · simp [BitVec.slt_eq_decide, h, max_eq_right h.le]
  · simp [BitVec.slt_eq_decide, h, max_eq_left (not_lt.1 h)]
theorem min_ult : (if x.ult y then x else y) = BitVec.ofNat 64 (min x.toNat y.toNat) := by
  by_cases h : x.toNat < y.toNat
  · simp [BitVec.ult, h, min_eq_left h.le]
  · simp [BitVec.ult, h, min_eq_right (not_lt.1 h)]
theorem max_ult : (if x.ult y then y else x) = BitVec.ofNat 64 (max x.toNat y.toNat) := by
  by_cases h : x.toNat < y.toNat
  · simp [BitVec.ult, h, max_eq_right h.le]
  · simp [BitVec.ult, h, max_eq_left (not_lt.1 h)]

theorem div64_eq : div64 x y = if y = 0 then -1 else BitVec.ofInt 64 (x.toInt.tdiv y.toInt) := by
  unfold div64
  split
  · rfl
  · exact eq_ofInt_of_toInt (BitVec.toInt_sdiv x y)
theorem rem64_eq : rem64 x y = if y = 0 then x else BitVec.ofInt 64 (x.toInt.tmod y.toInt) := by
  rw [rem64, ← BitVec.toInt_srem, BitVec.ofInt_toInt]
theorem divu64_eq : divu64 x y = if y = 0 then -1 else BitVec.ofNat 64 (x.toNat / y.toNat) := by
  rw [divu64, BitVec.udiv_def]
  rfl
theorem remu64_eq : remu64 x y = if y = 0 then x else BitVec.ofNat 64 (x.toNat % y.toNat) := by
  rw [remu64, BitVec.umod_def]

/-- The highest bit set of a word that is not zero. -/
theorem clz64_spec : ∃ n : Nat, n ≤ 64 ∧ x.toNat < 2 ^ (64 - n) ∧ (n < 64 → 2 ^ (63 - n) ≤ x.toNat) ∧ clz64 x = BitVec.ofNat 64 n := by
  by_cases hx : x = 0
  · exact ⟨64, le_rfl, by simp [hx], fun h => absurd h (lt_irrefl _), by simp [clz64, hx]⟩
  · have hne : x.toNat ≠ 0 := fun e => hx (BitVec.eq_of_toNat_eq e)
    have hlog : Nat.log2 x.toNat < 64 := (Nat.log2_lt hne).2 x.isLt
    have hsucc : 64 - (63 - Nat.log2 x.toNat) = Nat.log2 x.toNat + 1 := by omega
    have hsame : 63 - (63 - Nat.log2 x.toNat) = Nat.log2 x.toNat := by omega
    refine ⟨63 - Nat.log2 x.toNat, by omega, ?_, fun _ => ?_, if_neg hx⟩
    · rw [hsucc]; exact Nat.lt_log2_self
    · rw [hsame]; exact Nat.log2_self_le hne
end

theorem sx_eq {w : Nat} (hw : w ≤ 64) (b : BitVec w) : sx b = BitVec.ofInt 64 b.toInt := by
  rw [← BitVec.toInt_signExtend_of_le hw, BitVec.ofInt_toInt]; rfl

theorem limmField_getLsbD (v : W64) (p : Nat) (imm : W16) (i : Nat) (hi : i < 64) :
    (limmField v p imm).getLsbD i = if 16 * p ≤ i ∧ i < 16 * p + 16 then imm.getLsbD (i - 16 * p) else v.getLsbD i := by
  have hmask : (0xFFFF : W64).getLsbD (i - 16 * p) = decide (i - 16 * p < 16) := by
    have h : (0xFFFF : W64) = (BitVec.allOnes 16).setWidth 64 := by decide
    rw [h, BitVec.getLsbD_setWidth, BitVec.getLsbD_allOnes]
    have : i - 16 * p < 64 := by omega
    simp [this]
  have hbit : (limmField v p imm).getLsbD i
      = (v.getLsbD i && !(!decide (i < 16 * p) && decide (i - 16 * p < 16)) || !decide (i < 16 * p) && imm.getLsbD (i - 16 * p)) := by
    have : i - 16 * p < 64 := by omega
    simp only [limmField, BitVec.getLsbD_or, BitVec.getLsbD_and, BitVec.getLsbD_not, BitVec.getLsbD_shiftLeft, hmask, BitVec.getLsbD_setWidth]
    simp [hi, this]
  rw [hbit]
  by_cases hlo : 16 * p ≤ i
  · have hge : ¬(i < 16 * p) := not_lt.2 hlo
    by_cases hhi : i < 16 * p + 16
    · have : i - 16 * p < 16 := by omega
      simp [hlo, hge, hhi, this]
    · have h16 : ¬(i - 16 * p < 16) := by omega
      have hout : imm.getLsbD (i - 16 * p) = false := BitVec.getLsbD_of_ge _ _ (not_lt.1 h16)
      simp [hlo, hge, hhi, h16, hout]
  · simp [hlo, not_le.1 hlo]

/-! ### The obligations -/

/-- Settles O1: each row of R162 is one of the shapes above, and its function the table's. -/
theorem scalarAlu : Obligations.ScalarAlu := by
  unfold Obligations.ScalarAlu
  refine ⟨fun s t d a b hi => ?rows, fun s t d a b hi hd => ⟨fun hb => ?counts, fun hb hnone c hc => ?illegal⟩⟩
  case rows =>
    intro T x y wr
    have row : ∀ (f : W64 → W64 → W64) {v : W64}, f x y = v → aluR t d a b f s = wr v := fun f _ h => h ▸ aluR_next hi f
    exact ⟨row (· + ·) (BitVec.add_def x y), row (· - ·) (sub_eq_ofInt x y), row (· &&& ·) rfl, row (· ||| ·) rfl, row (· ^^^ ·) rfl,
      row shl64 (shl64_eq x y), row shr64 (shr64_eq x y), row sar64 (sar64_eq x y),
      row (fun a b => boolW (a.slt b)) (boolW_slt x y), row (fun a b => boolW (a.ult b)) (boolW_ult x y),
      row (fun a b => if a.slt b then a else b) (min_slt x y), row (fun a b => if a.slt b then b else a) (max_slt x y),
      row (fun a b => if a.ult b then a else b) (min_ult x y), row (fun a b => if a.ult b then b else a) (max_ult x y),
      row (· * ·) (mul_eq_ofNat x y), row mulhs64 rfl, row mulhu64 rfl⟩
  case counts =>
    have wrote : ∀ v, (s.m.tile t.val).wrote d.val v
        = { s.m.tile t.val with pc := (s.m.tile t.val).pc + 4, x := Map.set 0 (s.m.tile t.val).x d.val v } :=
      fun v => by rw [Tile.wrote, if_neg hd]
    obtain ⟨n, hn, hlt, hle, hclz⟩ := clz64_spec ((s.m.tile t.val).getX a.val)
    refine ⟨⟨n, hn, hlt, hle, ?_⟩, ?_⟩
    · rw [← hclz, ← wrote]; exact aluU_next hi hb 0x018 clz64
    · rw [List.countP_eq_length_filter, ← wrote]; exact aluU_next hi hb 0x019 popc64
  case illegal =>
    rcases hc with rfl | rfl
    · obtain ⟨s', hx, hp, htrap⟩ := aluU_traps hi hb hnone 0x018 clz64
      exact ⟨s', hx, hp, _, htrap⟩
    · obtain ⟨s', hx, hp, htrap⟩ := aluU_traps hi hb hnone 0x019 popc64
      exact ⟨s', hx, hp, _, htrap⟩

/-- Settles O2: without COMPAT_G1 a division is one of the register-to-register shapes; with it, a zero divisor is an exception. -/
theorem scalarDivide : Obligations.ScalarDivide := by
  unfold Obligations.ScalarDivide
  refine ⟨fun s t d a b hi hc => ?rows, fun s t d a b hi hc hz hnone c h => ?zero⟩
  case rows =>
    intro T x y wr
    have row : ∀ (f : W64 → W64 → W64) {v : W64}, f x y = v → divOp t d a b f s = wr v := fun f _ h => h ▸ divOp_next hi hc f
    exact ⟨row div64 (div64_eq x y), row divu64 (divu64_eq x y), row rem64 (rem64_eq x y), row remu64 (remu64_eq x y)⟩
  case zero =>
    intro T
    have traps : ∀ f, exec c s = divOp t d a b f s → ∃ s', exec c s = .next s' ∧ s'.pending = s.pending
        ∧ ∃ w, s.m.trapped s'.m t .divZero w := fun f hf => by
      obtain ⟨s', hx, hp, htrap⟩ := divOp_traps hi hc hz hnone f
      exact ⟨s', hf.trans hx, hp, _, htrap⟩
    rcases h with rfl | rfl | rfl | rfl
    · exact traps div64 rfl
    · exact traps divu64 rfl
    · exact traps rem64 rfl
    · exact traps remu64 rfl

/-- Settles O3: the immediate is extended as its row says, and LIMM is read bit by bit. -/
theorem scalarImmediate : Obligations.ScalarImmediate := by
  unfold Obligations.ScalarImmediate
  intro s t d a imm amt hi T x wr
  have row : ∀ (f : W64 → W64) {v : W64}, f x = v → aluI t d a f s = wr v := fun f _ h => h ▸ aluI_next hi f
  have hsx : sx imm = BitVec.ofInt 64 imm.toInt := sx_eq (by decide) imm
  have hsxInt : (sx imm).toInt = imm.toInt := BitVec.toInt_signExtend_of_le (by decide)
  have hzx : BitVec.ofNat 64 imm.toNat = imm.setWidth 64 := BitVec.ofNat_toNat 64 imm
  have hamt : (amt.setWidth 64).toNat % 64 = amt.toNat := by
    have := amt.isLt
    rw [BitVec.toNat_setWidth]; omega
  refine ⟨row (· + sx imm) ?_, row (· &&& imm.setWidth 64) (by rw [hzx]), row (· ||| imm.setWidth 64) (by rw [hzx]),
    row (· ^^^ imm.setWidth 64) (by rw [hzx]), row (fun a => boolW (a.slt (sx imm))) ?_, row (fun a => boolW (a.ult (sx imm))) ?_,
    row (shl64 · (amt.setWidth 64)) ?_, row (shr64 · (amt.setWidth 64)) ?_, row (sar64 · (amt.setWidth 64)) ?_,
    fun ha => ⟨limmField (T.getX d.val) a.val imm, limm_next hi ha imm, fun i hi64 => limmField_getLsbD _ _ imm i hi64⟩⟩
  · rw [BitVec.ofInt_add, BitVec.ofInt_toInt, hsx]
  · rw [boolW_slt, hsxInt]
  · rw [boolW_ult, hsx]
  · rw [shl64_eq, hamt]
  · rw [shr64_eq, hamt]
  · rw [sar64_eq, hamt]

end Sys2Proof.Machine
end

section
/-! Branches and jumps (R166). -/
namespace Sys2Proof.Machine

/-- What x reads after a jump that leaves a link in `link`, if it leaves one (R158, R166). -/
def Tile.linked (T : Tile) (link : Option Nat) : Map W64 :=
  match link with
  | some d => if d != 0 then Map.set 0 T.x d (BitVec.ofNat 64 (T.pc + 4)) else T.x
  | none => T.x

theorem Tile.jump_within (T : Tile) (word : W64) (link : Option Nat) {tgt : Int} (h0 : 0 ≤ tgt) (hmax : tgt ≤ 0xFFFC) (h4 : tgt % 4 = 0) :
    T.jump word link tgt = ({ T with pc := tgt.toNat, x := T.linked link }, []) := by
  have hin : ¬(tgt < 0 ∨ 0xFFFC < tgt) := by omega
  refine (if_neg hin).trans ((if_neg (not_not.2 h4)).trans ?_)
  cases link with
  | none => rfl
  | some d => by_cases hd : d = 0 <;> simp [Tile.setX, Tile.linked, hd]

/-- A target out of the program, and then one between two words, is an exception (R191). -/
theorem Tile.jump_astray (T : Tile) (word : W64) (link : Option Nat) {tgt : Int} (h : tgt < 0 ∨ 0xFFFC < tgt ∨ tgt % 4 ≠ 0) :
    ∃ w, T.jump word link tgt = T.raiseAt (if tgt < 0 ∨ 0xFFFC < tgt then .illegal else .misalign) w := by
  by_cases hout : tgt < 0 ∨ 0xFFFC < tgt
  · exact ⟨_, by rw [if_pos hout]; exact if_pos hout⟩
  · have hword : tgt % 4 ≠ 0 := (or_assoc.2 h).resolve_left hout
    exact ⟨_, by rw [if_neg hout]; exact (if_neg hout).trans (if_pos hword)⟩

/-- An instruction of tile `t` with the outcome `o` jumps: to its target with its link, or to an exception without one. -/
def State.Jumps (s : State) (t : TileId) (link : Option Nat) (tgt : Int) (o : Host.Outcome State Fault Refusal) : Prop :=
  (0 ≤ tgt → tgt ≤ 0xFFFC → tgt % 4 = 0 →
      o = .next (s.withTile t { s.m.tile t.val with pc := tgt.toNat, x := (s.m.tile t.val).linked link }))
    ∧ ((s.m.tile t.val).excCause = none → (tgt < 0 ∨ 0xFFFC < tgt ∨ tgt % 4 ≠ 0) →
      ∃ s' w, o = .next s' ∧ s.m.trapped s'.m t (if tgt < 0 ∨ 0xFFFC < tgt then .illegal else .misalign) w)

theorem issue_jumps {s : State} {t : TileId} {regs : List RegNo} (hi : s.m.issues t regs) {rs : List Nat}
    (hr : ∀ r ∈ rs, ∃ q ∈ regs, q.val = r) {body : Mach → Tile → TRes} {word : W64} {link : Option Nat} {tgt : Int}
    (hb : body s.m (s.m.tile t.val) = (s.m.tile t.val).jump word link tgt) :
    s.Jumps t link tgt (lift (fun m => m.act t.val fun T => T.issue t.val rs (body m)) s) := by
  refine ⟨fun h0 hmax h4 => issue_quiet hi hr (hb.trans (Tile.jump_within _ word link h0 hmax h4)), fun hnone hbad => ?_⟩
  obtain ⟨w, hw⟩ := Tile.jump_astray (s.m.tile t.val) word link hbad
  obtain ⟨s', hx, htrap⟩ := trapped_of_pending (issue_traps hi hr hnone (hb.trans hw))
  exact ⟨s', w, hx, htrap⟩

section
variable {s : State} {t : TileId} {d a b : RegNo} {imm : W16}

theorem execJal_jumps (hi : s.m.issues t [d, a, b]) (off : BitVec 21) :
    s.Jumps t (some d.val) ((s.m.tile t.val).pc + 4 * off.toInt) (execJal t d off s) := issue_jumps hi (by simp) rfl

theorem execJalr_jumps (hi : s.m.issues t [d, a, b]) :
    s.Jumps t (some d.val) (((s.m.tile t.val).getX a.val + sx imm).toNat : Nat) (execJalr t d a imm s) := issue_jumps hi (by simp) rfl

theorem branch_taken (hi : s.m.issues t [d, a, b]) (major : Nat) {cond : W64 → W64 → Bool}
    (h : cond ((s.m.tile t.val).getX a.val) ((s.m.tile t.val).getX b.val) = true) :
    s.Jumps t none ((s.m.tile t.val).pc + 4 * imm.toInt) (branch major t a b imm cond s) := issue_jumps hi (by simp) (if_pos h)

theorem branch_not_taken (hi : s.m.issues t [d, a, b]) (major : Nat) {cond : W64 → W64 → Bool}
    (h : ¬cond ((s.m.tile t.val).getX a.val) ((s.m.tile t.val).getX b.val) = true) :
    branch major t a b imm cond s = .next (s.withTile t { s.m.tile t.val with pc := (s.m.tile t.val).pc + 4 }) :=
  issue_quiet hi (by simp) (if_neg h)
end

/-- Settles O4: a jump and a branch taken are `Tile.jump`, and a branch not taken only goes on. -/
theorem controlTransfer : Obligations.ControlTransfer := by
  unfold Obligations.ControlTransfer
  intro s t d a b imm off hi T x y go br
  have hbr : ∀ (major : Nat) (cond : W64 → W64 → Bool) {taken : Prop} (c : Instr), exec c s = branch major t a b imm cond s →
      (cond x y = true ↔ taken) → br c taken := fun major cond _ c hc ht =>
    ⟨fun h => hc ▸ branch_taken hi major (ht.2 h), fun h => hc.trans (branch_not_taken hi major (mt ht.1 h))⟩
  have hjalr := execJalr_jumps hi (imm := imm)
  rw [sx_eq (by decide)] at hjalr
  refine ⟨execJal_jumps hi off, hjalr, hbr 0x0C (· == ·) _ rfl ?_, hbr 0x0D (· != ·) _ rfl ?_, hbr 0x0E BitVec.slt _ rfl ?_,
    hbr 0x0F (fun a b => !a.slt b) _ rfl ?_, hbr 0x10 BitVec.ult _ rfl ?_, hbr 0x11 (fun a b => !a.ult b) _ rfl ?_⟩
  · exact beq_iff_eq
  · exact bne_iff_ne
  · exact BitVec.slt_iff_toInt_lt
  · simp [BitVec.slt_eq_decide]
  · exact BitVec.ult_iff_toNat_lt
  · simp [BitVec.ult]

end Sys2Proof.Machine
end

section
/-! Flags, FENCE, beats, turns and the completion queue (R180, R184 to R188, R193). -/
namespace Sys2Proof.Machine

/-! ### Flags -/

section
variable {s : State} {t : TileId} {regs : List RegNo} (hi : s.m.issues t regs) {rs : List Nat} (hr : ∀ r ∈ rs, ∃ q ∈ regs, q.val = r)
  {f : FlagNo} {body : Tile → TRes}
include hi hr

theorem flagOp_next (hf : (s.m.tile t.val).allocated f.val = true ∨ (s.m.ownerPart t.val).compat = true) {T' : Tile}
    (hb : body (s.m.tile t.val) = (T', [])) : flagOp t rs f body s = .next (s.withTile t T') := by
  have hok : (s.m.tile t.val).flagOk (s.m.ownerPart t.val).compat f.val = true := by
    rw [Tile.flagOk, Bool.or_eq_true]; exact hf.symm
  exact issue_quiet hi hr ((if_pos hok).trans hb)

/-- A flag that is not allocated in the turn raises FLAG_UNALLOC (R185). -/
theorem flagOp_traps (ha : (s.m.tile t.val).allocated f.val = false) (hc : (s.m.ownerPart t.val).compat = false)
    (hnone : (s.m.tile t.val).excCause = none) :
    ∃ s', flagOp t rs f body s = .next s' ∧ s.m.trapped s'.m t .flagUnalloc (BitVec.ofNat 64 f.val) := by
  have hno : ¬(s.m.tile t.val).flagOk (s.m.ownerPart t.val).compat f.val = true := by simp [Tile.flagOk, ha, hc]
  exact trapped_of_pending (issue_traps hi hr hnone (if_neg hno))
end

section
variable {s : State} {t : TileId} {d : RegNo} (hi : s.m.issues t [d]) (f : FlagNo)
include hi

/-- With COMPAT_G1 an FALLOC acts as FCLR (R193). -/
theorem falloc_next : execFalloc t f s = .next (s.withTile t { s.m.tile t.val with
    pc := (s.m.tile t.val).pc + 4, flags := Map.set false (s.m.tile t.val).flags f.val false
    alloc := if (s.m.ownerPart t.val).compat then (s.m.tile t.val).alloc else Map.set false (s.m.tile t.val).alloc f.val true }) := by
  refine issue_quiet hi (by simp) ?_
  cases (s.m.ownerPart t.val).compat <;> rfl

variable {f} (hf : (s.m.tile t.val).allocated f.val = true ∨ (s.m.ownerPart t.val).compat = true)
include hf

theorem fset_next : execFset t f s = .next (s.withTile t ((s.m.tile t.val).setFlag f.val true).advance) := flagOp_next hi (by simp) hf rfl
theorem fclr_next : execFclr t f s = .next (s.withTile t ((s.m.tile t.val).setFlag f.val false).advance) := flagOp_next hi (by simp) hf rfl
theorem fwait_next : execFwait t f s
    = .next (s.withTile t (if (s.m.tile t.val).flagSet f.val then (s.m.tile t.val).advance else s.m.tile t.val)) :=
  flagOp_next hi (by simp) hf (apply_ite (·, ([] : List Sig)) _ _ _).symm
theorem fwaitc_next : execFwaitc t f s = .next (s.withTile t
    (if (s.m.tile t.val).flagSet f.val then ((s.m.tile t.val).setFlag f.val false).advance else s.m.tile t.val)) :=
  flagOp_next hi (by simp) hf (apply_ite (·, ([] : List Sig)) _ _ _).symm
theorem ftest_next : execFtest t d f s
    = .next (s.withTile t ((s.m.tile t.val).wrote d.val (if (s.m.tile t.val).flagSet f.val then 1 else 0))) :=
  flagOp_next hi (by simp) hf (congrArg (·, []) (Tile.advance_setX _ _ _))
end

/-! ### FENCE -/

/-- The engines that FENCE names and that still work (R188). -/
def Tile.Busy (T : Tile) (e : BitVec 4) : Prop :=
  (e.getLsbD 0 = true ∧ T.vq ≠ []) ∨ (e.getLsbD 1 = true ∧ T.kq ≠ []) ∨ (e.getLsbD 3 = true ∧ T.mq ≠ [])
    ∨ (e.getLsbD 2 = true ∧ ∃ x ∈ T.aq, ∃ pc, x.by_ = .core pc)

theorem Tile.arrayBusy_iff (T : Tile) : T.arrayBusy = true ↔ ∃ x ∈ T.aq, ∃ pc, x.by_ = .core pc := by
  rw [Tile.arrayBusy, List.any_eq_true]
  refine exists_congr fun x => and_congr_right fun _ => ?_
  cases x.by_ <;> simp

theorem Tile.busy_iff (T : Tile) (e : BitVec 4) :
    ((e.getLsbD 0 && !T.vq.isEmpty) || (e.getLsbD 1 && !T.kq.isEmpty) || (e.getLsbD 2 && T.arrayBusy) || (e.getLsbD 3 && !T.mq.isEmpty)) = true
      ↔ T.Busy e := by
  simp only [Bool.or_eq_true, Bool.and_eq_true, T.arrayBusy_iff, Bool.not_eq_true', List.isEmpty_eq_false_iff, Tile.Busy, or_assoc]
  exact or_congr_right (or_congr_right or_comm)

theorem fence_waits {s : State} {t : TileId} {regs : List RegNo} (hi : s.m.issues t regs) {e : BitVec 4} (hb : (s.m.tile t.val).Busy e) :
    execFence t e s = .next (s.withTile t (s.m.tile t.val)) :=
  issue_quiet hi (rs := []) (by simp) (if_pos ((Tile.busy_iff _ e).2 hb))
theorem fence_passes {s : State} {t : TileId} {regs : List RegNo} (hi : s.m.issues t regs) {e : BitVec 4} (hb : ¬(s.m.tile t.val).Busy e) :
    execFence t e s = .next (s.withTile t (s.m.tile t.val).advance) :=
  issue_quiet hi (rs := []) (by simp) (if_neg (mt (Tile.busy_iff _ e).1 hb))

/-! ### Beats -/

theorem lastBeat_any_iff (o : Option Nat) (k : Nat) : (o.any fun l => decide (k < l)) = true ↔ ¬∀ l, o = some l → l ≤ k := by
  cases o <;> simp

section
variable {s : State} {t : TileId} {n : RegNo} (hi : s.m.issues t [n])
include hi

theorem turn_next (d : Byte) : execTurn t d s = .next (s.withTile t { s.m.tile t.val with run := .inTurn, turnD := d.toNat }) :=
  issue_quiet hi (rs := []) (by simp) (T' := { s.m.tile t.val with run := .inTurn, turnD := d.toNat }) rfl

section
variable {k : W16} (d : Byte)

/-- A BEAT whose beat has come (R186). -/
theorem beat_arms (ho : ∀ l, (s.m.tile t.val).lastBeat = some l → l ≤ k.toNat) (hb : k.toNat ≤ (s.m.ownerPart t.val).beatNow) :
    execBeat t k d s = .next (s.withTile t { s.m.tile t.val with
      pc := (s.m.tile t.val).pc + 4, lastBeat := some k.toNat, beatWait := false
      beatDue := if d.toNat = 0 then none else some (k.toNat + d.toNat) }) := by
  have hd : (if d.toNat = 0 then none else some (k.toNat + d.toNat)) = if d = 0 then none else some (k.toNat + d.toNat) :=
    if_congr (BitVec.toNat_inj (y := 0)) rfl rfl
  rw [hd]
  exact issue_quiet hi (by simp) ((if_neg (mt (lastBeat_any_iff _ _).1 (not_not.2 ho))).trans (if_neg (not_lt.2 hb)))

theorem beat_waits (ho : ∀ l, (s.m.tile t.val).lastBeat = some l → l ≤ k.toNat) (hb : (s.m.ownerPart t.val).beatNow < k.toNat) :
    execBeat t k d s = .next (s.withTile t { s.m.tile t.val with lastBeat := some k.toNat, beatWait := true }) :=
  issue_quiet hi (by simp) ((if_neg (mt (lastBeat_any_iff _ _).1 (not_not.2 ho))).trans (if_pos hb))

/-- A BEAT before the tile's last one. -/
theorem beat_traps (ho : ¬∀ l, (s.m.tile t.val).lastBeat = some l → l ≤ k.toNat) (hnone : (s.m.tile t.val).excCause = none) :
    ∃ s', execBeat t k d s = .next s' ∧ s.m.trapped s'.m t .beatOrder (BitVec.ofNat 64 k.toNat) :=
  trapped_of_pending (issue_traps hi (by simp) hnone (if_pos ((lastBeat_any_iff _ _).2 ho)))
end

theorem acq_empty (h : (s.m.tile t.val).cq = []) :
    execAcq t n s = .next (s.withTile t ((s.m.tile t.val).wrote n.val (BitVec.allOnes 64))) :=
  issue_quiet hi (by simp) (by rw [h]; exact congrArg (·, []) (Tile.advance_setX _ _ _))

theorem acq_oldest {w : W32} {ws : List W32} (h : (s.m.tile t.val).cq = w :: ws) :
    execAcq t n s = .next (s.withTile t ({ s.m.tile t.val with cq := ws }.wrote n.val (BitVec.ofNat 64 w.toNat))) := by
  have hw : BitVec.ofNat 64 w.toNat = w.setWidth 64 := BitVec.ofNat_toNat 64 w
  refine issue_quiet hi (by simp) ?_
  rw [h, hw]
  exact congrArg (·, []) (Tile.advance_setX _ _ _)
end

/-! ### The obligation -/

/-- Settles O12: each instruction issues and is one branch of its rule. -/
theorem flagsFenceBeats : Obligations.FlagsFenceBeats := by
  unfold Obligations.FlagsFenceBeats
  refine ⟨fun s t d f e hi => ?flags, fun s t n k d hi => ?beats⟩
  case flags =>
    intro T goes on
    have halloc := falloc_next hi f
    refine ⟨fun hc => ?_, fun hc => ?_, fun hf => ⟨fset_next hi hf, fclr_next hi hf, fwait_next hi hf, fwaitc_next hi hf, ftest_next hi hf⟩,
      fun ha hc hnone c h => ?unallocated, fence_waits hi, fence_passes hi⟩
    · rwa [hc] at halloc
    · rwa [hc] at halloc
    case unallocated =>
      have traps : ∀ {rs : List Nat} {body : Tile → TRes}, (∀ r ∈ rs, ∃ q ∈ [d], q.val = r) → exec c s = flagOp t rs f body s →
          ∃ s', exec c s = .next s' ∧ s.m.trapped s'.m t .flagUnalloc (BitVec.ofNat 64 f.val) :=
        fun hr hx => hx ▸ flagOp_traps hi hr ha hc hnone
      rcases h with rfl | rfl | rfl | rfl | rfl
      · exact traps (by simp) (execFset.eq_1 t f s)
      · exact traps (by simp) (execFclr.eq_1 t f s)
      · exact traps (by simp) (execFwait.eq_1 t f s)
      · exact traps (by simp) (execFwaitc.eq_1 t f s)
      · exact traps (by simp) (execFtest.eq_1 t d f s)
  case beats =>
    intro T goes inOrder
    exact ⟨beat_arms hi d, beat_waits hi d, beat_traps hi d, turn_next hi d, acq_empty hi, fun w ws h => acq_oldest hi h⟩

end Sys2Proof.Machine
end

section
/-! Kiln's command blocks at issue, and words that are no instruction (R159 to R161, R175 to R178, R191). -/
namespace Sys2Proof.Machine

/-! ### What a command block does first -/

section
variable {T : Tile} {compat stall : Bool} {done : Nat}

theorem Tile.flagOk_iff (hd : done < 256) : ¬(done < 256 ∧ (!T.flagOk compat done) = true) ↔ compat = true ∨ T.allocated done = true := by
  simp [hd, Tile.flagOk, Decidable.imp_iff_not_or]

variable (hf : done < 256 → compat = true ∨ T.allocated done = true)
include hf

theorem Tile.flag_passes : ¬(done < 256 ∧ (!T.flagOk compat done) = true) := fun e => (Tile.flagOk_iff e.1).2 (hf e.1) e

theorem Tile.blockGate_fault (off : Nat) (remote : Option W64) (chk : Chk) :
    T.blockGate compat done (some off) remote chk stall = some (T.raiseAt .badBlock (BitVec.ofNat 64 off)) := if_neg (Tile.flag_passes hf)
theorem Tile.blockGate_remote (r : W64) (chk : Chk) :
    T.blockGate compat done none (some r) chk stall = some (T.raiseAt .remotePart r) := if_neg (Tile.flag_passes hf)
theorem Tile.blockGate_stalls : T.blockGate compat done none none .ok true = some (T, []) := if_neg (Tile.flag_passes hf)
end

/-- A DONE_FLAG that is not allocated comes before every other fault (R191). -/
theorem Tile.blockGate_unallocated {T : Tile} {compat : Bool} {done : Nat} (hf : ¬(done < 256 → compat = true ∨ T.allocated done = true))
    (fault : Option Nat) (remote : Option W64) (chk : Chk) (stall : Bool) :
    T.blockGate compat done fault remote chk stall = some (T.raiseAt .flagUnalloc (BitVec.ofNat 64 done)) := by
  obtain ⟨hd, hno⟩ := Classical.not_imp.1 hf
  exact if_pos (not_not.1 (mt (Tile.flagOk_iff hd).1 hno))

section
variable {s : State} {t : TileId} {n : RegNo} {op : Nat} (hi : s.m.issuesBlock t n op) {q : Nat → Bool} (hq : q op = true) {major : Nat}
  {body : Mach → Tile → Nat → TRes}
include hi hq

theorem block_quiet {T' : Tile} (hb : body s.m (s.m.tile t.val) ((s.m.tile t.val).block n.val) = (T', [])) :
    lift (fun m => m.act t.val (blockIssue major t n q (body m))) s = .next (s.withTile t T') :=
  lift_act_mach (f := fun m => blockIssue major t n q (body m)) ((blockIssue_runs hi hq major _).trans hb)

theorem block_traps (hnone : (s.m.tile t.val).excCause = none) {c : Cause} {info : W64}
    (hb : body s.m (s.m.tile t.val) ((s.m.tile t.val).block n.val) = (s.m.tile t.val).raiseAt c info) :
    ∃ s', lift (fun m => m.act t.val (blockIssue major t n q (body m))) s = .next s' ∧ s.m.trapped s'.m t c info := by
  obtain ⟨⟨hrun, -⟩, -⟩ := id hi
  exact trapped_of_pending (lift_act_traps (f := fun m => blockIssue major t n q (body m)) hrun hnone
    ((blockIssue_runs hi hq major _).trans hb))
end

/-- A queued VEXT delivers to a register that a word can name. -/
theorem Tile.lt_of_mem_awaited {T : Tile} {r : Nat} (h : r ∈ T.awaited) : r < 32 := by
  obtain ⟨e, -, he⟩ := List.mem_filterMap.1 h
  unfold VEntry.dest at he
  split at he
  · split at he
    · cases he
    · exact Option.some.inj he ▸ Fin.isLt _
  · cases he

theorem Tile.issue_unawaited {T : Tile} {rs : List Nat} (h : ∀ r ∈ rs, r ∉ T.awaited) (t : Nat) (body : Tile → TRes) :
    T.issue t rs body = T.issue t [] body := by
  have hany : (rs.any fun r => T.awaited.contains r) = false := by simpa [List.any_eq_false] using h
  simp only [Tile.issue, hany]
  rfl

/-- R175: a number that names no block. -/
theorem blockIssue_traps {s : State} {t : TileId} {n : RegNo} (hi : s.m.issues t (blockRegs n)) (hn : n.val % 4 ≠ 0 ∨ n.val < 4)
    (hnone : (s.m.tile t.val).excCause = none) (major : Nat) (q : Nat → Bool) (body : Mach → Tile → Nat → TRes) :
    ∃ s' w, lift (fun m => m.act t.val (blockIssue major t n q (body m))) s = .next s' ∧ s.m.trapped s'.m t .illegal w := by
  have hreg : blockReg n.val = false := by
    simp only [blockReg, Bool.and_eq_false_iff, beq_eq_false_iff_ne, decide_eq_false_iff_not]
    omega
  obtain ⟨hrun, hpc, hflips, hregs⟩ := hi
  have hfree : ∀ r ∈ [n.val, n.val + 1, n.val + 2, n.val + 3], r ∉ (s.m.tile t.val).awaited := fun r hr hmem => by
    have hblock : n.val ≤ r ∧ r < n.val + 4 := by simp at hr; omega
    exact hregs ⟨r, Tile.lt_of_mem_awaited hmem⟩ (List.mem_filter.2 ⟨List.mem_finRange _, by simpa using hblock⟩) hmem
  have hruns : blockIssue major t n q (body s.m) (s.m.tile t.val) = (s.m.tile t.val).raiseAt .illegal (encC major n.val) :=
    (Tile.issue_unawaited hfree t.val _).trans
      ((Tile.issue_runs (regs := []) ⟨hrun, hpc, hflips, by simp⟩ [] (by simp) _).trans (if_pos (by simp [hreg])))
  obtain ⟨s', hx, -, htrap⟩ := lift_act_traps (f := fun m => blockIssue major t n q (body m)) hrun hnone hruns
  exact ⟨s', _, hx, htrap⟩

/-! ### Kiln -/

theorem Chk.worse_ok {a b : Chk} (ha : a = .ok) (hb : b = .ok) : a.worse b = .ok := by rw [ha, hb]; rfl

theorem Tile.checkSteps_ok {T : Tile} {addr stride n k : Nat} (h : ∀ i < k, T.check wideAllow (addr + i * stride) n = .ok) :
    T.checkSteps addr stride n k = .ok := by
  unfold Tile.checkSteps
  induction k with
  | zero => rfl
  | succ k ih =>
    rw [List.range_succ, List.foldl_concat, ih fun i hi => h i (Nat.lt_succ_of_lt hi)]
    exact Chk.worse_ok rfl (h k (Nat.lt_succ_self k))

theorem kilnMulFault_zeroField {T : Tile} {b : Nat} (h : 2 ≤ blk b 1 1) : kilnMulFault T b = some 1 := if_pos h

/-- A tile with a Kiln command behind the others, and its ranges in the scoreboard. -/
def Tile.kilnQueued (T : Tile) (c : KCmd) (rs : List LineRange) : Tile :=
  { T with
    pc := T.pc + 4, kq := T.kq ++ [(T.nextId, c)], nextId := T.nextId + 1
    sb := T.sb ++ rs.map fun r => ⟨r.1, r.2.1, r.2.2, T.nextId⟩ }

section
variable {s : State} {t : TileId} {n : RegNo}

/-- Nothing keeps a Kiln command with the ranges `rs` back: the queue has a place, and its lines are free (R122, R138, R415). -/
theorem kiln_unstalled {rs : List LineRange} (hk : (s.m.tile t.val).kq.length < 4) (hsb : (s.m.tile t.val).sbStall rs = false)
    (ht : s.m.testingRanges t.val rs = false) :
    (decide (4 ≤ (s.m.tile t.val).kq.length) || (s.m.tile t.val).sbStall rs || s.m.testingRanges t.val rs) = false := by
  simp [hsb, ht, hk]

section
variable {op : Nat} (hi : s.m.issuesBlock t n op)
  (hf : blk ((s.m.tile t.val).block n.val) 2 2 < 256 → (s.m.ownerPart t.val).compat = true
    ∨ (s.m.tile t.val).allocated (blk ((s.m.tile t.val).block n.val) 2 2) = true)
include hi hf

theorem kilnMul_traps (hop : op = 1) {off : Nat} (h : kilnMulFault (s.m.tile t.val) ((s.m.tile t.val).block n.val) = some off)
    (hnone : (s.m.tile t.val).excCause = none) :
    ∃ s', execKilnMul t n s = .next s' ∧ s.m.trapped s'.m t .badBlock (BitVec.ofNat 64 off) := by
  refine block_traps hi (by simp [hop]) hnone ?_
  simp only [h, Tile.blockGate_fault hf]

theorem kilnMul_enters (hop : op = 1) {b : Nat} (hb : (s.m.tile t.val).block n.val = b) (h : kilnMulFault (s.m.tile t.val) b = none)
    (hsteps : ∀ i < blk b 16 2,
      (s.m.tile t.val).check wideAllow (blk b 4 4 + i * blk b 12 2) ((kfmtA (bits b 152 4)).getD .int8).size = .ok
      ∧ (s.m.tile t.val).check wideAllow (blk b 8 4 + i * blk b 14 2) ((kfmtB (bits b 156 4)).getD .int8).size = .ok)
    (hk : (s.m.tile t.val).kq.length < 4) (hsb : (s.m.tile t.val).sbStall (kilnMulRanges b) = false)
    (ht : s.m.testingRanges t.val (kilnMulRanges b) = false) :
    execKilnMul t n s = .next (s.withTile t ({ s.m.tile t.val with
      kIssued := Map.set .fp32 (s.m.tile t.val).kIssued (blk b 18 1)
        ((kilnPair ((kfmtA (bits b 152 4)).getD .int8) ((kfmtB (bits b 156 4)).getD .int8)).getD .fp32) }.kilnQueued
      (kilnMulCmd b) (kilnMulRanges b))) := by
  subst hb
  have hchk := Chk.worse_ok (Tile.checkSteps_ok fun i hi => (hsteps i hi).1) (Tile.checkSteps_ok fun i hi => (hsteps i hi).2)
  refine block_quiet hi (by simp [hop]) ?_
  simp only [h, hchk, Tile.blockGate_passes hf (kiln_unstalled hk hsb ht)]
  rfl

theorem kilnStore_enters (hop : op = 2) {b : Nat} (hb : (s.m.tile t.val).block n.val = b) (h : kilnStoreFault (s.m.tile t.val) b = none)
    (hchk : (s.m.tile t.val).check wideAllow (blk b 4 4) (storeBytes (blk b 9 1)) = .ok) (hk : (s.m.tile t.val).kq.length < 4)
    (hsb : (s.m.tile t.val).sbStall [lineRange (blk b 4 4) (storeBytes (blk b 9 1)) true] = false)
    (ht : s.m.testingRanges t.val [lineRange (blk b 4 4) (storeBytes (blk b 9 1)) true] = false) :
    execKilnStore t n s = .next (s.withTile t ((s.m.tile t.val).kilnQueued
      (.store (doneOf (blk b 2 2)) (blk b 4 4) (Fin.ofNat 4 (blk b 8 1)) (Fin.ofNat 4 (blk b 9 1)))
      [lineRange (blk b 4 4) (storeBytes (blk b 9 1)) true])) := by
  subst hb
  refine block_quiet hi (by simp [hop]) ?_
  simp only [h, hchk, Tile.blockGate_passes hf (kiln_unstalled hk hsb ht)]
  rfl

/-- R177, R183: a block whose operation is reserved. -/
theorem badBlock_traps {kiln : Bool} (hop : (if kiln then op != 1 && op != 2 else op == 0 || decide (6 ≤ op)) = true)
    (hnone : (s.m.tile t.val).excCause = none) :
    ∃ s', execBadBlock t n kiln s = .next s' ∧ s.m.trapped s'.m t .badBlock 0 := by
  refine block_traps (q := fun op => if kiln then op != 1 && op != 2 else op == 0 || decide (6 ≤ op)) hi hop hnone ?_
  simp only [Tile.blockGate_fault hf]
  rfl
end

theorem badBlock_unallocated {op : Nat} (hi : s.m.issuesBlock t n op)
    (hf : ¬(blk ((s.m.tile t.val).block n.val) 2 2 < 256 → (s.m.ownerPart t.val).compat = true
      ∨ (s.m.tile t.val).allocated (blk ((s.m.tile t.val).block n.val) 2 2) = true))
    {kiln : Bool} (hop : (if kiln then op != 1 && op != 2 else op == 0 || decide (6 ≤ op)) = true)
    (hnone : (s.m.tile t.val).excCause = none) :
    ∃ s', execBadBlock t n kiln s = .next s'
      ∧ s.m.trapped s'.m t .flagUnalloc (BitVec.ofNat 64 (blk ((s.m.tile t.val).block n.val) 2 2)) := by
  refine block_traps (q := fun op => if kiln then op != 1 && op != 2 else op == 0 || decide (6 ≤ op)) hi hop hnone ?_
  simp only [Tile.blockGate_unallocated hf]
  rfl
end

theorem kilnMul_noBlock {s : State} {t : TileId} {n : RegNo} (hi : s.m.issues t (blockRegs n)) (hn : n.val % 4 ≠ 0 ∨ n.val < 4)
    (hnone : (s.m.tile t.val).excCause = none) : ∃ s' w, execKilnMul t n s = .next s' ∧ s.m.trapped s'.m t .illegal w :=
  blockIssue_traps hi hn hnone 0x28 (· == 1) _
theorem kilnStore_noBlock {s : State} {t : TileId} {n : RegNo} (hi : s.m.issues t (blockRegs n)) (hn : n.val % 4 ≠ 0 ∨ n.val < 4)
    (hnone : (s.m.tile t.val).excCause = none) : ∃ s' w, execKilnStore t n s = .next s' ∧ s.m.trapped s'.m t .illegal w :=
  blockIssue_traps hi hn hnone 0x28 (· == 2) _

/-! ### Words that are no instruction -/

theorem illegal_traps {s : State} {t : TileId} (hi : s.m.issues t []) (hnone : (s.m.tile t.val).excCause = none) {w : W32}
    (hw : legalWord w.toNat = false) :
    ∃ s', execIllegal t (some w) s = .next s' ∧ s.m.trapped s'.m t .illegal (w.setWidth 64) := by
  have hno : ¬(decodeWord t 0 w).isSome = true := by simp [decodeWord, hw]
  exact trapped_of_pending (issue_traps hi (rs := []) (by simp) hnone (if_neg hno))

/-- Major opcodes that R161 does not list. -/
theorem legalWord_unlisted {w : Nat} (hw : w < 2 ^ 32) (h : w / 2 ^ 26 = 0 ∨ w / 2 ^ 26 = 0x1E ∨ w / 2 ^ 26 = 0x1F ∨ 0x32 ≤ w / 2 ^ 26) :
    legalWord w = false := by
  have hm : bits w 26 6 = w / 2 ^ 26 := Nat.mod_eq_of_lt (by omega)
  simp (disch := omega) only [legalWord, hm, if_neg]

/-- A fetch past 0xFFFC (R160). -/
theorem fetch_past_end_traps {s : State} {t : TileId} (hrun : (s.m.tile t.val).run = .running) (hpc : 0x10000 ≤ (s.m.tile t.val).pc)
    (hnone : (s.m.tile t.val).excCause = none) (word : Option W32) :
    ∃ s', execIllegal t word s = .next s' ∧ s'.m.tiles = (s.m.setTile t.val { s.m.tile t.val with
      run := .excepted, excCause := some .illegal, excPc := 0xFFFC, excInfo := 0x8000000000010000 }).tiles := by
  have hf : (s.m.tile t.val).issue t.val [] (fun T => match word with
      | some w => if (decodeWord t 0 w).isSome then (T, []) else T.raiseAt .illegal (w.setWidth 64)
      | none => (T, [])) = (s.m.tile t.val).raise .illegal 0xFFFC 0x8000000000010000 :=
    (if_neg (not_not.2 hrun)).trans (if_pos hpc)
  refine ⟨_, lift_act hf, ?_⟩
  rw [← Tile.recordExc_first hrun hnone]
  obtain ⟨htiles, -⟩ := Mach.sigs_frame [.exc .illegal none]
    (s.m.setTile t.val ((s.m.tile t.val).recordExc .illegal 0xFFFC 0x8000000000010000)) t.val
  exact htiles

/-! ### The obligation -/

/-- Settles O13: a block that issues meets `blockGate`, which lets it pass, or names its fault. -/
theorem kilnIssue : Obligations.KilnIssue := by
  unfold Obligations.KilnIssue
  refine ⟨fun s t n => ?blocks, fun s t w hnone => ?words⟩
  case blocks =>
    intro T b done flagOk enters
    refine ⟨fun hi hf => ⟨fun off h hnone => kilnMul_traps hi hf rfl h hnone, kilnMulFault_zeroField, fun h hsteps => ⟨_, fun hk hsb ht =>
        kilnMul_enters hi hf rfl rfl h hsteps hk hsb ht⟩⟩,
      fun hi hf h hchk => ⟨_, fun hk hsb ht => kilnStore_enters hi hf rfl rfl h hchk hk hsb ht⟩, ?_, ?_, ?_, ?_⟩
    · exact fun op h1 h2 hi hf hnone => badBlock_traps hi hf (kiln := true) (by simp [h1, h2]) hnone
    · exact fun op hop hi hf hnone => badBlock_traps hi hf (kiln := false) (by simpa using hop) hnone
    · exact fun op h1 h2 hi hf hnone => badBlock_unallocated hi hf (kiln := true) (by simp [h1, h2]) hnone
    · rintro hi hn hnone c (rfl | rfl)
      · exact kilnMul_noBlock hi hn hnone
      · exact kilnStore_noBlock hi hn hnone
  case words =>
    refine ⟨fun hi hw => ?_, fun h => ?_, fun hrun hpc => fetch_past_end_traps hrun hpc hnone none⟩
    · rw [BitVec.ofNat_toNat]
      exact illegal_traps hi hnone hw
    · obtain ⟨q, rfl, hq⟩ := h
      exact legalWord_unlisted w.isLt hq

end Sys2Proof.Machine
end

section
/-! Remote operations at issue: the checks of the block, its packets, and what is sent (R181, R183, R193, R206). -/
namespace Sys2Proof.Machine

/-! ### Packets -/

/-- Packets numbered as they enter the mortar. -/
def numbered (k : Nat) (ps : List Packet) : List Packet := ps.mapIdx fun i p => { p with id := k + i }

/-- Signals that only profile leave the mortar as it is (R533). -/
theorem Mach.sig_prof_flight (m : Mach) (t code n : Nat) :
    (m.sig t (.prof code n)).flight = m.flight ∧ (m.sig t (.prof code n)).nextPkt = m.nextPkt := by
  simp only [Mach.sig]
  split <;> exact ⟨rfl, rfl⟩

theorem Mach.sigs_send (t : Nat) (ps : List Packet) (m : Mach) :
    m.sigs t (ps.map Sig.send) = { m with flight := m.flight ++ numbered m.nextPkt ps, nextPkt := m.nextPkt + ps.length } := by
  induction ps generalizing m with
  | nil => simp [numbered]
  | cons p ps ih =>
    have hstep : m.sigs t ((p :: ps).map Sig.send) = (m.sig t (.send p)).sigs t (ps.map Sig.send) := rfl
    rw [hstep, ih]
    simp [Mach.sig, numbered, List.mapIdx_cons, Nat.add_assoc, Nat.add_comm 1]

theorem Mach.sigs_sent (m : Mach) (t : Nat) (ps : List Packet) (c1 n1 c2 n2 : Nat) :
    (m.sigs t (ps.map Sig.send ++ [.prof c1 n1, .prof c2 n2])).flight = m.flight ++ numbered m.nextPkt ps
      ∧ (m.sigs t (ps.map Sig.send ++ [.prof c1 n1, .prof c2 n2])).nextPkt = m.nextPkt + ps.length := by
  have happ : m.sigs t (ps.map Sig.send ++ [.prof c1 n1, .prof c2 n2])
      = ((m.sigs t (ps.map Sig.send)).sig t (.prof c1 n1)).sig t (.prof c2 n2) := by simp [Mach.sigs]
  simp only [happ, Mach.sig_prof_flight, Mach.sigs_send, and_self]

section
variable {mk : Nat → List (List Byte × Bool) → Nat → Packet}

/-- R206: at most 8 lines a packet, and every line in one. -/
theorem packetsOf_length {fuel off n : Nat} {data : List (List Byte × Bool)} (h : n ≤ 8 * fuel) :
    (packetsOf mk fuel off n data).length = (n + 7) / 8 := by
  induction fuel generalizing off n data with
  | zero => simp [packetsOf]; omega
  | succ fuel ih =>
    rw [packetsOf]
    split
    case isTrue h0 => subst h0; rfl
    case isFalse h0 =>
      have hmin : Nat.min n 8 = min n 8 := rfl
      rw [List.length_cons, ih (by omega)]
      omega

theorem packetsOf_none (fuel off : Nat) (data : List (List Byte × Bool)) : packetsOf mk fuel off 0 data = [] := by
  cases fuel <;> rfl

/-- R206: packet `i` carries the lines from line 8 i on, ascending. -/
theorem packetsOf_getElem? {fuel off n i : Nat} {data : List (List Byte × Bool)} {p : Packet}
    (h : (packetsOf mk fuel off n data)[i]? = some p) :
    p = mk (off + 512 * i) ((data.drop (8 * i)).take (min 8 (n - 8 * i))) (min 8 (n - 8 * i)) := by
  induction fuel generalizing off n data i with
  | zero => cases h
  | succ fuel ih =>
    have hmin : Nat.min n 8 = min 8 n := Nat.min_comm n 8
    rw [packetsOf, hmin] at h
    split at h
    case isTrue => cases h
    case isFalse h0 =>
      cases i with
      | zero => exact (Option.some.inj h).symm
      | succ i =>
        rw [List.getElem?_cons_succ] at h
        by_cases hn : n < 8
        · have hrest : n - min 8 n = 0 := by omega
          rw [hrest, packetsOf_none] at h
          cases h
        · have h8 : min 8 n = 8 := by omega
          have hoff : off + 64 * 8 + 512 * i = off + 512 * (i + 1) := by omega
          have hline : 8 + 8 * i = 8 * (i + 1) := by omega
          have hleft : n - 8 - 8 * i = n - 8 * (i + 1) := by omega
          rw [h8] at h
          rw [ih h, List.drop_drop, hoff, hline, hleft]
end

theorem take_drop_map_range {α : Type} (f : Nat → α) (k a c : Nat) :
    (((List.range k).map f).drop a).take (min c (k - a)) = (List.range (min c (k - a))).map fun j => f (a + j) := by
  refine List.ext_getElem (by simp) fun j h1 h2 => ?_
  simp

/-! ### The lines that leave -/

/-- Clean lines leave as they are read. -/
theorem Tile.routerLines_clean {T : Tile} (t : Nat) {ls : List Nat} (h : ∀ l ∈ ls, T.found l = .clean) :
    T.routerLines t ls = (T, [], ls.map fun l => (T.readBytes (64 * l) 64, false)) := by
  induction ls with
  | nil => rfl
  | cons l ls ih =>
    obtain ⟨hl, hls⟩ := List.forall_mem_cons.1 h
    have hp : T.poisoned l = false := by
      by_contra hp
      rw [Tile.found, if_pos (by simpa using hp)] at hl
      cases hl
    have hone : T.routerLine t l = (T, [], false) := by simp [Tile.routerLine, hp, Tile.senseLine, hl]
    simp only [Tile.routerLines, hone, ih hls, List.append_nil, List.map_cons]

/-- The lines of whole lines. -/
theorem linesOf_whole {addr n : Nat} (ha : addr % 64 = 0) (hn : n % 64 = 0) (hpos : 64 ≤ n) :
    linesOf addr n = (List.range (n / 64)).map (addr / 64 + ·) := by
  have : (addr + n - 1) / 64 + 1 - addr / 64 = n / 64 := by omega
  rw [linesOf, this]

/-! ### The checks of the block -/

theorem ite_some_eq_none {α : Type} {c : Prop} [Decidable c] {a : α} {o : Option α} :
    (if c then some a else o) = none ↔ ¬c ∧ o = none := by
  split <;> simp [*]

/-- What a block without a fault holds (R181). -/
theorem mcmdFault_none {b : Nat} (h : mcmdFault b = none) :
    blk b 4 4 % 64 = 0 ∧ blk b 16 4 % 64 = 0 ∧ 64 ≤ blk b 16 4 ∧ blk b 16 4 ≤ 65536 := by
  simp only [mcmdFault, ite_some_eq_none] at h
  obtain ⟨-, -, hlocal, -, hlen, -⟩ := h
  have hmax : (if (blk b 0 1 == 2) = true then 512 else 65536) ≤ 65536 := by split <;> decide
  omega

theorem doneOk_iff {v : Nat} : doneOk v = true ↔ v < 256 ∨ v = 0xFFFF := by simp [doneOk]

theorem mcmdFault_localAddr {b : Nat} (h : blk b 4 4 % 64 ≠ 0) (h1 : blk b 1 1 = 0) (hd : doneOk (blk b 2 2) = true) :
    mcmdFault b = some 4 := by
  have hdone : ¬(!doneOk (blk b 2 2)) = true := by simp [hd]
  exact (if_neg (not_not.2 h1)).trans ((if_neg hdone).trans (if_pos h))

/-! ### The operation -/

/-- The packet of an operation `id` of tile `t` to the remote address `r`, `off` bytes on (R182, R206). -/
def mortarPacket (t id : Nat) (kind : RKind) (r off : Nat) (data : List (List Byte × Bool)) (k : Nat) : Packet :=
  { kind := .request kind t id (remoteQueue r), from_ := .tile t, target := remoteTile r, addr := remoteAddr r + off, lines := data
    count := k, remote := remoteAt (BitVec.ofNat 64 r) off }

/-- The packets of the operation that the block `b` names, to the remote address `r` (R206). -/
def Tile.mortarPackets (T : Tile) (t op b r : Nat) : List Packet :=
  packetsOf (mortarPacket t T.nextId (mcmdKind op) r) 128 0 (blk b 16 4 / 64)
    (if op = 3 then [] else (linesOf (blk b 4 4) (blk b 16 4)).map fun l => (T.readBytes (64 * l) 64, false))

/-- What its issue signals: its packets, and the profiling events of their lines and of the operation (R206, R533). -/
def Tile.mortarSigs (T : Tile) (t op b r : Nat) : List Sig :=
  (T.mortarPackets t op b r).map Sig.send
    ++ [.prof 0x0A (if op = 3 then (T.mortarPackets t op b r).length else blk b 16 4 / 64), .prof 0x0B 1]

/-- The tile with that operation behind the others (R217). -/
def Tile.mortarQueued (T : Tile) (op b r : Nat) : Tile :=
  { T with
    pc := T.pc + 4, nextId := T.nextId + 1
    mq := T.mq ++ [{ id := T.nextId, pc := T.pc, kind := mcmdKind op, flag := doneOf (blk b 2 2), remote := BitVec.ofNat 64 r
                     localAddr := blk b 4 4, left := (blk b 16 4 / 64 + 7) / 8 }]
    sb := if op = 3 then T.sb ++ [⟨blk b 4 4 / 64, (blk b 4 4 + blk b 16 4 - 1) / 64, true, T.nextId⟩] else T.sb }

section
variable {s : State} {t : TileId} {n : RegNo} {op b r : Nat} (hi : s.m.issuesBlock t n op) (hb : (s.m.tile t.val).block n.val = b)
  (hr : inWallOf (s.m.ownerPart t.val).compat t.val (blk b 8 8) = r)
  (hf : blk b 2 2 < 256 → (s.m.ownerPart t.val).compat = true ∨ (s.m.tile t.val).allocated (blk b 2 2) = true)
include hi hb hf

theorem mcmd_traps_badBlock {off : Nat} (h : mcmdFault b = some off) (hnone : (s.m.tile t.val).excCause = none) :
    ∃ s', mcmdIssue t n op s = .next s' ∧ s.m.trapped s'.m t .badBlock (BitVec.ofNat 64 off) := by
  subst hb
  refine block_traps (q := (· == op)) hi (beq_self_eq_true op) hnone ?_
  simp only [h, Tile.blockGate_fault hf]

include hr

theorem mcmd_traps_remotePart (h : mcmdFault b = none) (hp : s.m.samePart t.val (remoteTile r) = false)
    (hnone : (s.m.tile t.val).excCause = none) :
    ∃ s', mcmdIssue t n op s = .next s' ∧ s.m.trapped s'.m t .remotePart (BitVec.ofNat 64 r) := by
  subst hb hr
  refine block_traps (q := (· == op)) hi (beq_self_eq_true op) hnone ?_
  simp only [h, hp, Bool.false_eq_true, if_false, Tile.blockGate_remote hf]

variable (h : mcmdFault b = none) (hp : s.m.samePart t.val (remoteTile r) = true)
  (hchk : (s.m.tile t.val).check routerAllow (blk b 4 4) (blk b 16 4) = .ok)
include h hp hchk

/-- The router's queue of 8 is full (R206). -/
theorem mcmd_stalls (hq : 8 ≤ (s.m.tile t.val).mq.length) : mcmdIssue t n op s = .next (s.withTile t (s.m.tile t.val)) := by
  subst hb hr
  refine block_quiet (q := (· == op)) hi (beq_self_eq_true op) ?_
  simp only [h, hp, if_true, hchk, decide_eq_true hq, Bool.true_or, Tile.blockGate_stalls hf]

theorem mcmd_leaves (hsb : (s.m.tile t.val).sbStall [lineRange (blk b 4 4) (blk b 16 4) (op == 3)] = false)
    (hlines : ∀ l ∈ linesOf (blk b 4 4) (blk b 16 4), (s.m.tile t.val).found l = .clean ∧ s.m.testing t.val l = false)
    (hq : (s.m.tile t.val).mq.length < 8) :
    mcmdIssue t n op s = .next { s with
      m := (s.m.setTile t.val ((s.m.tile t.val).mortarQueued op b r)).sigs t.val ((s.m.tile t.val).mortarSigs t.val op b r) } := by
  subst hb hr
  have htest : s.m.testingAny t.val (linesOf (blk ((s.m.tile t.val).block n.val) 4 4) (blk ((s.m.tile t.val).block n.val) 16 4)) = false := by
    simpa [Mach.testingAny, List.any_eq_false] using fun l hl => (hlines l hl).2
  have hclean := Tile.routerLines_clean t.val fun l hl => (hlines l hl).1
  refine lift_act_mach ((blockIssue_runs hi (q := (· == op)) (beq_self_eq_true op) 0x2B _).trans ?_)
  simp only [h, hp, if_true, hchk, hsb, htest, Bool.or_false, decide_eq_false (not_le.2 hq), Tile.blockGate_passes hf rfl, hclean]
  by_cases h3 : op = 3
  · subst h3; rfl
  · simp only [Tile.mortarQueued, Tile.mortarSigs, Tile.mortarPackets, if_neg h3]
    rfl
end

/-! ### The packets that leave -/

theorem mem_numbered {k i : Nat} {ps : List Packet} {p : Packet} (h : (numbered k ps)[i]? = some p) :
    ∃ q, ps[i]? = some q ∧ p = { q with id := k + i } := by
  rw [numbered, List.getElem?_mapIdx, Option.map_eq_some_iff] at h
  obtain ⟨q, hq, hp⟩ := h
  exact ⟨q, hq, hp.symm⟩

section
variable {T : Tile} {b : Nat} (h : mcmdFault b = none) (t op r : Nat)
include h

theorem Tile.mortarPackets_length : (T.mortarPackets t op b r).length = (blk b 16 4 / 64 + 7) / 8 := by
  obtain ⟨-, -, -, hmax⟩ := mcmdFault_none h
  exact packetsOf_length (by omega)

/-- The lines of packet `i` of an operation that sends its lines (R206). -/
theorem Tile.mortarPackets_getElem? {i : Nat} {p : Packet} (hp : (T.mortarPackets t op b r)[i]? = some p) :
    ∃ data, p = mortarPacket t T.nextId (mcmdKind op) r (512 * i) data (min 8 (blk b 16 4 / 64 - 8 * i))
      ∧ (op ≠ 3 → data = (List.range (min 8 (blk b 16 4 / 64 - 8 * i))).map fun j =>
          (T.readBytes (blk b 4 4 + 512 * i + 64 * j) 64, false)) := by
  obtain ⟨hlocal, hlen, hpos, -⟩ := mcmdFault_none h
  refine ⟨_, (packetsOf_getElem? hp).trans (by rw [Nat.zero_add]), fun h3 => ?_⟩
  rw [if_neg h3, linesOf_whole hlocal hlen hpos, List.map_map, take_drop_map_range]
  refine List.map_congr_left fun j _ => ?_
  have hline : 64 * (blk b 4 4 / 64 + (8 * i + j)) = blk b 4 4 + 512 * i + 64 * j := by omega
  simp only [Function.comp_apply, hline]
end

/-- Settles O19: a block that issues meets `blockGate`; what passes it leaves as the packets of `packetsOf`. -/
theorem mortarIssue : Obligations.MortarIssue := by
  unfold Obligations.MortarIssue
  intro s t n op hi T b fld r k kind c hc hf
  have hx : exec c s = mcmdIssue t n op s := by
    rcases hc with ⟨rfl, rfl⟩ | ⟨rfl, rfl⟩ | ⟨rfl, rfl⟩ | ⟨rfl, rfl⟩ | ⟨rfl, rfl⟩ <;> rfl
  have hkind : mcmdKind op = kind := by
    rcases hc with ⟨rfl, -⟩ | ⟨rfl, -⟩ | ⟨rfl, -⟩ | ⟨rfl, -⟩ | ⟨rfl, -⟩ <;> rfl
  rw [hx]
  refine ⟨fun off h hnone => mcmd_traps_badBlock hi rfl hf h hnone, fun h4 h1 hd => mcmdFault_localAddr h4 h1 (doneOk_iff.2 hd),
    fun h hp hnone => mcmd_traps_remotePart hi rfl rfl hf h hp hnone, fun h hp hchk hsb hlines =>
      ⟨mcmd_stalls hi rfl rfl hf h hp hchk, fun hq => ?_⟩⟩
  obtain ⟨hlocal, hlen, hpos, -⟩ := mcmdFault_none h
  have hclean : ∀ l ∈ linesOf (blk b 4 4) (blk b 16 4), T.found l = .clean ∧ s.m.testing t.val l = false := by
    rw [linesOf_whole hlocal hlen hpos]
    rintro l hl
    obtain ⟨i, hik, rfl⟩ := List.mem_map.1 hl
    exact hlines i (List.mem_range.1 hik)
  obtain ⟨htiles, -⟩ := Mach.sigs_frame (T.mortarSigs t.val op b r) (s.m.setTile t.val (T.mortarQueued op b r)) t.val
  obtain ⟨hflight, hnext⟩ := Mach.sigs_sent (s.m.setTile t.val (T.mortarQueued op b r)) t.val (T.mortarPackets t.val op b r) 0x0A
    (if op = 3 then (T.mortarPackets t.val op b r).length else blk b 16 4 / 64) 0x0B 1
  have hcount := Tile.mortarPackets_length (T := T) h t.val op r
  refine ⟨_, _, _, mcmd_leaves hi rfl rfl hf h hp hchk hsb hclean hq, htiles, rfl, hkind, rfl, rfl, rfl, hflight, ?_, ?_, fun i p hip => ?_⟩
  · exact List.length_mapIdx.trans hcount
  · exact hnext.trans (congrArg _ hcount)
  · obtain ⟨q, hqi, rfl⟩ := mem_numbered hip
    obtain ⟨data, rfl, hdata⟩ := Tile.mortarPackets_getElem? h t.val op r hqi
    refine ⟨rfl, ?_, rfl, rfl, ?_, rfl, hdata⟩
    · rw [← hkind]; rfl
    · show bits r 0 21 + 512 * i = _
      rw [bits, pow_zero, Nat.div_one]

end Sys2Proof.Machine
end

section
/-! The scratchpad: the checks of an access within one bank, what a read finds, and what a write leaves (R9, R130, R131, R133, R138, R165). -/
namespace Sys2Proof

/-- Entries kept by their keys alone. -/
theorem Map.find_filter_keys {α : Type} (p : Nat → Bool) (m : Map α) (k : Nat) :
    Map.find (m.filter fun e => p e.1) k = if p k then Map.find m k else none := by
  induction m with
  | nil => simp [Map.find]
  | cons e m ih =>
    obtain ⟨j, v⟩ := e
    rw [List.filter_cons]
    by_cases hk : k = j
    · subst hk
      by_cases hp : p k <;> simp [hp, Map.find, ih]
    · by_cases hp : p j <;> simp [hp, Map.find, hk, ih]

namespace Machine

/-! ### Bytes -/

theorem leNat_lt (bs : List Byte) : leNat bs < 256 ^ bs.length := by
  induction bs with
  | nil => exact Nat.one_pos
  | cons b bs ih =>
    have hb := b.isLt
    rw [leNat, List.length_cons, pow_succ']
    omega

theorem Tile.readBytes_length (T : Tile) (addr n : Nat) : (T.readBytes addr n).length = n := by simp [Tile.readBytes, Map.readFrom]

theorem leBytes_getElem {n i : Nat} (v : Nat) (h : i < (leBytes n v).length) : (leBytes n v)[i] = BitVec.ofNat 8 (v / 256 ^ i) :=
  Option.some.inj ((List.getElem?_eq_getElem h).symm.trans (leBytes_getElem? (leBytes_length n v ▸ h) v))

/-- The sign of the low `w` bits extended. -/
theorem sext_eq {w v : Nat} (h0 : 0 < w) (hw : w ≤ 64) (hv : v < 2 ^ w) :
    sext w v = BitVec.ofInt 64 (if v < 2 ^ (w - 1) then (v : Int) else v - 2 ^ w) := by
  have hpow : 2 ^ w = 2 * 2 ^ (w - 1) := by rw [← pow_succ', Nat.sub_add_cancel h0]
  have hint : (BitVec.ofNat w v).toInt = if v < 2 ^ (w - 1) then (v : Int) else v - 2 ^ w := by
    rw [BitVec.toInt_eq_toNat_cond, BitVec.toNat_ofNat, Nat.mod_eq_of_lt hv]
    refine if_congr (by omega) rfl ?_
    rw [Nat.cast_pow]
    rfl
  rw [← hint, ← sx_eq hw]
  rfl

/-! ### Checks -/

/-- A range within one bank that is ON, of a port class allowed and not changing. -/
theorem Tile.check_within {T : Tile} {allow : PortClass → Bool} {addr n : Nat} (hn : 0 < n) (hin : addr % 65536 + n ≤ 65536)
    (hpad : addr + n ≤ padSize) (hpwr : (T.bankAt addr).pwr = .on) (hport : allow (T.bankAt addr).port = true)
    (hchg : (T.bankAt addr).changing = false) (hheld : (T.bankAt addr).held = false) (hscr : (T.bankAt addr).scrub = false) :
    T.check allow addr n = .ok := by
  have hbanks : banksOf addr (Nat.min n (padSize - addr)) = [addr / 65536] := by
    have hmin : Nat.min n (padSize - addr) = n := Nat.min_eq_left (by omega)
    have hone : (addr + n - 1) / 65536 + 1 - addr / 65536 = 1 := by omega
    rw [hmin, banksOf, hone]
    rfl
  unfold Tile.bankAt at *
  have hle : ¬padSize ≤ addr := by omega
  have hlt : ¬padSize < addr + n := by omega
  simp [Tile.check, hle, hlt, hbanks, Tile.firstBad, hpwr, hport, hchg, hheld, hscr]

theorem Tile.sbStall_one {T : Tile} {addr n : Nat} {write : Bool} {first last : Nat} (hf : addr / 64 = first) (hl : (addr + n - 1) / 64 = last)
    (hlen : T.sb.length < 48) (hsb : (T.sb.any fun e => e.conflicts first last write) = false) :
    T.sbStall [lineRange addr n write] = false := by
  subst hf hl
  simp only [Tile.sbStall, List.any_cons, List.any_nil, Bool.or_false, lineRange, hsb, Bool.false_or, List.length_singleton,
    decide_eq_false_iff_not]
  omega

/-! ### Writes -/

section
variable {T : Tile} {addr : Nat} {bs : List Byte}

/-- Bytes written where no bank is pending-scrub read as written, and the others as before. -/
theorem Tile.writeBytes_mem (hmem : Map.wf 0 T.mem = true) (h : ∀ i < bs.length, (T.bankAt (addr + i)).scrub = false) :
    Map.wf 0 (T.writeBytes addr bs).mem = true
      ∧ (∀ i (hi : i < bs.length), Map.get 0 (T.writeBytes addr bs).mem (addr + i) = bs[i])
      ∧ ∀ k, k < addr ∨ addr + bs.length ≤ k → Map.get 0 (T.writeBytes addr bs).mem k = Map.get 0 T.mem k := by
  have hput : (T.writeBytes addr bs).mem = Map.writeFrom 0 T.mem addr bs := Tile.putBytes_clear h
  rw [hput]
  exact ⟨Map.wf_writeFrom _ _ hmem, fun i hi => Map.get_writeFrom_in hmem hi, fun k hk => Map.get_writeFrom_other 0 bs T.mem addr k hk⟩

/-- A word wholly written has good check bits again (R165; log entry 11). -/
theorem Tile.get_wordErr_writeBytes (w : Nat) : Map.get [] (T.writeBytes addr bs).wordErr w
    = if addr ≤ 8 * w ∧ 8 * w + 8 ≤ addr + bs.length then [] else T.wordFlips w := by
  have hfind := Map.find_filter_keys (fun k => decide (8 * k < addr) || decide (addr + bs.length < 8 * k + 8)) T.wordErr w
  show ((Map.find (T.wordErr.filter _) w).getD []) = _
  rw [hfind]
  by_cases hw : addr ≤ 8 * w ∧ 8 * w + 8 ≤ addr + bs.length
  · have hno : ¬((decide (8 * w < addr) || decide (addr + bs.length < 8 * w + 8)) = true) := by simp; omega
    rw [if_pos hw, if_neg hno]; rfl
  · have hyes : (decide (8 * w < addr) || decide (addr + bs.length < 8 * w + 8)) = true := by simp; omega
    rw [if_neg hw, if_pos hyes]; rfl
end

end Machine
end Sys2Proof
end

section
/-! Scalar loads and stores (R165). -/
namespace Sys2Proof.Machine

section
variable {s : State} {t : TileId} {r a : RegNo} {imm : W16} {n : Nat} {write : Bool}

/-- The address of a scalar access. -/
def Tile.scalarAddr (T : Tile) (a : RegNo) (imm : W16) : Nat := (T.getX a.val + BitVec.ofInt 64 imm.toInt).toNat

theorem Tile.scalarAddr_eq (T : Tile) (a : RegNo) (imm : W16) : (T.getX a.val + sx imm).toNat = T.scalarAddr a imm := by
  rw [sx_eq (by decide)]; rfl

theorem Tile.scalarCheck_passes (hn : 0 < n) {addr : W64} (h : s.m.padOk t addr.toNat n write) :
    (s.m.tile t.val).scalarCheck (s.m.ownerPart t.val).compat (s.m.testing t.val (addr.toNat / 64)) addr n write = none := by
  obtain ⟨hline, halign, hpad, hpwr, hport, hchg, hheld, hscr, htest, hlen, hsb, -⟩ := h
  have hok : ¬(if (s.m.ownerPart t.val).compat then addr.toNat % n ≠ 0 else 64 < addr.toNat % 64 + n) := by
    split
    case isTrue hc => exact not_not.2 (halign hc)
    case isFalse => exact not_lt.2 hline
  have hchk : (s.m.tile t.val).check coreAllow addr.toNat n = .ok :=
    Tile.check_within hn (by omega) hpad hpwr (by rw [hport]; rfl) hchg hheld hscr
  have hstall : (s.m.tile t.val).sbStall [lineRange addr.toNat n write] = false := Tile.sbStall_one rfl (by omega) hlen hsb
  simp only [Tile.scalarCheck, if_neg hok, hchk, htest, hstall]
  rfl

theorem loadOp_next (hi : s.m.issues t [r, a]) (hn : 0 < n) (h : s.m.padOk t ((s.m.tile t.val).scalarAddr a imm) n false) (ext : Nat → W64) :
    loadOp t r a imm n ext s = .next (s.withTile t ((s.m.tile t.val).wrote r.val
      (ext (leNat ((s.m.tile t.val).readBytes ((s.m.tile t.val).scalarAddr a imm) n))))) := by
  rw [← Tile.scalarAddr_eq] at h ⊢
  have hclean : (s.m.tile t.val).senseLine t.val (((s.m.tile t.val).getX a.val + sx imm).toNat / 64) = (s.m.tile t.val, [], false) := by
    obtain ⟨-, -, -, -, -, -, -, -, -, -, -, hfound⟩ := h
    simp only [Tile.senseLine, hfound rfl]
  refine issue_quiet hi (by simp) ?_
  simp only [Tile.scalarCheck_passes hn h, hclean, Bool.false_eq_true, if_false, Tile.advance_setX]

theorem storeOp_next (hi : s.m.issues t [r, a]) (hn : 0 < n) (h : s.m.padOk t ((s.m.tile t.val).scalarAddr a imm) n true) :
    storeOp t r a imm n s = .next (s.withTile t ((s.m.tile t.val).writeBytes ((s.m.tile t.val).scalarAddr a imm)
      (leBytes n ((s.m.tile t.val).getX r.val).toNat)).advance) := by
  rw [← Tile.scalarAddr_eq] at h ⊢
  refine issue_quiet hi (by simp) ?_
  simp only [Tile.scalarCheck_passes hn h]
end

/-- Settles O5: an access that its checks let pass reads or writes its bytes and goes on. -/
theorem scalarMemory : Obligations.ScalarMemory := by
  unfold Obligations.ScalarMemory
  refine ⟨fun s t d a imm n hi => ?loads, fun s t v a imm n hi => ?stores⟩
  case loads =>
    intro T addr v wr signed h
    have load : ∀ (ext : Nat → W64) {w : W64}, 0 < n → ext v = w → loadOp t d a imm n ext s = wr w :=
      fun ext _ hn hw => hw ▸ loadOp_next hi hn h ext
    have hv : v < 256 ^ n := (leNat_lt _).trans_eq (by rw [Tile.readBytes_length])
    refine ⟨?_, ?_, ?_, ?_⟩
    · rintro rfl
      exact ⟨load (sext 8) (by decide) (sext_eq (by decide) (by decide) hv), load zext (by decide) rfl⟩
    · rintro rfl
      exact ⟨load (sext 16) (by decide) (sext_eq (by decide) (by decide) hv), load zext (by decide) rfl⟩
    · rintro rfl
      exact ⟨load (sext 32) (by decide) (sext_eq (by decide) (by decide) hv), load zext (by decide) rfl⟩
    · rintro rfl
      exact load zext (by decide) rfl
  case stores =>
    intro T addr h hmem herr c hc
    have hn : 0 < n := by omega
    have hx : exec c s = storeOp t v a imm n s := by
      rcases hc with ⟨rfl, rfl⟩ | ⟨rfl, rfl⟩ | ⟨rfl, rfl⟩ | ⟨rfl, rfl⟩ <;> rfl
    have hlen := leBytes_length n (T.getX v.val).toNat
    have hclear : ∀ i < (leBytes n (T.getX v.val).toNat).length, (T.bankAt (addr + i)).scrub = false := fun i hi => by
      obtain ⟨hline, -, -, -, -, -, -, hscr, -⟩ := h
      have hbank : (addr + i) / 65536 = addr / 65536 := by omega
      rw [Tile.bankAt, hbank]
      exact hscr
    have herrs := Tile.get_wordErr_writeBytes (T := T) (addr := addr) (bs := leBytes n (T.getX v.val).toNat)
    obtain ⟨hwf, hbytes, hframe⟩ := Tile.writeBytes_mem hmem hclear
    rw [hlen] at herrs hframe
    exact ⟨_, _, hx.trans (storeOp_next hi hn h), hwf, herrs, fun i hi => (hbytes i (hlen.symm ▸ hi)).trans (leBytes_getElem _ _), hframe⟩

end Sys2Proof.Machine
end

section
/-! Controller registers (R136, R167, R168). -/
namespace Sys2Proof.Machine

section
variable {s : State} {t : TileId} {x : RegNo} {n : BitVec 12} (hi : s.m.issues t [x])
include hi

/-- A register other than CYCLE, and without an error, is read. -/
theorem crr_next (hbad : (s.m.tile t.val).descBad n.toNat = false) {v : W64} (hv : crRead s.m t.val (s.m.tile t.val) n.toNat = some v)
    (hcycle : n.toNat ≠ 0x8A) : execCrr t x n s = .next (s.withTile t ((s.m.tile t.val).wrote x.val v)) := by
  refine issue_quiet hi (by simp) ?_
  simp only [hbad, hv, if_neg hcycle, Tile.advance_setX]
  rfl

/-- R136. -/
theorem crr_traps_bad (hbad : (s.m.tile t.val).descBad n.toNat = true) (hnone : (s.m.tile t.val).excCause = none) :
    ∃ s', execCrr t x n s = .next s' ∧ s.m.trapped s'.m t .ueLocal (n.setWidth 64) :=
  trapped_of_pending (issue_traps hi (by simp) hnone (if_pos hbad))

theorem crr_traps_unknown (hbad : (s.m.tile t.val).descBad n.toNat = false) (hv : crRead s.m t.val (s.m.tile t.val) n.toNat = none)
    (hnone : (s.m.tile t.val).excCause = none) :
    ∃ s', execCrr t x n s = .next s' ∧ s.m.trapped s'.m t .illegal (encCr x.val 0 n.toNat) := by
  refine trapped_of_pending (issue_traps hi (by simp) hnone (ss := [.exc .illegal none]) ?_)
  simp only [hbad, hv]
  rfl

theorem crw_next {T' : Tile} (hw : crWrite (s.m.tile t.val) n.toNat ((s.m.tile t.val).getX x.val) = some T') :
    execCrw t x n s = .next (s.withTile t T'.advance) := by
  refine issue_quiet hi (by simp) ?_
  simp only [hw]

theorem crw_traps (hw : crWrite (s.m.tile t.val) n.toNat ((s.m.tile t.val).getX x.val) = none) (hnone : (s.m.tile t.val).excCause = none) :
    ∃ s', execCrw t x n s = .next s' ∧ s.m.trapped s'.m t .illegal (encCr x.val 1 n.toNat) := by
  refine trapped_of_pending (issue_traps hi (by simp) hnone (ss := [.exc .illegal none]) ?_)
  simp only [hw]
  rfl
end

/-! ### The map -/

section
variable {m : Mach} {t : Nat} {T : Tile} {n : Nat}

theorem Tile.descBad_outside (h : n < 0x40 ∨ 0x80 ≤ n) : T.descBad n = false := by
  have : ¬(0x40 ≤ n ∧ n < 0x80) := by omega
  simp only [Tile.descBad, Bool.and_eq_false_iff, decide_eq_false_iff_not]
  omega

theorem crRead_grout (h : n < 0x40) : crRead m t T n = some ((Map.get 0 T.grout n).setWidth 64) := if_pos h
theorem crRead_qdesc (h0 : 0x40 ≤ n) (h1 : n < 0x80) : crRead m t T n = some (BitVec.ofNat 64 (T.queueWord (n - 0x40))) :=
  (if_neg (not_lt.2 h0)).trans (if_pos h1)
theorem crRead_id : crRead m t T 0x80
    = some (BitVec.ofNat 64 (2 ^ 32 * t + 2 ^ 16 * (t / 26400) + 2 ^ 8 * (t % 26400 / 160) + t % 160)) := rfl
theorem crRead_excInfo : crRead m t T 0x92 = some T.excInfo := rfl
theorem crRead_unknown (h : 0xA8 ≤ n) : crRead m t T n = none := by
  simp (disch := omega) only [crRead, if_neg]

variable {v : W64}

theorem crWrite_grout {w : Nat} (hw : v.toNat % 2 ^ 32 = w) (h : n < 0x40) (hv : w % 512 ≤ 256) : crWrite T n v = some { T with
    grout := Map.set 0 T.grout n (BitVec.ofNat 32 (w / 2 ^ 16 % 2 ^ 15 * 2 ^ 16 + w % 512)) } := by
  have hlow : bits w 0 9 = w % 512 := by rw [bits, pow_zero, Nat.div_one]; rfl
  have hok : ¬256 < bits w 0 9 := not_lt.2 (hlow ▸ hv)
  subst hw
  rw [← hlow, Nat.mul_comm _ (2 ^ 16)]
  exact (if_pos h).trans (if_neg hok)
theorem crWrite_qdesc {w : Nat} (hw : v.toNat % 2 ^ 32 = w) (h0 : 0x40 ≤ n) (h1 : n < 0x80) (hv : w % 2 ^ 13 < 4096) :
    crWrite T n v = some { T with
      qdesc := Map.set 0 T.qdesc (n - 0x40) (BitVec.ofNat 32 (w / 2 ^ 31 * 2 ^ 31 + w / 2 ^ 16 % 2 ^ 15 * 2 ^ 16 + w % 2 ^ 13))
      qdescErr := Map.erase T.qdescErr (n - 0x40) } := by
  have hlow : bits w 0 13 = w % 2 ^ 13 := by rw [bits, pow_zero, Nat.div_one]
  have htop : bits w 31 1 = w / 2 ^ 31 := Nat.mod_eq_of_lt (by omega)
  have hok : ¬4095 < bits w 0 13 := by rw [hlow]; omega
  subst hw
  rw [← hlow, ← htop, Nat.mul_comm _ (2 ^ 16), Nat.mul_comm _ (2 ^ 31)]
  exact (if_neg (not_lt.2 h0)).trans ((if_pos h1).trans (if_neg hok))
theorem crWrite_readOnly (h0 : 0x80 ≤ n) (h1 : n < 0x89) : crWrite T n v = some T := by
  have hk : crKnown n = true := by simp [crKnown]; omega
  simp (disch := omega) only [crWrite, if_neg, hk, if_true]
theorem crWrite_unknown (h : 0xA8 ≤ n) : crWrite T n v = none := by
  have hk : ¬crKnown n = true := by simp [crKnown]; omega
  simp (disch := omega) only [crWrite, if_neg]
end

/-- Settles O6: the number of the register picks its row of the map, and CRR and CRW do what the row says. -/
theorem controllerRegisters : Obligations.ControllerRegisters := by
  unfold Obligations.ControllerRegisters
  intro s t x n hi T w wr
  refine ⟨fun h => ⟨?_, fun hw => ?_⟩, fun h0 h1 hbad => ?_, fun hbad hnone => crr_traps_bad hi hbad hnone, fun h0 h1 hw => ?_, fun h => ?_,
    fun h => ?_, fun h0 h1 => crw_next hi (crWrite_readOnly h0 h1), fun h hnone c hc => ?_⟩
  · rw [BitVec.ofNat_toNat]
    exact crr_next hi (Tile.descBad_outside (.inl h)) (crRead_grout h) (by omega)
  · exact crw_next hi (crWrite_grout rfl h hw)
  · exact crr_next hi hbad (crRead_qdesc h0 h1) (by omega)
  · exact crw_next hi (crWrite_qdesc rfl h0 h1 hw)
  · exact crr_next hi (Tile.descBad_outside (.inr h.ge)) (h ▸ crRead_id) (by omega)
  · exact crr_next hi (Tile.descBad_outside (.inr (by omega))) (h ▸ crRead_excInfo) (by omega)
  · rcases hc with rfl | rfl
    · obtain ⟨s', hx, htrap⟩ := crr_traps_unknown hi (Tile.descBad_outside (.inr (by omega))) (crRead_unknown h) hnone
      exact ⟨s', _, hx, htrap⟩
    · obtain ⟨s', hx, htrap⟩ := crw_traps hi (crWrite_unknown h) hnone
      exact ⟨s', _, hx, htrap⟩

end Sys2Proof.Machine
end

section
/-! The vector unit: an instruction issued to an empty queue and executed, and registers as elements (R122, R135, R158, R170, R171). -/
namespace Sys2Proof

theorem VType.width_dvd (ty : VType) : ty.width ∣ 1024 := by cases ty <;> decide
theorem VType.width_pos (ty : VType) : 0 < ty.width := by cases ty <;> decide
theorem VType.width_mul (ty : VType) : ty.width * (1024 / ty.width) = 1024 := Nat.mul_div_cancel' ty.width_dvd

namespace Machine

/-! ### The queue with one entry -/

theorem Mach.vq_blankAt (m : Mach) (t : Nat) : (m.blankAt t).vq = [] := by
  unfold Mach.blankAt Mach.blank
  split
  · rfl
  · split <;> rfl

/-- A tile whose vector unit has an entry is listed, and so reads as it was written. -/
theorem State.tile_withTile_queued {T1 : Tile} (h : T1.vq ≠ []) (s : State) (t : TileId) : (s.withTile t T1).m.tile t.val = T1 :=
  Map.get_set_listed (fun e : T1 = s.m.blankAt t.val => h (e ▸ s.m.vq_blankAt t.val)) s.m.tiles t.val

/-- The scalar operand that an instruction reads at issue (R122). -/
def Tile.scalarOf (T : Tile) (fn : VFn) (va vb : Nat) : W64 :=
  match fn with
  | .bcast => T.getX va
  | .ext => T.getX vb
  | _ => 0

section
variable {s : State} {t : TileId} {fn : VFn} {vd va vb : RegNo} {pg : Fin 8} {ty : VType}

/-- The tile with the instruction alone in the vector unit's queue. -/
def Tile.vqOne (T : Tile) (e : VEntry) : Tile := { T with pc := T.pc + 4, vq := [e] }

theorem vop_next (hi : s.m.issues t [vd, va, vb]) (hq : (s.m.tile t.val).vq = []) (hl : vopLegal fn vd.val va.val vb.val ty = true) :
    vop fn t vd va vb pg ty s = .next (s.withTile t ((s.m.tile t.val).vqOne
      (.op (s.m.tile t.val).pc fn vd va vb pg ty ((s.m.tile t.val).scalarOf fn va.val vb.val)))) := by
  have hfull : vqFull (s.m.tile t.val) = false := by simp [vqFull, hq]
  refine issue_quiet hi ?_ ?_
  · cases fn <;> simp
  · simp only [hl, hfull, hq]
    rfl

theorem vectorExecute_op {T1 T2 : Tile} {pc : Nat} {xs : W64} (hq : T1.vq = [.op pc fn vd va vb pg ty xs])
    (hx : { T1 with vq := [] }.execOp (s.m.ownerPart t.val).compat pc fn vd.val va.val vb.val pg.val ty xs = (T2, [])) :
    execVectorExecute t (s.withTile t T1) = .next ((s.withTile t T1).withTile t T2) := by
  have htile : (s.withTile t T1).m.tile t.val = T1 := State.tile_withTile_queued (by simp [hq]) s t
  refine lift_act_mach (T := T2) (ss := []) ?_
  rw [htile]
  simp only [hq]
  exact hx

/-- An instruction issued to an empty queue and then executed. -/
theorem vop_runs (hi : s.m.issues t [vd, va, vb]) (hq : (s.m.tile t.val).vq = []) (hl : vopLegal fn vd.val va.val vb.val ty = true)
    {T2 : Tile} (hx : (s.m.tile t.val).advance.execOp (s.m.ownerPart t.val).compat (s.m.tile t.val).pc fn vd.val va.val vb.val pg.val ty
      ((s.m.tile t.val).scalarOf fn va.val vb.val) = (T2, [])) :
    ∃ T1, vop fn t vd va vb pg ty s = .next (s.withTile t T1)
      ∧ execVectorExecute t (s.withTile t T1) = .next ((s.withTile t T1).withTile t T2) := by
  have hempty : { (s.m.tile t.val).vqOne (.op (s.m.tile t.val).pc fn vd va vb pg ty ((s.m.tile t.val).scalarOf fn va.val vb.val)) with vq := [] }
      = (s.m.tile t.val).advance := by
    unfold Tile.vqOne Tile.advance
    rw [hq]
  exact ⟨_, vop_next hi hq hl, vectorExecute_op rfl (hempty ▸ hx)⟩
end

/-! ### Results that are vectors -/

/-- Functions whose result is a vector register (R171). -/
def VFn.isVector : VFn → Bool
  | .cmpeq | .cmplt | .cmple | .pand | .pnot | .ext => false
  | _ => true

section
variable {T : Tile} {vd va vb : Nat} (ha : T.vPoisoned va = false) (hb : T.vPoisoned vb = false) (hd : T.vPoisoned vd = false)
include ha hb hd

theorem Tile.srcPoison_clean (fn : VFn) : T.srcPoison fn vd va vb = false := by
  unfold Tile.srcPoison
  split <;> simp [ha, hb, hd]

theorem Tile.execOp_vector {fn : VFn} (hfn : fn.isVector = true) (compat : Bool) (pc pg : Nat) (ty : VType) (xs : W64) :
    T.execOp compat pc fn vd va vb pg ty xs = (T.setV vd (BitVec.ofNat 1024
      (vecResult compat fn ty (T.getP pg) (T.getV vd).toNat (T.getV va).toNat (T.getV vb).toNat xs.toNat vb)) false, []) := by
  have hsrc := Tile.srcPoison_clean ha hb hd fn
  unfold Tile.execOp
  split
  case h_7 => simp only [hsrc, hd, Bool.and_false, Bool.or_self]
  all_goals cases hfn
end

/-! ### Elements -/

theorem bits_elem (v i w : Nat) : bits v (i * w) w = v / 2 ^ (w * i) % 2 ^ w := by rw [bits, Nat.mul_comm]
theorem bits_lt (v lo w : Nat) : bits v lo w < 2 ^ w := Nat.mod_lt _ (Nat.two_pow_pos w)

theorem ofElems_lt {w : Nat} {l : List Nat} (h : ∀ e ∈ l, e < 2 ^ w) : ofElems w l < 2 ^ (w * l.length) := by
  induction l with
  | nil => exact Nat.one_pos
  | cons e l ih =>
    obtain ⟨he, hl⟩ := List.forall_mem_cons.1 h
    have := ih hl
    rw [ofElems, List.length_cons, Nat.mul_succ, Nat.add_comm, pow_add]
    calc 2 ^ w * ofElems w l + e < 2 ^ w * ofElems w l + 2 ^ w := Nat.add_lt_add_left he _
      _ = 2 ^ w * (ofElems w l + 1) := by ring
      _ ≤ 2 ^ w * 2 ^ (w * l.length) := Nat.mul_le_mul_left _ this
      _ = 2 ^ (w * l.length) * 2 ^ w := Nat.mul_comm _ _

/-- Element `i` of a register made of elements. -/
theorem ofElems_elem {w : Nat} {l : List Nat} (h : ∀ e ∈ l, e < 2 ^ w) {i : Nat} (hi : i < l.length) :
    ofElems w l / 2 ^ (w * i) % 2 ^ w = l[i] := by
  induction l generalizing i with
  | nil => exact absurd hi (Nat.not_lt_zero i)
  | cons e l ih =>
    obtain ⟨he, hl⟩ := List.forall_mem_cons.1 h
    cases i with
    | zero => simp [ofElems, Nat.mod_eq_of_lt he]
    | succ i =>
      have hdrop : (e + 2 ^ w * ofElems w l) / 2 ^ w = ofElems w l := by
        rw [Nat.add_mul_div_left _ _ (Nat.two_pow_pos w), Nat.div_eq_of_lt he, Nat.zero_add]
      rw [ofElems, Nat.mul_succ, Nat.add_comm (w * i), pow_add, ← Nat.div_div_eq_div_mul, hdrop]
      exact ih hl (Nat.lt_of_succ_lt_succ hi)

/-- A register made of the elements `g i`, read again. -/
theorem register_elem (ty : VType) {g : Nat → Nat} (hg : ∀ i, g i < 2 ^ ty.width) {i : Nat} (hi : i < 1024 / ty.width) :
    (BitVec.ofNat 1024 (ofElems ty.width ((List.range (1024 / ty.width)).map g))).toNat / 2 ^ (ty.width * i) % 2 ^ ty.width = g i := by
  have hall : ∀ e ∈ (List.range (1024 / ty.width)).map g, e < 2 ^ ty.width := by
    intro e he
    obtain ⟨j, -, rfl⟩ := List.mem_map.1 he
    exact hg j
  have hlt := ofElems_lt hall
  rw [List.length_map, List.length_range] at hlt
  have hnat := (BitVec.toNat_ofNat _ _).trans (Nat.mod_eq_of_lt hlt)
  rw [ty.width_mul] at hnat
  rw [hnat, ofElems_elem hall (by simpa using hi)]
  simp

theorem map_zipIdx_range {α β : Type} (n : Nat) (g : Nat → α) (h : α × Nat → β) :
    (((List.range n).map g).zipIdx).map h = (List.range n).map fun i => h (g i, i) := by
  refine List.ext_getElem (by simp) fun i h1 h2 => ?_
  simp

theorem mergeElems_elems (p : W128) (w d : Nat) (f : Nat → Nat) :
    mergeElems p w (elems w d) f = (List.range (1024 / w)).map fun i => if active p w i then f i else bits d (i * w) w :=
  map_zipIdx_range _ _ _

/-- R170: active elements from `f`, the others as they were. -/
theorem merged_elem (ty : VType) (p : W128) (d : Nat) {f : Nat → Nat} (hf : ∀ i, f i < 2 ^ ty.width) {i : Nat} (hi : i < 1024 / ty.width) :
    (BitVec.ofNat 1024 (ofElems ty.width (mergeElems p ty.width (elems ty.width d) f))).toNat / 2 ^ (ty.width * i) % 2 ^ ty.width
      = if active p ty.width i then f i else d / 2 ^ (ty.width * i) % 2 ^ ty.width := by
  rw [mergeElems_elems, register_elem ty (fun j => ?_) hi, bits_elem]
  split
  · exact hf j
  · exact bits_lt _ _ _

end Machine
end Sys2Proof
end

section
/-! Integer vector results (R170, R171). -/
namespace Sys2Proof.Machine

/-! ### Elements as integers -/

/-- An element of width `w` as a signed integer. -/
def elemInt (w n : Nat) : Int := if n < 2 ^ (w - 1) then (n : Int) else n - 2 ^ w

theorem toS_eq (w n : Nat) : toS w n = elemInt w n := by
  unfold toS elemInt
  by_cases h : n < 2 ^ (w - 1)
  · rw [if_pos h, if_neg (not_le.2 h)]
  · rw [if_neg h, if_pos (not_lt.1 h)]

theorem elemInt_modEq (w n : Nat) : elemInt w n ≡ n [ZMOD (2 ^ w : Nat)] := by
  unfold elemInt
  split
  · rfl
  · exact Int.modEq_iff_dvd.2 ⟨1, by push_cast; ring⟩

theorem ofS_lt (w : Nat) (z : Int) : ofS w z < 2 ^ w := by
  have hpos : (0 : Int) < (2 ^ w : Nat) := by exact_mod_cast Nat.two_pow_pos w
  have hlt := Int.emod_lt_of_pos z hpos
  have hge := Int.emod_nonneg z hpos.ne'
  unfold ofS
  omega
theorem ofS_congr {w : Nat} {y z : Int} (h : y ≡ z [ZMOD (2 ^ w : Nat)]) : ofS w y = ofS w z := congrArg Int.toNat h
theorem ofS_natCast (w n : Nat) : ofS w n = n % 2 ^ w := rfl
theorem ofS_elemInt {w n : Nat} (h : n < 2 ^ w) : ofS w (elemInt w n) = n :=
  (ofS_congr (elemInt_modEq w n)).trans ((ofS_natCast w n).trans (Nat.mod_eq_of_lt h))

section
variable {w a b : Nat}

theorem intOp_add : intOp .add w a b = ofS w (elemInt w a + elemInt w b) :=
  (ofS_congr ((elemInt_modEq w a).add (elemInt_modEq w b))).symm
theorem intOp_sub : intOp .sub w a b = ofS w (elemInt w a - elemInt w b) :=
  (ofS_congr ((elemInt_modEq w a).sub (elemInt_modEq w b))).symm
theorem intOp_mul : intOp .mul w a b = ofS w (elemInt w a * elemInt w b) :=
  (ofS_congr ((elemInt_modEq w a).mul (elemInt_modEq w b))).symm
theorem intOp_adds : intOp .adds w a b = ofS w (satInt w (elemInt w a + elemInt w b)) := by simp only [intOp, toS_eq]
theorem intOp_abs : intOp .abs w a b = ofS w |elemInt w a| := by simp only [intOp, toS_eq, Int.natCast_natAbs]
theorem intOp_sar : intOp .sar w a b = ofS w (elemInt w a / (2 ^ (b % w) : Nat)) := by simp only [intOp, toS_eq]

variable (ha : a < 2 ^ w) (hb : b < 2 ^ w)
include ha hb

theorem intOp_min : intOp .min w a b = ofS w (min (elemInt w a) (elemInt w b)) := by
  simp only [intOp, toS_eq]
  split
  case isTrue h => rw [min_eq_left h, ofS_elemInt ha]
  case isFalse h => rw [min_eq_right (not_le.1 h).le, ofS_elemInt hb]
theorem intOp_max : intOp .max w a b = ofS w (max (elemInt w a) (elemInt w b)) := by
  simp only [intOp, toS_eq]
  split
  case isTrue h => rw [max_eq_right h, ofS_elemInt hb]
  case isFalse h => rw [max_eq_left (not_le.1 h).le, ofS_elemInt ha]

/-- R170: a result keeps the width of its elements. -/
theorem intOp_lt (fn : VFn) : intOp fn w a b < 2 ^ w := by
  unfold intOp
  split
  case h_1 => exact Nat.mod_lt _ (Nat.two_pow_pos w)
  case h_2 => exact ofS_lt _ _
  case h_3 => exact Nat.mod_lt _ (Nat.two_pow_pos w)
  case h_4 => split <;> assumption
  case h_5 => split <;> assumption
  case h_6 => exact ofS_lt _ _
  case h_7 => exact ofS_lt _ _
  case h_8 => exact Nat.and_lt_two_pow _ hb
  case h_9 => exact Nat.or_lt_two_pow ha hb
  case h_10 => exact Nat.xor_lt_two_pow ha hb
  case h_11 => exact Nat.mod_lt _ (Nat.two_pow_pos w)
  case h_12 => exact (Nat.div_le_self _ _).trans_lt ha
  case h_13 => exact ofS_lt _ _
  case h_14 => exact ha
end

/-! ### Element by element -/

/-- Functions whose elements are each a function of the elements of va and vb (R171). -/
def VFn.elementwise (fn : VFn) : Bool :=
  fn.isVector && match fn with
    | .sel | .cvt | .redsum | .redmax | .bcast => false
    | _ => true

theorem VFn.isVector_of_elementwise {fn : VFn} (h : fn.elementwise = true) : fn.isVector = true :=
  (Bool.and_eq_true_iff.1 h).1

theorem vecResult_elementwise {fn : VFn} (h : fn.elementwise = true) {ty : VType} (hint : ty.isInt = true) (compat : Bool) (p : W128)
    (d a b xs vb : Nat) : vecResult compat fn ty p d a b xs vb = ofElems ty.width (mergeElems p ty.width (elems ty.width d) fun i =>
      intOp fn ty.width (bits a (i * ty.width) ty.width) (bits b (i * ty.width) ty.width)) := by
  unfold vecResult
  split
  case h_6 => simp only [elemOp, hint, if_true]
  all_goals cases h

section
variable {s : State} {t : TileId} {vd va vb : RegNo} {pg : Fin 8} {ty : VType}

/-- An instruction whose result is a vector, from clean registers, issued to an empty queue and then executed. -/
theorem vector_runs {fn : VFn} (hi : s.m.issues t [vd, va, vb]) (hq : (s.m.tile t.val).vq = [])
    (hl : vopLegal fn vd.val va.val vb.val ty = true) (hfn : fn.isVector = true) (ha : (s.m.tile t.val).vPoisoned va.val = false)
    (hb : (s.m.tile t.val).vPoisoned vb.val = false) (hd : (s.m.tile t.val).vPoisoned vd.val = false) :
    ∃ T1, vop fn t vd va vb pg ty s = .next (s.withTile t T1)
      ∧ execVectorExecute t (s.withTile t T1) = .next ((s.withTile t T1).withTile t ((s.m.tile t.val).advance.setV vd.val
        (BitVec.ofNat 1024 (vecResult (s.m.ownerPart t.val).compat fn ty ((s.m.tile t.val).getP pg.val) ((s.m.tile t.val).getV vd.val).toNat
          ((s.m.tile t.val).getV va.val).toNat ((s.m.tile t.val).getV vb.val).toNat
          ((s.m.tile t.val).scalarOf fn va.val vb.val).toNat vb.val)) false)) :=
  vop_runs hi hq hl (Tile.execOp_vector (T := (s.m.tile t.val).advance) ha hb hd hfn _ _ _ _ _)
end

/-- Settles O8: an instruction of R171 gives each active element `intOp` of the elements, which is the table's function. -/
theorem vectorInteger : Obligations.VectorInteger := by
  unfold Obligations.VectorInteger
  intro s t vd va vb pg ty hi T w el sg wrap clamp gives hint hq ha hb hd
  have row : ∀ (fn : VFn) {c : Instr} {f : Nat → Nat → Nat}, exec c s = vop fn t vd va vb pg ty s → fn.elementwise = true →
      vopLegal fn vd.val va.val vb.val ty = true → (∀ a b, a < 2 ^ w → b < 2 ^ w → intOp fn w a b = f a b) → gives c f := by
    intro fn c f hc hfn hl hf
    obtain ⟨T1, hissue, hexec⟩ := vector_runs (pg := pg) hi hq hl (VFn.isVector_of_elementwise hfn) ha hb hd
    refine ⟨T1, _, hc.trans hissue, hexec, fun i hi => ?_⟩
    have hlt : ∀ i, intOp fn w (bits (T.getV va.val).toNat (i * w) w) (bits (T.getV vb.val).toNat (i * w) w) < 2 ^ w :=
      fun i => intOp_lt (bits_lt _ _ _) (bits_lt _ _ _) fn
    rw [vecResult_elementwise hfn hint]
    refine (merged_elem ty _ _ hlt hi).trans ?_
    rw [hf _ _ (bits_lt _ _ _) (bits_lt _ _ _), bits_elem, bits_elem]
    rfl
  refine ⟨row .add rfl rfl ?_ fun _ _ _ _ => intOp_add, row .sub rfl rfl ?_ fun _ _ _ _ => intOp_sub, row .mul rfl rfl ?_ fun _ _ _ _ => intOp_mul,
    row .min rfl rfl ?_ fun _ _ => intOp_min, row .max rfl rfl ?_ fun _ _ => intOp_max, row .adds rfl rfl ?_ fun _ _ _ _ => intOp_adds,
    row .abs rfl rfl ?_ fun _ _ _ _ => intOp_abs, row .and rfl rfl ?_ fun _ _ _ _ => rfl, row .or rfl rfl ?_ fun _ _ _ _ => rfl,
    row .xor rfl rfl ?_ fun _ _ _ _ => rfl, row .shl rfl rfl ?_ fun _ _ _ _ => rfl, row .shr rfl rfl ?_ fun _ _ _ _ => rfl,
    row .sar rfl rfl ?_ fun _ _ _ _ => intOp_sar⟩
  all_goals simp [vopLegal, VFn.typeOk, VFn.fieldsOk, hint]

end Sys2Proof.Machine
end

section
/-! Vector moves, conversions between integers, comparisons and predicates (R158, R171, R172). -/
namespace Sys2Proof

theorem VType.ofCode_code (ty : VType) : VType.ofCode ty.code = ty := by cases ty <;> rfl

namespace Machine

/-! ### Moves and conversions -/

theorem vecResult_sel_elem (compat : Bool) (ty : VType) (p : W128) (d a b xs vb : Nat) {i : Nat} (hi : i < 1024 / ty.width) :
    (BitVec.ofNat 1024 (vecResult compat .sel ty p d a b xs vb)).toNat / 2 ^ (ty.width * i) % 2 ^ ty.width
      = if active p ty.width i then a / 2 ^ (ty.width * i) % 2 ^ ty.width else b / 2 ^ (ty.width * i) % 2 ^ ty.width := by
  have hres : vecResult compat .sel ty p d a b xs vb = ofElems ty.width ((List.range (1024 / ty.width)).map fun i =>
      if active p ty.width i then bits a (i * ty.width) ty.width else bits b (i * ty.width) ty.width) :=
    congrArg _ (map_zipIdx_range _ _ _)
  rw [hres, register_elem ty (fun j => ?_) hi, bits_elem, bits_elem]
  split <;> exact bits_lt _ _ _

theorem cvtElem_int {src dst : VType} (hs : src.isInt = true) (hd : dst.isInt = true) (compat : Bool) (e : Nat) :
    cvtElem compat src dst e = ofS dst.width (satInt dst.width (elemInt src.width e)) := by
  simp only [cvtElem, hs, hd, if_true, toS_eq]

/-- R172: the elements that both types hold are converted, with saturation. -/
theorem vecResult_cvt_elem {ty src : VType} (hd : ty.isInt = true) (hs : src.isInt = true) (compat : Bool) (p : W128) (d a b xs : Nat) {i : Nat}
    (hi : i < 1024 / ty.width) :
    (BitVec.ofNat 1024 (vecResult compat .cvt ty p d a b xs src.code)).toNat / 2 ^ (ty.width * i) % 2 ^ ty.width
      = if i < 1024 / max ty.width src.width ∧ active p ty.width i = true then
          ofS ty.width (satInt ty.width (elemInt src.width (a / 2 ^ (src.width * i) % 2 ^ src.width)))
        else d / 2 ^ (ty.width * i) % 2 ^ ty.width := by
  have hres : vecResult compat .cvt ty p d a b xs src.code = ofElems ty.width ((List.range (1024 / ty.width)).map fun i =>
      if i < 1024 / max ty.width src.width ∧ active p ty.width i = true then
        cvtElem compat src ty (bits a (i * src.width) src.width) else bits d (i * ty.width) ty.width) := by
    simp only [vecResult, VType.ofCode_code]
    exact congrArg _ (map_zipIdx_range _ _ _)
  rw [hres, register_elem ty (fun j => ?_) hi, cvtElem_int hs hd, bits_elem, bits_elem]
  split
  · rw [cvtElem_int hs hd]; exact ofS_lt _ _
  · exact bits_lt _ _ _

/-! ### Predicates -/

/-- A number whose bits are set one by one. -/
theorem testBit_foldl_bits (c : Nat → Bool) (n : Nat) :
    (List.range n).foldl (fun v i => if c i then v + 2 ^ i else v) 0 < 2 ^ n
      ∧ ∀ j, ((List.range n).foldl (fun v i => if c i then v + 2 ^ i else v) 0).testBit j = (decide (j < n) && c j) := by
  induction n with
  | zero => simp
  | succ n ih =>
    obtain ⟨hlt, hbit⟩ := ih
    rw [List.range_succ, List.foldl_concat]
    have hpow : 2 ^ (n + 1) = 2 ^ n + 2 ^ n := by rw [pow_succ, Nat.mul_two]
    cases hc : c n with
    | true =>
      rw [if_pos rfl, Nat.add_comm, hpow]
      refine ⟨by omega, fun j => ?_⟩
      rcases lt_trichotomy j n with hj | rfl | hj
      · simp [Nat.testBit_two_pow_add_gt hj, hbit, hj, Nat.lt_succ_of_lt hj]
      · simp [Nat.testBit_two_pow_add_eq, hbit, hc]
      · have hle : 2 ^ (n + 1) ≤ 2 ^ j := Nat.pow_le_pow_right (by decide) hj
        rw [Nat.testBit_lt_two_pow (by omega), decide_eq_false (by omega), Bool.false_and]
    | false =>
      rw [if_neg Bool.false_ne_true, hpow]
      refine ⟨by omega, fun j => ?_⟩
      rw [hbit]
      by_cases hj : j = n
      · simp [hj, hc]
      · have hlt : j < n ↔ j < n + 1 := by omega
        simp only [hlt]

theorem cmpResult_getLsbD (fn : VFn) (ty : VType) (p : W128) (a b : Nat) {j : Nat} (hj : j < 128) :
    (cmpResult fn ty p a b).getLsbD j = (active p ty.width (j / (ty.width / 8))
      && cmpOp fn ty (bits a (j / (ty.width / 8) * ty.width) ty.width) (bits b (j / (ty.width / 8) * ty.width) ty.width)) := by
  obtain ⟨-, hbit⟩ := testBit_foldl_bits (fun i => active p ty.width (i / (ty.width / 8))
      && cmpOp fn ty (bits a (i / (ty.width / 8) * ty.width) ty.width) (bits b (i / (ty.width / 8) * ty.width) ty.width)) 128
  rw [cmpResult, BitVec.getLsbD_ofNat, hbit j, decide_eq_true hj, Bool.true_and, Bool.true_and]

/-- The tile with a predicate register written and the next instruction to come: a write to p0 is discarded (R158). -/
def Tile.wroteP (T : Tile) (d : Nat) (v : W128) : Tile := { T with pc := T.pc + 4, p := if d = 0 then T.p else Map.set 0 T.p d v }

theorem Tile.setP_advance (T : Tile) (d : Nat) (v : W128) : T.advance.setP d v = T.wroteP d v := by
  unfold Tile.setP Tile.advance Tile.wroteP
  split <;> rfl

section
variable {s : State} {t : TileId} {vd va vb : RegNo} {pg : Fin 8} {ty : VType} (hi : s.m.issues t [vd, va, vb])
  (hq : (s.m.tile t.val).vq = [])
include hi hq

theorem predicate_runs {fn : VFn} (hl : vopLegal fn vd.val va.val vb.val ty = true) {v : W128}
    (hx : (s.m.tile t.val).advance.execOp (s.m.ownerPart t.val).compat (s.m.tile t.val).pc fn vd.val va.val vb.val pg.val ty
      ((s.m.tile t.val).scalarOf fn va.val vb.val) = ((s.m.tile t.val).advance.setP vd.val v, [])) :
    ∃ T1, vop fn t vd va vb pg ty s = .next (s.withTile t T1)
      ∧ execVectorExecute t (s.withTile t T1) = .next ((s.withTile t T1).withTile t ((s.m.tile t.val).wroteP vd.val v)) :=
  vop_runs hi hq hl (Tile.setP_advance _ _ _ ▸ hx)

theorem compare_runs {fn : VFn} (hfn : fn = .cmpeq ∨ fn = .cmplt ∨ fn = .cmple) (hl : vopLegal fn vd.val va.val vb.val ty = true)
    (ha : (s.m.tile t.val).vPoisoned va.val = false) (hb : (s.m.tile t.val).vPoisoned vb.val = false) :
    ∃ T1, vop fn t vd va vb pg ty s = .next (s.withTile t T1)
      ∧ execVectorExecute t (s.withTile t T1) = .next ((s.withTile t T1).withTile t ((s.m.tile t.val).wroteP vd.val
        (cmpResult fn ty ((s.m.tile t.val).getP pg.val) ((s.m.tile t.val).getV va.val).toNat ((s.m.tile t.val).getV vb.val).toNat))) := by
  have hclean : ¬((s.m.tile t.val).vPoisoned va.val || (s.m.tile t.val).vPoisoned vb.val) = true := by simp [ha, hb]
  refine predicate_runs hi hq hl ?_
  rcases hfn with rfl | rfl | rfl <;> exact if_neg hclean

theorem ext_runs (hint : ty.isInt = true) (hd : vd.val ≠ 0) (ha : (s.m.tile t.val).vPoisoned va.val = false) :
    ∃ T1, vop .ext t vd va vb pg ty s = .next (s.withTile t T1)
      ∧ execVectorExecute t (s.withTile t T1) = .next ((s.withTile t T1).withTile t { s.m.tile t.val with
        pc := (s.m.tile t.val).pc + 4
        x := Map.set 0 (s.m.tile t.val).x vd.val (BitVec.ofInt 64 (elemInt ty.width
          (((s.m.tile t.val).getV va.val).toNat / 2 ^ (ty.width * (((s.m.tile t.val).getX vb.val).toNat % (1024 / ty.width))) % 2 ^ ty.width))) }) := by
  have hclean : ¬(s.m.tile t.val).vPoisoned va.val = true := by simp [ha]
  refine vop_runs hi hq (by simp [vopLegal, VFn.typeOk, VFn.fieldsOk]) ((if_neg hclean).trans ?_)
  rw [← bits_elem, ← toS_eq, if_pos hint]
  simp only [Tile.setX, if_neg hd]
  rfl
end

/-! ### The obligation -/

/-- Settles O10: a move or conversion is a vector result, a comparison or combination a predicate result, and VEXT a scalar one. -/
theorem vectorMovesAndPredicates : Obligations.VectorMovesAndPredicates := by
  unfold Obligations.VectorMovesAndPredicates
  refine ⟨fun s t vd va vb pg ty src hi => ?moves, fun s t vd va vb pg ty hi => ?predicates⟩
  case moves =>
    intro T w el sg on d a b gives hq ha hb hd
    refine ⟨?_, fun hint => ?_, fun hint hsrc hvb => ?_, fun hint hvd => ext_runs hi hq hint hvd ha⟩
    · obtain ⟨T1, hissue, hexec⟩ := vector_runs (fn := .sel) (pg := pg) (ty := ty) hi hq (by simp [vopLegal, VFn.typeOk, VFn.fieldsOk]) rfl ha hb hd
      exact ⟨T1, _, hissue, hexec, fun i hi => vecResult_sel_elem _ _ _ _ _ _ _ _ hi⟩
    · obtain ⟨T1, hissue, hexec⟩ := vector_runs (fn := .bcast) (pg := pg) (ty := ty) hi hq (by simp [vopLegal, VFn.typeOk, VFn.fieldsOk, hint])
        rfl ha hb hd
      exact ⟨T1, _, hissue, hexec, fun i hi => merged_elem ty _ _ (fun _ => Nat.mod_lt _ (Nat.two_pow_pos _)) hi⟩
    · have hcode : vb.val < 8 := by rw [hvb]; cases src <;> decide
      obtain ⟨T1, hissue, hexec⟩ := vector_runs (fn := .cvt) (pg := pg) (ty := ty) hi hq (by simp [vopLegal, VFn.typeOk, VFn.fieldsOk, hcode])
        rfl ha hb hd
      refine ⟨T1, _, hissue, hexec, fun i hi => ?_⟩
      rw [hvb]
      exact vecResult_cvt_elem hint hsrc _ _ _ _ _ _ hi
  case predicates =>
    intro T w sg gives cmp hq hvd
    refine ⟨fun hint ha hb => ?_, fun hva hvb => ?_, fun hva hvb => ?_⟩
    · have row : ∀ (fn : VFn) (c : Instr) (r : Int → Int → Bool), exec c s = vop fn t vd va vb pg ty s → (fn = .cmpeq ∨ fn = .cmplt ∨ fn = .cmple) →
          (∀ a b, cmpOp fn ty a b = r (elemInt w a) (elemInt w b)) → cmp c r := by
        intro fn c r hc hfn hr
        have hl : vopLegal fn vd.val va.val vb.val ty = true := by
          rcases hfn with rfl | rfl | rfl <;> simp [vopLegal, VFn.typeOk, VFn.fieldsOk, hint, hvd]
        obtain ⟨T1, hissue, hexec⟩ := compare_runs (pg := pg) hi hq hfn hl ha hb
        refine ⟨T1, _, hc.trans hissue, hexec, fun j hj => ?_⟩
        rw [cmpResult_getLsbD _ _ _ _ _ hj, hr, bits_elem, bits_elem]
        rfl
      refine ⟨row .cmpeq (.vcmpeq t vd va vb pg ty) (fun x y => decide (x = y)) rfl (.inl rfl) fun a b => ?_,
        row .cmplt (.vcmplt t vd va vb pg ty) (fun x y => decide (x < y)) rfl (.inr (.inl rfl)) fun a b => ?_,
        row .cmple (.vcmple t vd va vb pg ty) (fun x y => decide (x ≤ y)) rfl (.inr (.inr rfl)) fun a b => ?_⟩
      all_goals simp only [cmpOp, hint, if_true, toS_eq, w]
    · obtain ⟨T1, hissue, hexec⟩ := predicate_runs (fn := .pand) (pg := pg) (ty := .int8) hi hq
        (by simp [vopLegal, VFn.typeOk, VFn.fieldsOk, hvd, hva, hvb]) rfl
      exact ⟨T1, _, hissue, hexec, rfl⟩
    · obtain ⟨T1, hissue, hexec⟩ := predicate_runs (fn := .pnot) (pg := pg) (ty := .int8) hi hq
        (by simp [vopLegal, VFn.typeOk, VFn.fieldsOk, hvd, hva, hvb]) rfl
      exact ⟨T1, _, hissue, hexec, rfl⟩

end Machine
end Sys2Proof
end

section
/-! Vector loads and stores, plain and tagged (R131, R135, R138, R141, R142, R174). -/
namespace Sys2Proof

theorem Map.readFrom_append {α : Type} (d : α) (m : Map α) (k n n' : Nat) :
    Map.readFrom d m k n ++ Map.readFrom d m (k + n) n' = Map.readFrom d m k (n + n') := by
  simp [Map.readFrom, List.range_add, Nat.add_assoc]

namespace Machine

/-! ### Issue and execution of one memory entry -/

/-- The tile once its memory instruction has ended: the next instruction is to come, and the identity is used. -/
def Tile.vmemBase (T : Tile) : Tile := { T with pc := T.pc + 4, nextId := T.nextId + 1 }

/-- The tile with the memory instruction alone in the vector unit's queue, and its ranges in the scoreboard. -/
def Tile.vmemQueued (T : Tile) (kind : VmKind) (v : RegNo) (addr : Nat) : Tile :=
  { T.vmemBase with
    vq := [.mem T.pc T.nextId kind v addr 0 [] false]
    sb := T.sb ++ (vmRanges kind addr).map fun r => ⟨r.1, r.2.1, r.2.2, T.nextId⟩ }

/-- The tile once a memory instruction has left the queue of one and its ranges have retired. -/
def Tile.vmemEnded (X : Tile) (id : Nat) : Tile := Tile.sbRetire { X with vq := [] } id
/-- The queue and the scoreboard are those of `T`. -/
def Tile.idleAs (X T : Tile) : Tile := { X with vq := T.vq, sb := T.sb }

/-- The ranges of a memory instruction retire with it, and the queue is empty again. -/
theorem Tile.vmemEnded_eq {T X : Tile} {kind : VmKind} {v : RegNo} {addr : Nat}
    (hq : T.vq = []) (hown : ∀ e ∈ T.sb, e.owner ≠ T.nextId)
    (hsb : X.sb = (T.vmemQueued kind v addr).sb) : X.vmemEnded T.nextId = X.idleAs T := by
  have hkeep : (T.sb.filter fun e => decide (e.owner ≠ T.nextId)) = T.sb := List.filter_eq_self.2 fun e he => decide_eq_true (hown e he)
  have hdrop : (((vmRanges kind addr).map fun r => (⟨r.1, r.2.1, r.2.2, T.nextId⟩ : SbRange)).filter fun e =>
      decide (e.owner ≠ T.nextId)) = [] :=
    List.filter_eq_nil_iff.2 fun e he => by
      obtain ⟨r, -, rfl⟩ := List.mem_map.1 he
      simp
  have hsb' : X.sb.filter (fun e => decide (e.owner ≠ T.nextId)) = T.sb := by
    rw [hsb]
    show (T.sb ++ _).filter _ = T.sb
    rw [List.filter_append, hkeep, hdrop, List.append_nil]
  rw [Tile.idleAs, hq]
  exact congrArg (fun sb => { X with vq := [], sb := sb }) hsb'

section
variable {s : State} {t : TileId} {v a : RegNo} {off : BitVec 13} {write : Bool} {kind : VmKind} {addr : Nat}
  (h : s.m.vpadOk t addr write)
include h

theorem Mach.testingAny_vpadOk : s.m.testingAny t.val [addr / 64, addr / 64 + 1] = false := by
  obtain ⟨-, -, -, -, -, -, -, ht0, ht1, -⟩ := h
  simp [Mach.testingAny, ht0, ht1]

theorem Mach.check_vpadOk : (s.m.tile t.val).check vectorAllow addr 128 = .ok := by
  obtain ⟨halign, hpad, hpwr, hport, hchg, hheld, hscr, -⟩ := h
  have hallow : vectorAllow ((s.m.tile t.val).bankAt addr).port = true := by
    revert hport
    cases ((s.m.tile t.val).bankAt addr).port <;> simp [vectorAllow]
  exact Tile.check_within (by decide) (by omega) hpad hpwr hallow hchg hheld hscr

theorem Mach.sbStall_vpadOk (hw : vmRanges kind addr = [lineRange addr 128 write] ∨ vmRanges kind addr = []) :
    (s.m.tile t.val).sbStall (vmRanges kind addr) = false := by
  obtain ⟨halign, -, -, -, -, -, -, -, -, hlen, hsb, -⟩ := h
  have hlast : (addr + 128 - 1) / 64 = addr / 64 + 1 := by omega
  have hone := Tile.sbStall_one (n := 128) (write := write) rfl hlast hlen hsb
  rcases hw with hw | hw <;> rw [hw]
  · exact hone
  · simp [Tile.sbStall]; omega

theorem vmem_next (hi : s.m.issues t [a]) (hq : (s.m.tile t.val).vq = [])
    (haddr : ((s.m.tile t.val).getX a.val + BitVec.ofInt 64 (128 * off.toInt)).toNat = addr)
    (hw : vmRanges kind addr = [lineRange addr 128 write] ∨ vmRanges kind addr = [])
    (hv : (kind == .tagset || kind == .tagclr) = true → v.val = 0) :
    vmem kind t v a off s = .next (s.withTile t ((s.m.tile t.val).vmemQueued kind v addr)) := by
  have hfield : ¬((kind == .tagset || kind == .tagclr) && v.val != 0) = true := by
    cases hk : (kind == .tagset || kind == .tagclr)
    · simp
    · simp [hv hk]
  have hfull : vqFull (s.m.tile t.val) = false := by simp [vqFull, hq]
  have hstall := Mach.sbStall_vpadOk h hw
  have hchk := Mach.check_vpadOk h
  have htest := Mach.testingAny_vpadOk h
  obtain ⟨halign, -⟩ := h
  subst haddr
  refine issue_quiet hi (by simp) ?_
  simp only [if_neg hfield, if_neg (not_not.2 halign), hchk, hfull, hstall, htest, hq]
  rfl

/-- The entry is performed: its bank and lines keep nothing back (R147, R149, R415). -/
theorem vectorExecute_mem (hrun : (s.m.tile t.val).run = .running) {T2 : Tile}
    (hx : ((s.m.tile t.val).vmemQueued kind v addr).execMem t.val (s.m.tile t.val).pc (s.m.tile t.val).nextId kind v addr 0 [] false []
      = (T2, [])) :
    execVectorExecute t (s.withTile t ((s.m.tile t.val).vmemQueued kind v addr))
      = .next ((s.withTile t ((s.m.tile t.val).vmemQueued kind v addr)).withTile t T2) := by
  have htile := State.tile_withTile_queued (T1 := (s.m.tile t.val).vmemQueued kind v addr) (List.cons_ne_nil _ _) s t
  have hwaits : (s.withTile t ((s.m.tile t.val).vmemQueued kind v addr)).m.vWaits t.val
      ((s.m.tile t.val).vmemQueued kind v addr) addr = false := by
    have htest := Mach.testingAny_vpadOk h
    obtain ⟨-, -, -, -, hchg, -, hscr, -⟩ := h
    show ((((s.m.tile t.val).bankAt addr).changing && !((s.m.tile t.val).bankAt addr).held) || ((s.m.tile t.val).bankAt addr).scrub
      || s.m.testingAny t.val [addr / 64, addr / 64 + 1]) = false
    simp [hchg, hscr, htest]
  have hrun' : ¬(decide (((s.m.tile t.val).vmemQueued kind v addr).run = .abandoned)
      && T2.vq.length == ((s.m.tile t.val).vmemQueued kind v addr).vq.length) = true := by
    have : ((s.m.tile t.val).vmemQueued kind v addr).run = .running := hrun
    simp [this]
  refine lift_act_mach (T := T2) (ss := []) ?_
  rw [htile]
  refine (if_neg (by rw [hwaits]; exact Bool.false_ne_true)).trans ?_
  simp only [hx]
  exact if_neg hrun'
end

/-! ### Two lines -/

/-- 128 bytes written over a line and the next one, with one poison bit for both. -/
def Tile.twoLines (T : Tile) (l : Nat) (bs : List Byte) (p : Bool) : Tile := (T.storeLine l (bs.take 64) p).storeLine (l + 1) (bs.drop 64) p

section
variable {T : Tile} {addr : Nat} (halign : addr % 128 = 0)
include halign

theorem Tile.bankAt_twoLines {i : Nat} (hi : i < 128) : T.bankAt (addr + i) = T.bankAt addr := by
  have hbank : (addr + i) / 65536 = addr / 65536 := by omega
  rw [Tile.bankAt, Tile.bankAt, hbank]

theorem Tile.readBytes_twoLines : T.readBytes (64 * (addr / 64)) 64 ++ T.readBytes (64 * (addr / 64 + 1)) 64 = T.readBytes addr 128 := by
  have h0 : 64 * (addr / 64) = addr := by omega
  have h1 : 64 * (addr / 64 + 1) = addr + 64 := by omega
  rw [h0, h1]
  exact Map.readFrom_append 0 T.mem addr 64 64

/-- 128 bytes written over two lines of a bank that is not pending-scrub. -/
theorem Tile.twoLines_mem {bs : List Byte} (hlen : bs.length = 128) (hscr : (T.bankAt addr).scrub = false) (hmem : Map.wf 0 T.mem = true)
    (p : Bool) :
    (∀ i (hi : i < bs.length), Map.get 0 (T.twoLines (addr / 64) bs p).mem (addr + i) = bs[i])
      ∧ ∀ k, k < addr ∨ addr + 128 ≤ k → Map.get 0 (T.twoLines (addr / 64) bs p).mem k = Map.get 0 T.mem k := by
  have h0 : 64 * (addr / 64) = addr := by omega
  have h1 : 64 * (addr / 64 + 1) = addr + 64 := by omega
  have hbank : ∀ i < 128, (T.bankAt (addr + i)).scrub = false := fun i hi => by rw [Tile.bankAt_twoLines halign hi]; exact hscr
  have hlow : (bs.take 64).length = 64 := by simp [hlen]
  have hhigh : (bs.drop 64).length = 64 := by simp [hlen]
  obtain ⟨hwf, hin0, hout0⟩ := Tile.writeBytes_mem (addr := 64 * (addr / 64)) (bs := bs.take 64) hmem
    (fun i hi => by rw [h0]; exact hbank i (by omega))
  obtain ⟨-, hin1, hout1⟩ := Tile.writeBytes_mem (T := T.storeLine (addr / 64) (bs.take 64) p) (addr := 64 * (addr / 64 + 1))
    (bs := bs.drop 64) hwf
    (fun i hi => by rw [h1, Nat.add_assoc]; exact hbank (64 + i) (by omega))
  rw [hlow] at hout0
  rw [hhigh] at hout1
  refine ⟨fun i hi => ?_, fun k hk => (hout1 k (by omega)).trans (hout0 k (by omega))⟩
  by_cases h64 : i < 64
  · refine (hout1 (addr + i) (.inl (by omega))).trans ?_
    have hat : addr + i = 64 * (addr / 64) + i := by omega
    rw [hat]
    exact (hin0 i (by omega)).trans List.getElem_take
  · have hin := hin1 (i - 64) (by omega)
    have hat : 64 * (addr / 64 + 1) + (i - 64) = addr + i := by omega
    have hidx : 64 + (i - 64) = i := by omega
    rw [hat] at hin
    refine hin.trans ?_
    rw [List.getElem_drop]
    simp only [hidx]
end

theorem Tile.twoLines_poison {T : Tile} (hwf : Map.wf false T.poison = true) (l : Nat) (bs : List Byte) (p : Bool) (k : Nat) :
    Map.get false (T.twoLines l bs p).poison k = if k = l ∨ k = l + 1 then p else T.poisoned k := by
  show Map.get false (Map.set false (Map.set false T.poison l p) (l + 1) p) k = _
  have hwf' := Map.wf_set hwf l p
  by_cases h1 : k = l + 1
  · subst h1; simp [Map.get_set_same hwf']
  · by_cases h0 : k = l
    · subst h0; rw [Map.get_set_other h1, Map.get_set_same hwf, if_pos (.inl rfl)]
    · rw [Map.get_set_other h1, Map.get_set_other h0, if_neg (by omega)]; rfl

/-- Tags, with those of a line and of the next one set alike. -/
def tagsAlike (full : Map Bool) (l : Nat) (b : Bool) : Map Bool := Map.set false (Map.set false full l b) (l + 1) b

theorem get_tagsAlike {full : Map Bool} (hwf : Map.wf false full = true) (l : Nat) (b : Bool) :
    Map.get false (tagsAlike full l b) l = b ∧ Map.get false (tagsAlike full l b) (l + 1) = b
      ∧ ∀ k, k ≠ l → k ≠ l + 1 → Map.get false (tagsAlike full l b) k = Map.get false full k := by
  refine ⟨?_, Map.get_set_same (Map.wf_set hwf l b) _ _, fun k h0 h1 => ?_⟩
  · exact (Map.get_set_other (Nat.ne_of_lt (Nat.lt_succ_self l)) _ _ _ _).trans (Map.get_set_same hwf _ _)
  · exact (Map.get_set_other h1 _ _ _ _).trans (Map.get_set_other h0 _ _ _ _)

/-- The tile with the FULL tags of a line and of the next one set alike. -/
def Tile.twoTags (T : Tile) (l : Nat) (b : Bool) : Tile := { T with full := tagsAlike T.full l b }

theorem Tile.tagFull_setTag_succ (T : Tile) (l : Nat) (b : Bool) : (T.setTag l b).tagFull (l + 1) = T.tagFull (l + 1) :=
  congrArg (· && !T.dropsAt (64 * (l + 1))) (Map.get_set_other (Nat.succ_ne_self l) false false T.full b)

/-! ### The entries -/

section
variable {T : Tile} {v : RegNo} {addr : Nat} (hq : T.vq = []) (hown : ∀ e ∈ T.sb, e.owner ≠ T.nextId)

theorem Tile.vReadLine_clean {l : Nat} (h : T.found l = .clean) (t : Nat) : T.vReadLine t l = (T, [], T.readBytes (64 * l) 64, false) := by
  have hone : T.senseLine t l = (T, [], false) := by simp only [Tile.senseLine, h]
  simp only [Tile.vReadLine, hone]
  rfl

/-- The tile once 128 clean bytes at an address have been read into a register. -/
def Tile.vLoaded (T : Tile) (v addr : Nat) : Tile := T.vmemBase.setV v (BitVec.ofNat 1024 (leNat (T.readBytes addr 128))) false

include hq hown

theorem Tile.execMem_ld (halign : addr % 128 = 0) (h0 : T.found (addr / 64) = .clean) (h1 : T.found (addr / 64 + 1) = .clean) (t pc : Nat) :
    (T.vmemQueued .ld v addr).execMem t pc T.nextId .ld v addr 0 [] false [] = (T.vLoaded v.val addr, []) := by
  have hr0 := Tile.vReadLine_clean (T := T.vmemQueued .ld v addr) h0 t
  have hr1 := Tile.vReadLine_clean (T := T.vmemQueued .ld v addr) h1 t
  have hbytes := Tile.readBytes_twoLines (T := T.vmemQueued .ld v addr) halign
  have hset : ∀ w, ((T.vmemQueued .ld v addr).setV v.val w false).vmemEnded T.nextId = T.vmemBase.setV v.val w false :=
    fun w => Tile.vmemEnded_eq (kind := .ld) (v := v) (addr := addr) hq hown rfl
  rw [Tile.vLoaded, ← hset]
  unfold Tile.execMem
  simp only [hr0, hr1, hbytes]
  rfl

theorem Tile.execMem_st (hp : T.vPoisoned v.val = false) (t pc : Nat) :
    (T.vmemQueued .st v addr).execMem t pc T.nextId .st v addr 0 [] false []
      = (T.vmemBase.twoLines (addr / 64) (vBytes (T.getV v.val)) false, []) := by
  have hset : ∀ bs p, ((T.vmemQueued .st v addr).twoLines (addr / 64) bs p).vmemEnded T.nextId = T.vmemBase.twoLines (addr / 64) bs p :=
    fun bs p => Tile.vmemEnded_eq (kind := .st) (v := v) (addr := addr) hq hown rfl
  rw [← hset, ← hp]
  rfl

theorem Tile.execMem_tagset (t pc : Nat) : (T.vmemQueued .tagset v addr).execMem t pc T.nextId .tagset v addr 0 [] false []
      = (T.vmemBase.twoTags (addr / 64) true, []) := by
  have hset : ((T.vmemQueued .tagset v addr).twoTags (addr / 64) true).vmemEnded T.nextId = T.vmemBase.twoTags (addr / 64) true :=
    Tile.vmemEnded_eq (kind := .tagset) (v := v) (addr := addr) hq hown rfl
  rw [← hset]
  rfl

theorem Tile.execMem_tagclr (t pc : Nat) : (T.vmemQueued .tagclr v addr).execMem t pc T.nextId .tagclr v addr 0 [] false []
      = (T.vmemBase.twoTags (addr / 64) false, []) := by
  have hset : ((T.vmemQueued .tagclr v addr).twoTags (addr / 64) false).vmemEnded T.nextId = T.vmemBase.twoTags (addr / 64) false :=
    Tile.vmemEnded_eq (kind := .tagclr) (v := v) (addr := addr) hq hown rfl
  rw [← hset]
  rfl

theorem Tile.execMem_stf (hp : T.vPoisoned v.val = false) (h0 : T.tagFull (addr / 64) = false) (h1 : T.tagFull (addr / 64 + 1) = false)
    (t pc : Nat) : (T.vmemQueued .stf v addr).execMem t pc T.nextId .stf v addr 0 [] false []
      = ((T.vmemBase.twoLines (addr / 64) (vBytes (T.getV v.val)) false).twoTags (addr / 64) true, []) := by
  have hset : ∀ bs p, (((T.vmemQueued .stf v addr).twoLines (addr / 64) bs p).twoTags (addr / 64) true).vmemEnded T.nextId
      = (T.vmemBase.twoLines (addr / 64) bs p).twoTags (addr / 64) true :=
    fun bs p => Tile.vmemEnded_eq (kind := .stf) (v := v) (addr := addr) hq hown rfl
  have hempty0 : (T.vmemQueued .stf v addr).tagFull (addr / 64) = false := h0
  have hempty1 : ∀ bs p, (((T.vmemQueued .stf v addr).storeLine (addr / 64) bs p).setTag (addr / 64) true).tagFull (addr / 64 + 1) = false :=
    fun bs p => (Tile.tagFull_setTag_succ _ _ _).trans h1
  rw [← hset, ← hp]
  unfold Tile.execMem
  simp only [hempty0, Bool.not_false, and_self, ↓reduceIte, one_ne_zero, hempty1, Bool.false_eq_true]
  rfl

section
variable (halign : addr % 128 = 0) (hfull0 : T.tagFull (addr / 64) = true) (hfull1 : T.tagFull (addr / 64 + 1) = true)
  (h0 : T.found (addr / 64) = .clean) (h1 : T.found (addr / 64 + 1) = .clean)
include halign hfull0 hfull1 h0 h1

theorem Tile.execMem_ldtk (t pc : Nat) : (T.vmemQueued .ldtk v addr).execMem t pc T.nextId .ldtk v addr 0 [] false []
      = (T.vLoaded v.val addr, []) := by
  have hr0 := Tile.vReadLine_clean (T := T.vmemQueued .ldtk v addr) h0 t
  have hr1 := Tile.vReadLine_clean (T := T.vmemQueued .ldtk v addr) h1 t
  have hbytes := Tile.readBytes_twoLines (T := T.vmemQueued .ldtk v addr) halign
  have hset : ∀ w, ((T.vmemQueued .ldtk v addr).setV v.val w false).vmemEnded T.nextId = T.vmemBase.setV v.val w false :=
    fun w => Tile.vmemEnded_eq (kind := .ldtk) (v := v) (addr := addr) hq hown rfl
  have htag0 : (T.vmemQueued .ldtk v addr).tagFull (addr / 64) = true := hfull0
  have htag1 : (T.vmemQueued .ldtk v addr).tagFull (addr / 64 + 1) = true := hfull1
  rw [Tile.vLoaded, ← hset]
  unfold Tile.execMem
  simp only [htag0, htag1, Bool.not_true, Bool.false_eq_true, and_false, ↓reduceIte, BEq.rfl, hr0, hr1, hbytes]
  rfl

theorem Tile.execMem_ldt (t pc : Nat) : (T.vmemQueued .ldt v addr).execMem t pc T.nextId .ldt v addr 0 [] false []
      = ((T.vLoaded v.val addr).twoTags (addr / 64) false, []) := by
  have hr0 := Tile.vReadLine_clean (T := T.vmemQueued .ldt v addr) h0 t
  have hr1 := Tile.vReadLine_clean (T := (T.vmemQueued .ldt v addr).setTag (addr / 64) false) h1 t
  have hbytes : _ ++ ((T.vmemQueued .ldt v addr).setTag (addr / 64) false).readBytes (64 * (addr / 64 + 1)) 64 = _ :=
    Tile.readBytes_twoLines (T := T.vmemQueued .ldt v addr) halign
  have hset : ∀ w, (((T.vmemQueued .ldt v addr).twoTags (addr / 64) false).setV v.val w false).vmemEnded T.nextId
      = (T.vmemBase.setV v.val w false).twoTags (addr / 64) false :=
    fun w => Tile.vmemEnded_eq (kind := .ldt) (v := v) (addr := addr) hq hown rfl
  have htag0 : (T.vmemQueued .ldt v addr).tagFull (addr / 64) = true := hfull0
  have htag1 : ((T.vmemQueued .ldt v addr).setTag (addr / 64) false).tagFull (addr / 64 + 1) = true :=
    (Tile.tagFull_setTag_succ _ _ _).trans hfull1
  rw [Tile.vLoaded, ← hset]
  unfold Tile.execMem
  have hkeep : (VmKind.ldt == VmKind.ldtk) = false := rfl
  simp only [htag0, htag1, Bool.not_true, Bool.not_false, Bool.false_eq_true, and_false, and_self, ↓reduceIte, hkeep, hr0, hr1, hbytes]
  rfl
end

end

/-- A tagged load of an empty line stays as it is. -/
theorem Tile.execMem_ldt_waits {T : Tile} {v : RegNo} {addr : Nat} (h : T.tagFull (addr / 64) = false) (t pc : Nat) :
    (T.vmemQueued .ldt v addr).execMem t pc T.nextId .ldt v addr 0 [] false [] = (T.vmemQueued .ldt v addr, []) := by
  have htag : (T.vmemQueued .ldt v addr).tagFull (addr / 64) = false := h
  unfold Tile.execMem
  simp only [htag, Bool.not_false, and_self, ↓reduceIte]

/-! ### VM-format instructions -/

/-- The tile once a clean vector register has been stored at an address. -/
def Tile.vStored (T : Tile) (v addr : Nat) : Tile := T.vmemBase.twoLines (addr / 64) (vBytes (T.getV v)) false

theorem Tile.vStored_mem {T : Tile} {addr : Nat} (halign : addr % 128 = 0) (hscr : (T.bankAt addr).scrub = false)
    (hmem : Map.wf 0 T.mem = true) (v : Nat) :
    (∀ i, i < 128 → Map.get 0 (T.vStored v addr).mem (addr + i) = BitVec.ofNat 8 ((T.getV v).toNat / 256 ^ i))
      ∧ ∀ k, k < addr ∨ addr + 128 ≤ k → Map.get 0 (T.vStored v addr).mem k = Map.get 0 T.mem k := by
  have hlen : (vBytes (T.getV v)).length = 128 := leBytes_length 128 _
  obtain ⟨hin, hout⟩ := Tile.twoLines_mem (T := T.vmemBase) halign hlen hscr hmem false
  exact ⟨fun i hi => (hin i (by omega)).trans (leBytes_getElem _ _), hout⟩

/-- A memory instruction issued to an empty queue and then performed. -/
theorem vmem_runs {s : State} {t : TileId} {v a : RegNo} {off : BitVec 13} {write : Bool} {kind : VmKind} {addr : Nat} {c : Instr} {T2 : Tile}
    {good : Tile → Prop} (hi : s.m.issues t [a]) (h : s.m.vpadOk t addr write) (hq : (s.m.tile t.val).vq = [])
    (haddr : ((s.m.tile t.val).getX a.val + BitVec.ofInt 64 (128 * off.toInt)).toNat = addr)
    (hc : exec c s = vmem kind t v a off s) (hw : vmRanges kind addr = [lineRange addr 128 write] ∨ vmRanges kind addr = [])
    (hv : (kind == .tagset || kind == .tagclr) = true → v.val = 0)
    (hx : ((s.m.tile t.val).vmemQueued kind v addr).execMem t.val (s.m.tile t.val).pc (s.m.tile t.val).nextId kind v addr 0 [] false []
      = (T2, [])) (hgood : good T2) :
    ∃ T1 T2, exec c s = .next (s.withTile t T1) ∧ exec (.vectorExecute t) (s.withTile t T1) = .next ((s.withTile t T1).withTile t T2)
      ∧ good T2 :=
  ⟨(s.m.tile t.val).vmemQueued kind v addr, T2, hc.trans (vmem_next h hi hq haddr hw hv),
    vectorExecute_mem h hi.1 hx, hgood⟩

/-- Settles O11: with its lines free, a vector access alone in the queue is performed whole, and reads or writes its two lines and their tags. -/
theorem vectorMemory : Obligations.VectorMemory := by
  constructor
  · intro s t v a off write hi T addr ends base h hq hmem hfull hpoison
    obtain ⟨halign, -, -, -, -, -, hscr, -, -, -, -, hown⟩ := id h
    refine ⟨fun hw h0 h1 => ?_, fun hw hp => ?_, fun hv c b hcb => ?_⟩
    · exact vmem_runs hi h hq rfl rfl (.inl (by rw [hw]; rfl)) nofun (Tile.execMem_ld hq hown halign h0 h1 _ _) rfl
    · have hbytes := Tile.vStored_mem halign hscr hmem v.val
      exact vmem_runs hi h hq rfl rfl (.inl (by rw [hw]; rfl)) nofun (Tile.execMem_st hq hown hp _ _)
        ⟨(T.vStored v.val addr).mem, (T.vStored v.val addr).poison, (T.vStored v.val addr).wordErr, rfl, hbytes.1,
          Tile.twoLines_poison (T := T.vmemBase) hpoison _ _ _, hbytes.2⟩
    · have htags := get_tagsAlike hfull (addr / 64) b
      obtain ⟨rfl, rfl⟩ | ⟨rfl, rfl⟩ := hcb
      · exact vmem_runs hi h hq rfl rfl (.inr rfl) (fun _ => hv) (Tile.execMem_tagset hq hown _ _)
          ⟨tagsAlike T.full (addr / 64) true, rfl, htags⟩
      · exact vmem_runs hi h hq rfl rfl (.inr rfl) (fun _ => hv) (Tile.execMem_tagclr hq hown _ _)
          ⟨tagsAlike T.full (addr / 64) false, rfl, htags⟩
  · intro s t v a off hi T addr l ends base loaded h hq hmem hfull hpoison
    obtain ⟨halign, -, -, -, -, -, hscr, -, -, -, -, hown⟩ := id h
    refine ⟨fun hf0 hf1 h0 h1 => ⟨?_, ?_⟩, fun he0 he1 hp => ?_, fun he0 => ?_⟩
    · exact vmem_runs hi h hq rfl rfl (.inr rfl) nofun (Tile.execMem_ldtk hq hown halign hf0 hf1 h0 h1 _ _) rfl
    · exact vmem_runs hi h hq rfl rfl (.inr rfl) nofun (Tile.execMem_ldt hq hown halign hf0 hf1 h0 h1 _ _)
        ⟨tagsAlike T.full l false, rfl, get_tagsAlike hfull l false⟩
    · obtain ⟨hbytes, hframe⟩ := Tile.vStored_mem halign hscr hmem v.val
      obtain ⟨htag0, htag1, htags⟩ := get_tagsAlike hfull l true
      exact vmem_runs hi h hq rfl rfl (.inr rfl) nofun (Tile.execMem_stf hq hown hp he0 he1 _ _)
        ⟨(T.vStored v.val addr).mem, (T.vStored v.val addr).poison, (T.vStored v.val addr).wordErr,
          tagsAlike T.full l true, rfl,
          Tile.twoLines_poison (T := T.vmemBase) hpoison _ _ _, htag0, htag1, htags, hbytes, hframe⟩
    · exact vmem_runs hi h hq rfl rfl (.inr rfl) nofun (Tile.execMem_ldt_waits he0 _ _) ⟨rfl, rfl, List.cons_ne_nil _ _⟩

end Machine
end Sys2Proof
end

section
/-! O22: operations of port stations, link faults, and the rewrite of the route tables (R201, R211, R222, R223). -/
namespace Sys2Proof.Machine

/-! ### Operations that leave a station -/

theorem Mach.foldl_sendPkt (ps : List Packet) (m : Mach) :
    ps.foldl Mach.sendPkt m = { m with flight := m.flight ++ numbered m.nextPkt ps, nextPkt := m.nextPkt + ps.length } := by
  rw [← Mach.sigs_send 0, Mach.sigs, List.foldl_map]
  rfl

/-- The packet of a station operation whose first line lies `off` bytes on from its target. -/
def stationPacket (kind : RKind) (p : PartId) (st : Nat) (tagged : Bool) (target : W64) (off : Nat) (data : List (List Byte × Bool))
    (k : Nat) : Packet :=
  { kind := .station kind p st tagged (remoteQueue target.toNat), from_ := .station st, target := remoteTile target.toNat
    addr := remoteAddr target.toNat + off, lines := data, count := k, remote := remoteAt target off }

/-- The packets of a station operation of `n` lines (R206, R222). -/
def stationPackets (kind : RKind) (p : PartId) (st : Nat) (tagged : Bool) (target : W64) (lines : List (List Byte)) (n : Nat) :
    List Packet :=
  packetsOf (stationPacket kind p st tagged target) (n + 1) 0 n (lines.map fun l => (l, false))

/-- Lines of 64 bytes are not padded. -/
theorem padded_whole {lines : List (List Byte)} (h : ∀ l ∈ lines, l.length = 64) :
    (lines.map fun l => ((l ++ leBytes (64 - l.length) 0).take 64, false)) = lines.map fun l => (l, false) := by
  refine List.map_congr_left fun l hl => ?_
  rw [List.take_append_of_le_length (h l hl).ge, ← h l hl, List.take_length]

section
variable {kind : RKind} {p : PartId} {st : Nat} {tagged : Bool} {target : W64} {lines : List (List Byte)}

theorem Mach.stationSend_sends (m : Mach) (hok : remoteOk target.toNat = true) (halign : remoteAddr target.toNat % 64 = 0)
    (hlines : ∀ l ∈ lines, l.length = 64) (n : Nat) :
    m.stationSend p st kind tagged target lines n = { m with
      flight := m.flight ++ numbered m.nextPkt (stationPackets kind p st tagged target lines n)
      nextPkt := m.nextPkt + (n + 7) / 8 } := by
  have hcount : (stationPackets kind p st tagged target lines n).length = (n + 7) / 8 := packetsOf_length (by omega)
  rw [← hcount, ← Mach.foldl_sendPkt, stationPackets, ← padded_whole hlines]
  simp only [Mach.stationSend, hok, halign, bne_self_eq_false, Bool.not_true, Bool.or_false, Bool.false_eq_true, if_false]
  rfl

/-- R206: packet `i` carries the operation's lines from line 8 i on, at most 8. -/
theorem stationPackets_getElem? {n : Nat} (hn : lines.length ≤ n) {i : Nat} {x : Packet}
    (h : (stationPackets kind p st tagged target lines n)[i]? = some x) :
    x = stationPacket kind p st tagged target (512 * i) (((lines.drop (8 * i)).take 8).map fun l => (l, false)) (min 8 (n - 8 * i)) := by
  have hall : ((lines.map fun l => (l, false)).drop (8 * i)).take (min 8 (n - 8 * i))
      = ((lines.drop (8 * i)).take 8).map fun l => (l, false) := by
    rw [List.map_take, List.map_drop, List.take_eq_take_iff, List.length_drop, List.length_map]
    omega
  rw [packetsOf_getElem? h, Nat.zero_add, hall]

/-- A station operation to an address in range, as the packets that enter the mortar (R206, R222). -/
theorem stationOp_sends {c : Instr} {s : State} {n : Nat} (hc : exec c s = stationOp p st kind tagged target lines n s)
    (hok : remoteOk target.toNat = true) (halign : remoteAddr target.toNat % 64 = 0) (hlines : ∀ l ∈ lines, l.length = 64)
    (hn : lines.length ≤ n) :
    ∃ ps, exec c s = .next { s with m := { s.m with flight := s.m.flight ++ ps, nextPkt := s.m.nextPkt + (n + 7) / 8 } }
      ∧ ps.length = (n + 7) / 8
      ∧ ∀ i x, ps[i]? = some x → x.id = s.m.nextPkt + i ∧ x.kind = .station kind p st tagged (target.toNat / 2 ^ 48 % 64)
          ∧ x.from_ = .station st ∧ x.target = remoteTile target.toNat ∧ x.addr = target.toNat % 2 ^ 21 + 512 * i
          ∧ x.count = min 8 (n - 8 * i) ∧ x.lines = ((lines.drop (8 * i)).take 8).map fun l => (l, false) := by
  refine ⟨numbered s.m.nextPkt (stationPackets kind p st tagged target lines n), ?_, ?_, fun i x hx => ?_⟩
  · rw [hc, stationOp, lift_next, Mach.stationSend_sends s.m hok halign hlines]
  · exact List.length_mapIdx.trans (packetsOf_length (by omega))
  · obtain ⟨y, hy, rfl⟩ := mem_numbered hx
    rw [stationPackets_getElem? hn hy]
    refine ⟨rfl, rfl, rfl, rfl, ?_, rfl, rfl⟩
    show bits target.toNat 0 21 + 512 * i = _
    rw [bits, pow_zero, Nat.div_one]
end

/-! ### Answers to a station -/

/-- A packet with a number of its own, the first in flight, leaves the others. -/
theorem Mach.dropPkt_first {m : Mach} {x : Packet} {rest : List Packet} (hf : m.flight = x :: rest) (hid : ∀ y ∈ rest, y.id ≠ x.id) :
    m.dropPkt x.id = { m with flight := rest } := by
  have hrest : rest.filter (fun y => y.id != x.id) = rest := List.filter_eq_self.2 fun y hy => bne_iff_ne.2 (hid y hy)
  rw [Mach.dropPkt, hf, List.filter_cons_of_neg (by simp), hrest]

/-- The S_TGET of station `st` that a full watch refused with the answer `x`, once more. -/
def reissuedTget (ctx : PartId) (st : Nat) (x : Packet) : Packet :=
  { kind := .station .get ctx st true 0, from_ := .station st, target := x.target, addr := remoteAddr x.remote.toNat, count := 1
    remote := x.remote }

section
variable {s : State} {x : Packet} {rest : List Packet} {ctx : PartId} {st : Nat} (hf : s.m.flight = x :: rest)
  (hid : ∀ y ∈ rest, y.id ≠ x.id)
include hf hid

/-- An answer to a station that is no turn sequencer is taken (R222). -/
theorem stationResponse_taken {why : Option Nat} (hk : x.kind = .stationAck ctx st why) (hst : st ≠ seqStation ctx) (hwhy : why ≠ some 6) :
    exec (.stationResponse ⟨st, .clean⟩) s = .next { s with m := { s.m with flight := rest } } := by
  have hx : exec (.stationResponse ⟨st, .clean⟩) s = execStationResponse ⟨st, .clean⟩ s := rfl
  simp [hx, execStationResponse, lift_next, hf, hk, hst, Mach.linkErr, Mach.dropPkt_first hf hid]

/-- R223: an S_TGET refused for a full watch is issued again. -/
theorem stationResponse_reissued (hk : x.kind = .stationAck ctx st (some 6)) :
    exec (.stationResponse ⟨st, .clean⟩) s = .next { s with m := Mach.sendPkt { s.m with flight := rest } (reissuedTget ctx st x) } := by
  have hx : exec (.stationResponse ⟨st, .clean⟩) s = execStationResponse ⟨st, .clean⟩ s := rfl
  simp [hx, execStationResponse, lift_next, hf, hk, Mach.linkErr, Mach.dropPkt_first hf hid, reissuedTget]
end

/-! ### Links -/

theorem Mach.startTest_eq (m : Mach) (u : TestUnit) :
    m.startTest u = { m with tests := if u ∈ m.tests then m.tests else m.tests ++ [u] } := by
  simp only [Mach.startTest, List.contains_iff_mem]
  split <;> rfl

/-! ### Route tables -/

theorem Mach.part_modPart {m : Mach} (h : Map.sortedFrom 0 m.parts = true) (p q : Nat) (f : Part → Part) :
    (m.modPart p f).part q = if q = p then f (m.part q) else m.part q := by
  split
  case isTrue hq => subst hq; exact Mach.part_setPart_same h q _
  case isFalse hq => exact Mach.part_modPart_other m hq f

/-- Only the partitions changed, and their store lists them in order. -/
def Mach.partsOnly (m m' : Mach) : Prop := ∃ ps, m' = { m with parts := ps } ∧ Map.sortedFrom 0 ps = true

section
variable {m : Mach} (h : Map.sortedFrom 0 m.parts = true)
include h

theorem Mach.modPart_partsOnly (p : Nat) (f : Part → Part) : m.partsOnly (m.modPart p f) := ⟨_, rfl, Map.sortedFrom_set h p⟩

theorem Mach.noteDetour_partsOnly (p : Nat) : m.partsOnly (m.noteDetour p) := by
  unfold Mach.noteDetour
  split
  · exact Mach.modPart_partsOnly h p _
  · exact ⟨_, rfl, h⟩

/-- DETOUR is a register: the rest of each partition stands (R224). -/
theorem Mach.noteDetour_part (p q : Nat) : ∃ r, (m.noteDetour p).part q = { m.part q with regs := r } := by
  unfold Mach.noteDetour
  split
  · rw [Mach.part_modPart h]
    split
    · exact ⟨_, rfl⟩
    · exact ⟨_, rfl⟩
  · exact ⟨_, rfl⟩

theorem Mach.foldl_noteDetour (ps : List Nat) :
    m.partsOnly (ps.foldl Mach.noteDetour m) ∧ ∀ q, ∃ r, (ps.foldl Mach.noteDetour m).part q = { m.part q with regs := r } := by
  refine List.foldlRecOn ps _ (motive := fun n => m.partsOnly n ∧ ∀ q, ∃ r, n.part q = { m.part q with regs := r })
    ⟨⟨_, rfl, h⟩, fun q => ⟨_, rfl⟩⟩ ?_
  rintro _ ⟨⟨ps', rfl, hps⟩, hkept⟩ p -
  refine ⟨Mach.noteDetour_partsOnly (m := { m with parts := ps' }) hps p, fun q => ?_⟩
  obtain ⟨r, hr⟩ := hkept q
  obtain ⟨r', hr'⟩ := Mach.noteDetour_part (m := { m with parts := ps' }) hps p q
  exact ⟨r', by rw [hr', hr]⟩
end

/-- The holds that partitions take for the route tables end (R201). -/
def Mach.unheld (m : Mach) (ps : List Nat) : Mach := ps.foldl (fun m p => m.modPart p fun P => { P with service := P.service - 1 }) m

/-- Each partition listed loses one service hold. -/
theorem Mach.unheld_parts {ps : List Nat} (hn : ps.Nodup) {m : Mach} (h : Map.sortedFrom 0 m.parts = true) :
    m.partsOnly (m.unheld ps)
      ∧ ∀ q, (m.unheld ps).part q = { m.part q with service := (m.part q).service - (if q ∈ ps then 1 else 0) } := by
  induction ps generalizing m with
  | nil => exact ⟨⟨_, rfl, h⟩, fun q => rfl⟩
  | cons p ps ih =>
    obtain ⟨hp, hn⟩ := List.nodup_cons.1 hn
    obtain ⟨⟨ps', hm', hps⟩, hpart⟩ := ih hn (m := m.modPart p fun P => { P with service := P.service - 1 }) (Map.sortedFrom_set h p)
    refine ⟨⟨ps', hm', hps⟩, fun q => (hpart q).trans ?_⟩
    rw [Mach.part_modPart h]
    split
    case isTrue hq => subst hq; simp [hp]
    case isFalse hq => simp [hq]

/-- The route tables as the maps are now, and no router waits for them (R201). -/
def Mach.retabled (m : Mach) : Mach := { m with routesStale := [], routeHolds := [], tables := m.transit }

/-- R201: with nothing in flight and every partition concerned at rest, the route tables are rewritten. -/
theorem routeTableRewrite_runs {s : State} (hstale : s.m.routesStale ≠ []) (hflight : s.m.flight = [])
    (hheld : ∀ p ∈ s.m.routeHolds, (s.m.part p).holding = true ∨ s.m.members p = []) :
    exec .routeTableRewrite s = .next { s with m := partIds.foldl Mach.noteDetour (s.m.retabled.unheld s.m.routeHolds) } := by
  have hx : exec .routeTableRewrite s = execRouteTableRewrite s := rfl
  have hready : (s.m.routeHolds.any fun p => !(s.m.members p).isEmpty && !(s.m.part p).holding) = false := by
    refine List.any_eq_false.2 fun p hp => ?_
    rcases hheld p hp with h | h <;> simp [h]
  rw [hx, execRouteTableRewrite, lift_next, if_neg (by simp [hready, hflight, hstale]), Mach.unheld, Mach.retabled]

theorem routeTableRewrite_waits {s : State} (hflight : s.m.flight ≠ []) : exec .routeTableRewrite s = .next s := by
  have hx : exec .routeTableRewrite s = execRouteTableRewrite s := rfl
  simp [hx, execRouteTableRewrite, lift_next, hflight]

/-- Settles O22: a station operation's packets are those of `packetsOf`, and the rewrite of the route tables changes the service holds and
DETOUR of partitions alone. -/
theorem stationsAndRoutes : Obligations.StationsAndRoutes := by
  unfold Obligations.StationsAndRoutes
  refine ⟨fun s p st target lines n => ⟨fun hok halign hlines => ?_, fun x rest ctx why hf hid hk hst => ?_⟩,
    fun s l k => ⟨?_, ?_, fun hstale hflight hheld hn hord => ?_, routeTableRewrite_waits⟩⟩
  · have hnil : ∀ l ∈ ([] : List (List Byte)), l.length = 64 := List.forall_mem_nil _
    refine ⟨stationOp_sends rfl hok halign hlines le_rfl, fun h8 => stationOp_sends ?_ hok halign hlines le_rfl, fun h8 => ?_,
      stationOp_sends rfl hok halign hnil (Nat.zero_le n), stationOp_sends rfl hok halign hnil (Nat.zero_le 1)⟩
    · exact if_neg (Nat.not_lt.2 h8)
    · exact if_pos h8
  · refine ⟨stationResponse_taken hf hid hk hst, fun hwhy => ?_⟩
    subst hwhy
    exact ⟨_, stationResponse_reissued hf hid hk, rfl, rfl, rfl⟩
  · show lift (fun m => if 4 ≤ k then m.startTest (.link l) else m) s = _
    rw [lift_next]
    split
    · rw [Mach.startTest_eq]
    · rfl
  · show lift (fun m => m.startTest (.link l)) s = _
    rw [lift_next, Mach.startTest_eq]
  · obtain ⟨-, -, hparts, -⟩ := hord
    have hrun := routeTableRewrite_runs hstale hflight fun p hp => (hheld p hp).2
    obtain ⟨⟨ps, hunheld, hps⟩, hservice⟩ := Mach.unheld_parts hn (m := s.m.retabled) hparts
    rw [hunheld] at hrun hservice
    obtain ⟨⟨ps', hnoted, -⟩, hregs⟩ := Mach.foldl_noteDetour (m := { s.m.retabled with parts := ps }) hps partIds
    rw [hnoted] at hrun hregs
    refine ⟨_, hrun, rfl, rfl, rfl, rfl, fun p _ => ?_⟩
    obtain ⟨r, hr⟩ := hregs p
    rw [hr, hservice p]
    exact ⟨rfl, rfl, rfl⟩

end Sys2Proof.Machine
end

section
/-! O47: the abandonment boundary of a turn whose card lists a slot twice. -/
namespace Sys2Proof.Machine

/-! ### A slot twice on the card -/

/-- A decode entry of slot 0. -/
def twiceEntry : CardEntry :=
  { slot := 0, decode := true, prefill := false, lastChunk := false, bound := true, replay := false, wver := 0, positions := 1, steer := 0
    chunkLen := 0, committed := 4, sampleCtr := 0, rebuild := false }
/-- A partition in step 3 of an abandonment of its whole turn; its card lists the entry of slot 0 twice. -/
def twicePart : Part :=
  { abandoning := true, affectAll := true, card := [twiceEntry, twiceEntry], slots := [(0, { req := some {}, bound := true })] }
/-- The module with that partition: no tile and no packet keeps the abandonment from its boundary. -/
def twiceState : State := { pending := [], m := { parts := [(0, twicePart)] } }

theorem twiceState_ordered : twiceState.m.ordered := by unfold Mach.ordered; decide
theorem twicePart_regsOk : twicePart.regsOk := by unfold Part.regsOk; decide

/-- The first entry marks slot 0 as replayed; to the second it is affected again, and so its request ends with DATA_ERROR (R413) and no entry
of it stays on the card. -/
theorem abandonmentBoundary_ends_twiceEntry : ∃ s', exec (.abandonmentBoundary 0) twiceState = .next s' ∧ (s'.m.part 0).card = [] :=
  ⟨_, rfl, by decide +kernel⟩

/-- Refutes O47, by its clause on the abandonment boundary: no premise keeps the slots of the card distinct, and the boundary settles the
affected slots entry by entry. A slot listed twice is affected a second time within the one abandonment and its request ends, where the clause
has both entries on the replay card. -/
theorem not_abandonment : ¬ Obligations.Abandonment := by
  unfold Obligations.Abandonment
  intro h
  obtain ⟨-, -, hboundary⟩ := h twiceState 0
  obtain ⟨s', hs', -, ⟨-, -, -, -, -, -, hcard⟩, -⟩ := hboundary rfl (by decide) twiceState_ordered twicePart_regsOk (by decide) (by decide)
  obtain ⟨t, ht, hempty⟩ := abandonmentBoundary_ends_twiceEntry
  obtain rfl : s' = t := Host.Outcome.next.inj (hs'.symm.trans ht)
  have hkept : (s'.m.part 0).card = [{ twiceEntry with replay := true }, { twiceEntry with replay := true }] := hcard
  rw [hempty] at hkept
  exact absurd hkept (List.cons_ne_nil _ _).symm

end Sys2Proof.Machine
end

section
/-! O46: the chain hold wires (R244, R499 to R501). -/
namespace Sys2Proof.Machine

/-- A partition with a bit set that is clear at reset is not at its reset state. -/
theorem Part.ne_reset_of_bit {P : Part} (f : Part → Bool) (h0 : f {} = false) (h : f P = true) : P ≠ {} := fun e => by
  rw [e, h0] at h
  cases h

/-! ### The chained partition -/

/-- The chained partition is known by one register of each partition. -/
theorem Mach.chained_congr {m n : Mach} (h : ∀ p, (n.part p).flagR Reg.TURN_CFG_CHAINED = (m.part p).flagR Reg.TURN_CFG_CHAINED) :
    n.chained = m.chained := by
  unfold Mach.chained
  exact congrArg (fun f => partIds.find? f) (funext h)

section
variable {m : Mach} {p : Nat} (hp : m.chained = some p)
include hp

/-- R501: the chained partition takes the output with it while it is in a turn and has not released it. -/
theorem Mach.chainOutput_asserted (hturn : (m.part p).inTurn = true) (hrel : (m.part p).chainRelease = false) :
    m.chainOutput = { m with chainOut := true, chainIn := m.chainIn || !m.chainOut } := by
  simp [Mach.chainOutput, hp, hturn, hrel]
theorem Mach.chainOutput_released (h : (m.part p).inTurn = false ∨ (m.part p).chainRelease = true) :
    m.chainOutput = Mach.setR { m with chainOut := false } Reg.SB_STATUS_CHAIN_WIRE 0 := by
  rcases h with h | h <;> simp [Mach.chainOutput, hp, h]
end

/-! ### The turn mark -/

/-- R499: a call point of the turn has found every member tile in TURN, and no debug halt keeps the output asserted (R536). -/
def Part.releases (P : Part) : Prop := P.inTurn = true ∧ P.chainFound = true ∧ ¬(P.haltReq = true ∧ P.stepping = false)
theorem Part.releases_iff (P : Part) : (P.inTurn && P.chainFound && !(P.haltReq && !P.stepping)) = true ↔ P.releases := by
  simp [Part.releases, and_assoc, imp_iff_not_or]

section
variable {s : State} {p : Nat} (hp : s.m.chained = some p)
include hp

theorem turnMarkInstant_keeps (h : ¬(s.m.part p).releases) : exec .turnMarkInstant s = .next { s with m := s.m.chainOutput } := by
  have hx : exec .turnMarkInstant s = execTurnMarkInstant s := rfl
  simp only [hx, execTurnMarkInstant, lift_next, hp]
  rw [if_neg (mt (Part.releases_iff _).1 h)]

/-- The partition releases the output, which follows it. -/
theorem turnMarkInstant_releases (h : (s.m.part p).releases) : ∃ s', exec .turnMarkInstant s = .next s' ∧ s'.m.chainOut = false
    ∧ s'.m.part p = { s.m.part p with chainRelease := true } ∧ s'.m.tiles = s.m.tiles := by
  have hx : exec .turnMarkInstant s = execTurnMarkInstant s := rfl
  have hpart : (s.m.modPart p fun P => { P with chainRelease := true }).part p = { s.m.part p with chainRelease := true } :=
    Mach.part_setPart_listed (Part.ne_reset_of_bit Part.chainRelease rfl rfl) s.m p
  have hchained : (s.m.modPart p fun P => { P with chainRelease := true }).chained = some p := by
    refine (Mach.chained_congr fun q => ?_).trans hp
    by_cases hq : q = p
    · subst hq; rw [hpart]; rfl
    · rw [Mach.part_modPart_other s.m hq]
  simp only [hx, execTurnMarkInstant, lift_next, hp]
  rw [if_pos ((Part.releases_iff _).2 h), Mach.chainOutput_released hchained (.inr (by rw [hpart]))]
  exact ⟨_, rfl, rfl, hpart, rfl⟩
end

/-! ### The nearest turn mark (R500) -/

theorem nearestMark_near (t : Nat) : ∃ k, nearestMark t = 64 * k ∧ 64 * k ≤ t + 32 ∧ t ≤ 64 * k + 32 :=
  ⟨(t + 32) / 64, rfl, by omega, by omega⟩

theorem chainHoldInDeassert_latches {s : State} {p : Nat} (hp : s.m.chained = some p) (at_ : Nat) :
    ∃ s', exec (.chainHoldInDeassert at_) s = .next s' ∧ s'.m.chainIn = false ∧ s'.m.tiles = s.m.tiles
      ∧ s'.m.part p = { s.m.part p with chainLatched := true, chainM0 := nearestMark (at_ - 100) } := by
  have hx : exec (.chainHoldInDeassert at_) s = execChainHoldInDeassert at_ s := rfl
  have hchained : ({ s.m with chainIn := false } : Mach).chained = some p := hp
  simp only [hx, execChainHoldInDeassert, lift_next, hchained]
  exact ⟨_, rfl, rfl, rfl,
    Mach.part_setPart_listed (Part.ne_reset_of_bit Part.chainLatched rfl rfl) { s.m with chainIn := false } p⟩

theorem chainHoldInDeassert_unchained {s : State} (hp : s.m.chained = none) (at_ : Nat) :
    exec (.chainHoldInDeassert at_) s = .next { s with m := { s.m with chainIn := false } } := by
  have hx : exec (.chainHoldInDeassert at_) s = execChainHoldInDeassert at_ s := rfl
  have hchained : ({ s.m with chainIn := false } : Mach).chained = none := hp
  simp only [hx, execChainHoldInDeassert, lift_next, hchained]

/-! ### The wire -/

/-- A module register of one bit whose reset value is 0 reads as set. -/
theorem Mach.flagR_setR_one (m : Mach) {f : Fld} (hr : f.reset = 0) (hw : f.width = 1) : (m.setR f 1).flagR f = true := by
  have h1 : 1 % 2 ^ f.width = 1 := by rw [hw]; rfl
  have hget : (m.setR f 1).getR f = 1 % 2 ^ f.width := RegFile.get_set_same (.inr (by rw [h1, hr]; decide))
  simpa [Mach.flagR, RegFile.flag, Mach.getR, h1] using hget

/-- Settles O46: the output follows `Mach.chainOutput` of the chained partition, and 64 * ((t + 32) / 64) is the multiple of 64 nearest to t. -/
theorem chainHold : Obligations.ChainHold := by
  unfold Obligations.ChainHold
  intro s p at_ P halted
  refine ⟨fun hp => ⟨fun hturn hfound hrun => turnMarkInstant_releases hp ⟨hturn, hfound, hrun⟩, fun hturn => ?_,
    fun hturn hrel hkeep => ?_, ?_⟩, fun hp => chainHoldInDeassert_unchained hp at_, fun hout => ?_, fun hout => ?_⟩
  · refine ⟨_, turnMarkInstant_keeps hp fun h => absurd (hturn.symm.trans h.1) (by decide), ?_⟩
    rw [Mach.chainOutput_released hp (.inl hturn)]
    exact ⟨rfl, rfl, rfl⟩
  · rw [turnMarkInstant_keeps hp, Mach.chainOutput_asserted hp hturn hrel]
    rintro ⟨-, hfound, hrun⟩
    rcases hkeep with h | h
    · exact absurd (h.symm.trans hfound) (by decide)
    · exact hrun h
  · obtain ⟨s', hs', hin, htiles, hpart⟩ := chainHoldInDeassert_latches hp at_
    obtain ⟨k, hk, hlow, hhigh⟩ := nearestMark_near (at_ - 100)
    exact ⟨s', k, hs', hin, htiles, hk ▸ hpart, hlow, hhigh⟩
  · have hx : exec .chainWire s = execChainWire s := rfl
    rw [hx, execChainWire, lift_next, if_pos hout]
    exact ⟨_, rfl, rfl, Mach.flagR_setR_one _ rfl rfl, rfl, rfl⟩
  · have hx : exec .chainWire s = execChainWire s := rfl
    rw [hx, execChainWire, lift_next, if_neg (by simp [hout])]

end Sys2Proof.Machine
end

section
/-! O45: the call point, the end of a beat, and forced slots (R226 to R232, R255, R418, R419). -/
namespace Sys2Proof

/-! ### Stores in order -/

theorem Map.le_of_mem {α : Type} {m : Map α} {lo : Nat} (h : Map.sortedFrom lo m = true) {e : Nat × α} (he : e ∈ m) : lo ≤ e.1 := by
  induction m generalizing lo with
  | nil => cases he
  | cons x m ih =>
    simp only [Map.sortedFrom, Bool.and_eq_true, decide_eq_true_eq] at h
    rcases List.mem_cons.1 he with rfl | he
    · exact h.1
    · exact le_of_lt (lt_of_le_of_lt h.1 (ih h.2 he))
theorem Map.nodup_keys {α : Type} {m : Map α} {lo : Nat} (h : Map.sortedFrom lo m = true) : (m.map (·.1)).Nodup := by
  induction m generalizing lo with
  | nil => exact List.nodup_nil
  | cons x m ih =>
    simp only [Map.sortedFrom, Bool.and_eq_true, decide_eq_true_eq] at h
    refine List.nodup_cons.2 ⟨fun hx => ?_, ih h.2⟩
    obtain ⟨e, he, hkey⟩ := List.mem_map.1 hx
    have hle := Map.le_of_mem h.2 he
    have heq : e.1 = x.1 := hkey
    omega

namespace Machine

/-! ### The same change of several tiles -/

theorem Mach.tile_modTile {m : Mach} (h : Map.sortedFrom 0 m.tiles = true) (t u : Nat) (f : Tile → Tile) :
    (m.modTile t f).tile u = if u = t then f (m.tile u) else m.tile u := by
  split
  case isTrue hu => subst hu; exact Mach.tile_setTile_same h u _
  case isFalse hu => exact Mach.tile_setTile_other m hu _
/-- Each tile of the list changes once, and no other. -/
theorem Mach.tile_modTiles {ts : List Nat} (hn : ts.Nodup) {m : Mach} (h : Map.sortedFrom 0 m.tiles = true) (f : Nat → Tile → Tile) (u : Nat) :
    (m.modTiles ts f).tile u = if u ∈ ts then f u (m.tile u) else m.tile u := by
  induction ts generalizing m with
  | nil => rfl
  | cons t ts ih =>
    obtain ⟨ht, hn⟩ := List.nodup_cons.1 hn
    have hstep : (m.modTiles (t :: ts) f).tile u = _ := ih hn (m := m.modTile t (f t)) (Map.sortedFrom_set h t)
    rw [hstep, Mach.tile_modTile h]
    by_cases hu : u = t
    · subst hu; simp [ht]
    · simp [hu]
theorem Mach.parts_modTiles (ts : List Nat) (f : Nat → Tile → Tile) (m : Mach) : (m.modTiles ts f).parts = m.parts :=
  List.foldlRecOn ts _ (motive := fun n : Mach => n.parts = m.parts) rfl fun _ hn _ _ => hn

theorem Mach.nodup_members {m : Mach} (h : Map.sortedFrom 0 m.tiles = true) (p : Nat) : (m.members p).Nodup :=
  (Map.nodup_keys h).sublist (List.filter_sublist.map _)

/-! ### What is not ready (R228, R255) -/

/-- A tile has a beat due that it has neither waited for nor passed in TURN (R186). -/
def Mach.isLate (m : Mach) (p u : Nat) : Prop :=
  (m.tile u).beatDue = some ((m.part p).beatNow + 1) ∧ (m.tile u).beatWait = false ∧ (m.tile u).run ≠ .inTurn

section
variable {m : Mach} {p : Nat}

theorem Mach.mem_lateTiles {u : Nat} : u ∈ m.lateTiles p ↔ u ∈ m.members p ∧ m.isLate p u := by
  simp [Mach.lateTiles, Mach.isLate, and_assoc]
theorem Mach.notReady_late (h : ∃ u ∈ m.members p, m.isLate p u) : (m.notReady p).1 = 1 := by
  obtain ⟨u, hu⟩ := h
  have hne : m.lateTiles p ≠ [] := List.ne_nil_of_mem (Mach.mem_lateTiles.2 hu)
  simp [Mach.notReady, hne]

section
variable (hlate : ∀ u ∈ m.members p, ¬m.isLate p u)
include hlate

theorem Mach.lateTiles_nil : m.lateTiles p = [] :=
  List.eq_nil_iff_forall_not_mem.2 fun u hu => hlate u (Mach.mem_lateTiles.1 hu).1 (Mach.mem_lateTiles.1 hu).2
theorem Mach.notReady_chain (hc : (m.part p).flagR Reg.TURN_CFG_CHAINED = true)
    (h : m.linkWaits p = true ∨ m.allInTurn p = true ∧ m.chainReady (m.part p) = false) : (m.notReady p).1 = 2 := by
  rcases h with h | h <;> simp [Mach.notReady, Mach.lateTiles_nil hlate, hc, h]

section
variable (hc : (m.part p).flagR Reg.TURN_CFG_CHAINED = false)
include hc

theorem Mach.notReady_forced (h : (m.part p).forced ≠ []) : (m.notReady p).1 = 3 := by
  simp [Mach.notReady, Mach.lateTiles_nil hlate, hc, h]
theorem Mach.notReady_service (hf : (m.part p).forced = []) (h : (m.part p).inService = true) : (m.notReady p).1 = 4 := by
  simp [Mach.notReady, Mach.lateTiles_nil hlate, hc, hf, h]
theorem Mach.notReady_none (hf : (m.part p).forced = []) (h : (m.part p).inService = false) : m.notReady p = (0, 0) := by
  simp [Mach.notReady, Mach.lateTiles_nil hlate, hc, hf, h]
end
end
end

/-! ### The registers of a decision (R255) -/

theorem Part.flagR_setR_other {f g : Fld} (h : g.key ≠ f.key) (P : Part) (v : Nat) : (P.setR f v).flagR g = P.flagR g :=
  congrArg (· == 1) (Part.getR_setR_other h P v)
theorem Part.flagR_evt_same (P : Part) {e : Fld} (hr : e.reset = 0) (hw : e.width = 1) : (P.evt e).flagR e = true :=
  (Part.raised_evt P hr hw).1

/-- TURN_LIMIT where the beat numbers have ended. -/
def Part.noteLimit (P : Part) (ended : Bool) : Part := if ended then P.evt Reg.TURN_EVT_TURN_LIMIT else P
/-- The first source of a hold that begins. -/
def Part.noteSource (P : Part) (held : Bool) (src : Nat × Nat) : Part :=
  if held && !P.holding then (P.setR Reg.TURN_LATE_FIRST_SOURCE src.1).setR Reg.TURN_LATE_FIRST_TILE_INDEX src.2 else P
/-- SERVICE_HOLD in a service hold. -/
def Part.noteService (P : Part) : Part := if P.inService then P.evt Reg.TURN_EVT_SERVICE_HOLD else P
def Part.noteHold (P : Part) (ended held : Bool) (src : Nat × Nat) : Part := ((P.noteLimit ended).noteSource held src).noteService

section
variable (P : Part) (ended held : Bool) (src : Nat × Nat)

theorem Part.noteLimit_inService : (P.noteLimit ended).inService = P.inService := by cases ended <;> rfl
theorem Part.noteSource_inService : (P.noteSource held src).inService = P.inService := by
  unfold Part.noteSource
  split <;> rfl
theorem Part.noteSource_flagR {f : Fld} (h : f.key ≠ Reg.TURN_LATE_FIRST_SOURCE.key) (h' : f.key ≠ Reg.TURN_LATE_FIRST_TILE_INDEX.key) :
    (P.noteSource held src).flagR f = P.flagR f := by
  unfold Part.noteSource
  split
  · rw [Part.flagR_setR_other h', Part.flagR_setR_other h]
  · rfl
theorem Part.noteService_flagR {f : Fld} (h : f.key ≠ Reg.TURN_EVT_SERVICE_HOLD.key) : P.noteService.flagR f = P.flagR f := by
  unfold Part.noteService
  split
  · exact Part.flagR_setR_other h P 1
  · rfl

theorem Part.noteHold_limit : (P.noteHold true held src).flagR Reg.TURN_EVT_TURN_LIMIT = true := by
  rw [Part.noteHold, Part.noteService_flagR _ (by decide), Part.noteSource_flagR _ _ _ (by decide) (by decide)]
  exact Part.flagR_evt_same P rfl rfl
theorem Part.noteHold_service (h : P.inService = true) : (P.noteHold ended held src).flagR Reg.TURN_EVT_SERVICE_HOLD = true := by
  rw [Part.noteHold, Part.noteService, if_pos (by rw [Part.noteSource_inService, Part.noteLimit_inService, h])]
  exact Part.flagR_evt_same _ rfl rfl
theorem Part.noteHold_ready (h : P.inService = false) : P.noteHold false false src = P := by
  simp [Part.noteHold, Part.noteLimit, Part.noteSource, Part.noteService, h]
end

/-! ### The call point (R228, R232) -/

/-- The beat numbers end before every member tile is in TURN. -/
def Mach.overruns (m : Mach) (p : Nat) : Bool := (m.part p).beatNow == 65535 && !m.allInTurn p
/-- The next beat is held. -/
def Mach.holdsNext (m : Mach) (p : Nat) : Bool :=
  (m.notReady p).1 != 0 || (m.part p).abandonReq || (m.part p).abandoning || m.overruns p
/-- The partition after its call point. -/
def Mach.decision (m : Mach) (p : Nat) : Part :=
  let src := m.notReady p
  let P := (m.part p).noteHold (m.overruns p) (m.holdsNext p) src
  { P with
    decided := true, chainFound := P.chainFound || m.allInTurn p
    nextHeld := m.holdsNext p
    boundaryNext := !m.holdsNext p && m.allInTurn p && m.recordsIn P
    holding := m.holdsNext p
    heldSrc := src.1
    lateTile := if src.1 = 1 ∧ P.lateTile.isNone then some src.2 else P.lateTile }

theorem Mach.callPoint_idle {m : Mach} {p : PartId} (h : m.members p.val = [] ∨ (m.part p.val).decided = true) : m.callPoint p = m := by
  rcases h with h | h <;> simp [Mach.callPoint, h]
theorem Mach.callPoint_decides {m : Mach} {p : PartId} (hm : m.members p.val ≠ []) (hd : (m.part p.val).decided = false) :
    m.callPoint p = m.setPart p.val (m.decision p.val) := by
  unfold Mach.callPoint
  rw [if_neg (by simp [hm, hd])]
  rfl

section
variable {m : Mach} {p : Nat}

theorem Mach.overruns_of_last (h : (m.part p).beatNow = 65535) (ht : m.allInTurn p = false) : m.overruns p = true := by
  simp [Mach.overruns, h, ht]
theorem Mach.decision_held (h : m.holdsNext p = true) :
    (m.decision p).decided = true ∧ (m.decision p).nextHeld = true ∧ (m.decision p).boundaryNext = false :=
  ⟨rfl, h, by simp [Mach.decision, h]⟩
theorem Mach.decision_source {k : Nat} (hk : (m.notReady p).1 = k) (h0 : k ≠ 0) : (m.decision p).decided = true
    ∧ (m.decision p).nextHeld = true ∧ (m.decision p).boundaryNext = false ∧ (m.decision p).heldSrc = k := by
  obtain ⟨hd, hn, hb⟩ := Mach.decision_held (m := m) (p := p) (by simp [Mach.holdsNext, hk, h0])
  exact ⟨hd, hn, hb, hk⟩
theorem Mach.decision_service (h : (m.part p).inService = true) : (m.decision p).flagR Reg.TURN_EVT_SERVICE_HOLD = true :=
  Part.noteHold_service (m.part p) _ _ _ h
theorem Mach.decision_overruns (h : m.overruns p = true) : (m.decision p).decided = true ∧ (m.decision p).nextHeld = true
    ∧ (m.decision p).boundaryNext = false ∧ (m.decision p).flagR Reg.TURN_EVT_TURN_LIMIT = true := by
  obtain ⟨hd, hn, hb⟩ := Mach.decision_held (m := m) (p := p) (by simp [Mach.holdsNext, h])
  refine ⟨hd, hn, hb, ?_⟩
  have hflag : (m.decision p).flagR Reg.TURN_EVT_TURN_LIMIT
      = ((m.part p).noteHold (m.overruns p) (m.holdsNext p) (m.notReady p)).flagR Reg.TURN_EVT_TURN_LIMIT := rfl
  rw [hflag, h]
  exact Part.noteHold_limit _ _ _
/-- With nothing in the way the next beat is not held. -/
theorem Mach.decision_ready (hsrc : m.notReady p = (0, 0)) (hs : (m.part p).inService = false) (ha : (m.part p).abandonReq = false)
    (hb : (m.part p).abandoning = false) (hbeat : (m.part p).beatNow < 65535) : m.decision p = { m.part p with
      decided := true, chainFound := (m.part p).chainFound || m.allInTurn p, nextHeld := false
      boundaryNext := m.allInTurn p && m.recordsIn (m.part p), holding := false, heldSrc := 0 } := by
  have hover : m.overruns p = false := by simp [Mach.overruns, Nat.ne_of_lt hbeat]
  have hheld : m.holdsNext p = false := by simp [Mach.holdsNext, hsrc, ha, hb, hover]
  simp [Mach.decision, hover, hheld, hsrc, Part.noteHold_ready (m.part p) _ hs]
end

theorem State.onlyPart_withPart (s : State) (p : PartId) (P : Part) : s.onlyPart (s.withPart p P) p :=
  ⟨fun _ h => Mach.part_setPart_other s.m h P, rfl, rfl, rfl⟩

section
variable {s : State} {p : PartId}

theorem callPoint_idle (h : s.m.members p.val = [] ∨ (s.m.part p.val).decided = true) : exec (.callPoint p) s = .next s := by
  have hx : exec (.callPoint p) s = execCallPoint p s := rfl
  rw [hx, execCallPoint, lift_next, Mach.callPoint_idle h]

section
variable (hm : s.m.members p.val ≠ []) (hd : (s.m.part p.val).decided = false)
include hm hd

theorem callPoint_decides : exec (.callPoint p) s = .next (s.withPart p (s.m.decision p.val)) := by
  have hx : exec (.callPoint p) s = execCallPoint p s := rfl
  rw [hx, execCallPoint, lift_next, Mach.callPoint_decides hm hd, State.withPart]
theorem callPoint_ends {good : Part → Prop} (h : good (s.m.decision p.val)) :
    ∃ s', exec (.callPoint p) s = .next s' ∧ s.onlyPart s' p ∧ good (s'.m.part p.val) := by
  refine ⟨_, callPoint_decides hm hd, State.onlyPart_withPart s p _, ?_⟩
  have hpart := Mach.part_setPart_listed (Part.ne_reset_of_bit (P := s.m.decision p.val) Part.decided rfl rfl) s.m p.val
  rw [State.withPart, hpart]
  exact h
end
end

/-! ### Registers of the debug block (R533, R535) -/

/-- The lowest key of the debug block. -/
def debugKeys : Nat := Blk.num .debug * 2097152
/-- `Q` is `P` but for registers of the debug block and those above it. -/
def Part.debugged (P Q : Part) : Prop := ∃ r : RegFile, Q = { P with regs := r } ∧ ∀ f : Fld, f.key < debugKeys → r.get f = P.getR f

theorem Part.debugged.refl (P : Part) : P.debugged P := ⟨P.regs, rfl, fun _ _ => rfl⟩
theorem Part.debugged.setR {P Q : Part} (h : P.debugged Q) {f : Fld} (hf : debugKeys ≤ f.key) (v : Nat) : P.debugged (Q.setR f v) := by
  obtain ⟨r, rfl, hr⟩ := h
  exact ⟨r.set f v, rfl, fun g hg => (RegFile.get_set_other (Nat.ne_of_lt (Nat.lt_of_lt_of_le hg hf)) r v).trans (hr g hg)⟩
theorem debugKeys_le_key {f : Fld} (h : f.blk = .debug) : debugKeys ≤ f.key := by
  rw [Fld.key, h]
  exact Nat.le_add_right_of_le (Nat.le_add_right _ _)
theorem Part.debugged.noteHalt {P Q : Part} (h : P.debugged Q) : P.debugged Q.noteHalt := by
  unfold Part.noteHalt
  split
  · exact h.setR (debugKeys_le_key rfl) 2
  · exact h
theorem Part.debugged.profile {P Q : Part} (h : P.debugged Q) (t : Option Nat) (code n : Nat) : P.debugged (Q.profile t code n) := by
  unfold Part.profile
  split
  · exact h
  split
  · exact h
  refine List.foldlRecOn (List.range 8) _ (motive := P.debugged) h fun R hR i _ => ?_
  split
  · exact (hR.setR (debugKeys_le_key rfl) _).setR (debugKeys_le_key rfl) _
  · exact hR

/-! ### The end of a beat (R226, R227, R230) -/

/-- A counter after one more count, whatever the store. -/
theorem Part.getR_cnt_one (P : Part) {f : Fld} (hr : f.reset = 0) (hw : f.width ≠ 0) : (P.cnt f 1).getR f = f.more (P.getR f) := by
  have hpow : 2 ≤ 2 ^ f.width := Nat.le_self_pow hw 2
  have hlt : f.more (P.getR f) % 2 ^ f.width = f.more (P.getR f) :=
    Nat.mod_eq_of_lt (lt_of_le_of_lt (Nat.min_le_right _ _) (by omega))
  have hpos : f.more (P.getR f) ≠ 0 := Nat.ne_of_gt (lt_min (Nat.succ_pos _) (by omega))
  exact (RegFile.get_set_same (.inr (by rw [hr]; exact hlt.trans_ne hpos))).trans hlt

/-- The registers after a held beat. -/
def Part.heldRegs (P : Part) : Part :=
  let Q := (P.cnt Reg.TURN_HOLD_COUNT_HOLD_BEATS 1).noteHalt
  if Q.heldSrc = 0 then Q else Q.profile none (Q.heldSrc + 1) 1
/-- The partition after a held beat of `n` nominal beats. -/
def Part.heldBeat (P : Part) (n : Nat) : Part :=
  let Q := P.heldRegs
  { Q with
    turnHeld := Q.turnHeld + 1, turnUnits := Q.turnUnits + n, heldBy := Map.modify 0 Q.heldBy Q.heldSrc (· + 1)
    forced := [], decided := false, nextHeld := false, boundaryNext := false, holding := true }
/-- The partition after a beat of `n` nominal beats that was not held. -/
def Part.nextBeat (P : Part) (n : Nat) : Part :=
  let Q := P.profile none 0x01 1
  { Q with
    beatNow := Nat.min (Q.beatNow + 1) 65535, turnUnits := Q.turnUnits + n, holdUs := 0, stepping := false, decided := false }

theorem Part.heldRegs_debugged (P : Part) : (P.cnt Reg.TURN_HOLD_COUNT_HOLD_BEATS 1).debugged P.heldRegs := by
  have h := (Part.debugged.refl (P.cnt Reg.TURN_HOLD_COUNT_HOLD_BEATS 1)).noteHalt
  unfold Part.heldRegs
  dsimp only
  split
  · exact h
  · exact h.profile _ _ _
theorem Part.heldBeat_counts (P : Part) (n : Nat) : (P.heldBeat n).beatNow = P.beatNow ∧ (P.heldBeat n).decided = false
    ∧ (P.heldBeat n).turnHeld = P.turnHeld + 1 ∧ (P.heldBeat n).forced = []
    ∧ (P.heldBeat n).getR Reg.TURN_HOLD_COUNT_HOLD_BEATS
        = Reg.TURN_HOLD_COUNT_HOLD_BEATS.more (P.getR Reg.TURN_HOLD_COUNT_HOLD_BEATS) := by
  obtain ⟨r, hr, hget⟩ := P.heldRegs_debugged
  rw [Part.heldBeat, hr]
  exact ⟨rfl, rfl, rfl, rfl, (hget Reg.TURN_HOLD_COUNT_HOLD_BEATS (by decide)).trans (P.getR_cnt_one rfl (by decide))⟩
theorem Part.nextBeat_advances (P : Part) (n : Nat) : (P.nextBeat n).beatNow = Nat.min (P.beatNow + 1) 65535
    ∧ (P.nextBeat n).decided = false ∧ (P.nextBeat n).turnHeld = P.turnHeld ∧ (P.nextBeat n).forced = P.forced
    ∧ (P.nextBeat n).holdUs = 0 := by
  obtain ⟨r, hr, -⟩ := (Part.debugged.refl P).profile none 0x01 1
  rw [Part.nextBeat, hr]
  exact ⟨rfl, rfl, rfl, rfl, rfl⟩

/-- The module with the gaps of the beat noted in the member tiles (R418). -/
def Mach.gapped (m : Mach) (p : Nat) : Mach := m.modTiles (m.members p) fun _ T => T.noteGaps (m.part p).beatNow

theorem Mach.beatBoundary_waits {m : Mach} {p : PartId} (h : m.members p.val = [] ∨ (m.part p.val).decided = false) :
    m.beatBoundary p = m := by
  rcases h with h | h <;> simp [Mach.beatBoundary, h]

section
variable {m : Mach} {p : PartId} (hm : m.members p.val ≠ []) (hd : (m.part p.val).decided = true)
include hm hd

theorem Mach.beatBoundary_held (h : (m.part p.val).nextHeld = true
      ∨ (m.part p.val).boundaryNext = true ∧ ((m.part p.val).abandonReq = true ∨ (m.part p.val).abandoning = true)) :
    m.beatBoundary p = (m.gapped p.val).setPart p.val ((m.part p.val).heldBeat ((m.gapped p.val).beatUnits p.val)) := by
  unfold Mach.beatBoundary
  rw [if_neg (by simp [hm, hd])]
  exact if_pos (by simpa using h)

section
variable (hn : (m.part p.val).nextHeld = false)
include hn

theorem Mach.beatBoundary_advances (hb : (m.part p.val).boundaryNext = false) :
    m.beatBoundary p = (m.gapped p.val).setPart p.val ((m.part p.val).nextBeat ((m.gapped p.val).beatUnits p.val)) := by
  unfold Mach.beatBoundary
  rw [if_neg (by simp [hm, hd])]
  exact (if_neg (by simp [hn, hb])).trans (if_neg (by simp [hb]))
/-- A turn boundary takes the place of the end of the beat. -/
theorem Mach.beatBoundary_turns (hb : (m.part p.val).boundaryNext = true) (hreq : (m.part p.val).abandonReq = false)
    (hab : (m.part p.val).abandoning = false) : m.beatBoundary p = m := by
  unfold Mach.beatBoundary
  rw [if_neg (by simp [hm, hd])]
  exact (if_neg (by simp [hn, hreq, hab])).trans (if_pos hb)
end
end

theorem exec_beatBoundary (p : PartId) (s : State) : exec (.beatBoundary p) s = .next { s with m := s.m.beatBoundary p } := rfl

theorem beatBoundary_ends {s : State} {p : PartId} (hord : s.m.ordered) {Q : Part}
    (heq : s.m.beatBoundary p = (s.m.gapped p.val).setPart p.val Q) {good : Part → Prop} (hgood : good Q) :
    ∃ s', exec (.beatBoundary p) s = .next s' ∧ (∀ q, q ≠ p.val → s'.m.part q = s.m.part q)
      ∧ (∀ u, u ∉ s.m.members p.val → s'.m.tile u = s.m.tile u)
      ∧ (∀ u ∈ s.m.members p.val, s'.m.tile u = (s.m.tile u).noteGaps (s.m.part p.val).beatNow) ∧ good (s'.m.part p.val) := by
  obtain ⟨-, htiles, hparts, -⟩ := hord
  have hgapped : (s.m.gapped p.val).parts = s.m.parts := Mach.parts_modTiles _ _ s.m
  have htile (u : Nat) := Mach.tile_modTiles (Mach.nodup_members htiles p.val) htiles (fun _ T => T.noteGaps (s.m.part p.val).beatNow) u
  refine ⟨_, (exec_beatBoundary p s).trans (by rw [heq]), fun q hq => ?_, fun u hu => (htile u).trans (if_neg hu),
    fun u hu => (htile u).trans (if_pos hu), ?_⟩
  · rw [Mach.part_setPart_other _ hq, Mach.part, hgapped, Mach.part]
  · rw [Mach.part_setPart_same (by rw [hgapped]; exact hparts)]
    exact hgood

/-! ### Forced slots (R419) -/

section
variable {s : State} {t : TileId} {a : ArrId}

theorem exec_forcedSlotDue : exec (.forcedSlotDue t a) s = lift (fun m =>
    if (m.tile t.val).member && m.forcedItem t.val a.val && !(m.ownerPart t.val).inService then m.sig t.val (.forced a.val) else m) s := rfl

theorem forcedSlotDue_asks {p : PartId} (ho : s.m.owner t.val = some p) (hm : (s.m.tile t.val).member = true)
    (hf : s.m.forcedItem t.val a.val = true) (hs : (s.m.part p.val).inService = false) (hnew : (t.val, a.val) ∉ (s.m.part p.val).forced) :
    exec (.forcedSlotDue t a) s
      = .next (s.withPart p { s.m.part p.val with forced := (s.m.part p.val).forced ++ [(t.val, a.val)] }) := by
  have hown : s.m.ownerPart t.val = s.m.part p.val := by simp [Mach.ownerPart, ho]
  rw [exec_forcedSlotDue, lift_next, if_pos (by simp [hm, hf, hown, hs])]
  simp [Mach.sig, ho, Mach.modPart, hnew, State.withPart]
theorem forcedSlotDue_asks_nothing (h : s.m.owner t.val = none ∨ (s.m.tile t.val).member = false ∨ s.m.forcedItem t.val a.val = false
      ∨ (s.m.ownerPart t.val).inService = true) : exec (.forcedSlotDue t a) s = .next s := by
  rw [exec_forcedSlotDue, lift_next]
  rcases h with ho | h
  · simp [Mach.sig, ho]
  · rw [if_neg (by rcases h with h | h | h <;> simp [h])]
end

/-! ### The obligation -/

/-- Settles O45: the call point writes `Mach.decision`, whose source is the first of R255 that is not ready, and the end of a beat the held or
the next beat. -/
theorem beats : Obligations.Beats := by
  unfold Obligations.Beats
  intro s p t a m P ms ends late beat
  have hcall {good : Part → Prop} (hm : ms ≠ []) (hd : P.decided = false) (h : good (m.decision p.val)) : ends (.callPoint p) good :=
    callPoint_ends hm hd h
  have hbeat {Q : Part} {good : Part → Prop} (hord : m.ordered) (heq : m.beatBoundary p = (m.gapped p.val).setPart p.val Q)
      (h : good Q) : beat good := beatBoundary_ends hord heq h
  clear_value ends beat
  refine ⟨fun hm => ⟨callPoint_idle (.inl hm), ?_⟩, fun hm hd => ⟨fun hlate hc hwait => ?_, fun hlast hturn => ?_, fun hs => ?_,
    fun hlate hc => ⟨fun hf hs hreq hab hnum => ?_, fun hf => ?_, fun hf hs => ?_⟩, fun hlate => ?_⟩,
    fun _ hd => callPoint_idle (.inr hd), fun _ hd => ?_, fun hm hd hord => ⟨fun hheld => ?_, fun hn hb => ?_, fun hn hb hreq hab => ?_⟩,
    forcedSlotDue_asks, forcedSlotDue_asks_nothing⟩
  · rw [exec_beatBoundary, Mach.beatBoundary_waits (.inl hm)]
  · exact hcall hm hd (Mach.decision_source (Mach.notReady_chain hlate hc hwait) (by decide))
  · exact hcall hm hd (Mach.decision_overruns (Mach.overruns_of_last hlast hturn))
  · exact hcall hm hd ⟨rfl, Mach.decision_service hs⟩
  · rw [callPoint_decides hm hd, Mach.decision_ready (Mach.notReady_none hlate hc hf hs) hs hreq hab hnum]
  · exact hcall hm hd (Mach.decision_source (Mach.notReady_forced hlate hc hf) (by decide))
  · obtain ⟨hdec, hheld, hbound, hsrc⟩ := Mach.decision_source (Mach.notReady_service hlate hc hf hs) (by decide)
    exact hcall hm hd ⟨hdec, hheld, hbound, hsrc, Mach.decision_service hs⟩
  · exact hcall hm hd (Mach.decision_source (Mach.notReady_late hlate) (by decide))
  · rw [exec_beatBoundary, Mach.beatBoundary_waits (.inr hd)]
  · exact hbeat hord (Mach.beatBoundary_held hm hd hheld) (Part.heldBeat_counts _ _)
  · exact hbeat hord (Mach.beatBoundary_advances hm hd hn hb) (Part.nextBeat_advances _ _)
  · rw [exec_beatBoundary, Mach.beatBoundary_turns hm hd hn hb hreq hab]

end Machine
end Sys2Proof
end

section
/-! A partition as one command leaves it: what it reads afterwards, and what a write of its rings and its fetch leave alone (R300 to R306,
R315, R321). -/
namespace Sys2Proof.Machine

/-! ### The state with one partition changed and what it sends -/

/-- The state after a change of partition `p` with result `r`. -/
def State.withResult (s : State) (p : PartId) (r : PRes) : State := { s with m := s.m.onPart p fun _ _ => r }

section
variable (s : State) (p : PartId) (r : PRes)

theorem State.onPart_eq (f : HCtx → Part → PRes) :
    { s with m := s.m.onPart p f } = s.withResult p (f (s.m.hctx p) (s.m.part p.val)) := by
  simp only [State.withResult, Mach.onPart]
theorem lift_onPart (f : HCtx → Part → PRes) :
    lift (fun m => m.onPart p f) s = .next (s.withResult p (f (s.m.hctx p) (s.m.part p.val))) := by
  rw [lift_next, State.onPart_eq]
/-- A command that only acts where a condition holds. -/
theorem lift_onPart_of {g : Mach → Bool} (h : g s.m = true) (f : HCtx → Part → PRes) :
    lift (fun m => if !g m then m else m.onPart p f) s = .next (s.withResult p (f (s.m.hctx p) (s.m.part p.val))) := by
  rw [lift_next, if_neg (by simp [h]), State.onPart_eq]
theorem lift_onPart_of_not {g : Mach → Bool} (h : g s.m = false) (f : HCtx → Part → PRes) :
    lift (fun m => if !g m then m else m.onPart p f) s = .next s := by
  rw [lift_next, if_pos (by simp [h])]
theorem State.onlyPart_withResult : s.onlyPart (s.withResult p r) p := by
  obtain ⟨htiles, hpallets, -, -, -, -, -, -, hother⟩ := s.m.onPart_frame p fun _ _ => r
  exact ⟨hother, htiles, hpallets, rfl⟩
theorem State.withResult_out : (s.withResult p r).m.out = s.m.out ++ r.2 := rfl
/-- The partition reads as the result has it, where the store of partitions is in order. -/
theorem State.withResult_part (h : Map.sortedFrom 0 s.m.parts = true) :
    (s.withResult p r).m.part p.val = { r.1 with faultEnds := 0 } := Mach.onPart_part h p fun _ _ => r
/-- The partition reads as the result has it, where that is not the reset state. -/
theorem State.withResult_part_listed (h : ({ r.1 with faultEnds := 0 } : Part) ≠ {}) :
    (s.withResult p r).m.part p.val = { r.1 with faultEnds := 0 } := Map.get_set_listed h s.m.parts p.val
end

/-! ### Sealed and emitted records -/

/-- An envelope counts its SEQ and may set NONCE_LIMIT. -/
theorem Part.seal_eq (P : Part) (cls idx len : Nat) : ∃ g k, (P.seal cls idx len).1 = { P with regs := g, keys := k } := by
  unfold Part.seal
  split
  · dsimp only
    split <;> exact ⟨_, _, rfl⟩
  · exact ⟨_, _, rfl⟩

theorem drop_append_singleton_ne_nil {α : Type} {l : List α} {n : Nat} (h : n ≤ l.length) (b : α) : (l ++ [b]).drop n ≠ [] := by
  rw [Ne, List.drop_eq_nil_iff, List.length_append, List.length_singleton]
  omega

/-- A record written: its ring keeps it, the host's index stands, and it is sent with its PHASE. -/
theorem Part.emit_eq (P : Part) (c : HCtx) (rid : RingId) (b : List Byte) :
    ∃ g k R os ph env, P.emit c rid b = ({ P with regs := g, keys := k, rings := Map.set {} P.rings rid.num R },
        .record c.p c.port rid (P.ring rid.num).prod (b.set rid.phaseAt ph) env :: os)
      ∧ R.cons = (P.ring rid.num).cons ∧ R ≠ {} := by
  obtain ⟨g, k, hseal⟩ := P.seal_eq rid.cls rid.index b.length
  unfold Part.emit
  dsimp only
  rw [hseal]
  have hkept : (P.ring rid.num).kept.length + 1 - 1024 ≤ (P.ring rid.num).kept.length := by omega
  refine ⟨g, k, _, _, _, _, rfl, rfl, fun e => ?_⟩
  have hnil := congrArg Ring.kept e
  dsimp only at hnil
  exact drop_append_singleton_ne_nil hkept b hnil

/-- A record that waits for its ring. -/
theorem Ring.waits_ne_reset (R : Ring) (w : TokenRec) : { R with waiting := R.waiting ++ [w] } ≠ ({} : Ring) := fun e =>
  List.concat_ne_nil _ _ (congrArg Ring.waiting e)

theorem Map.set_ne_nil {α : Type} [DecidableEq α] {d v : α} (h : v ≠ d) (m : Map α) (k : Nat) : Map.set d m k v ≠ [] := fun e => by
  have hget := Map.get_set_listed h m k
  rw [e] at hget
  exact h hget.symm

/-! ### Events -/

/-- An event changes registers, keys and the event ring. -/
theorem Part.event_eq (P : Part) (c : HCtx) (code a0 a1 : Nat) :
    ∃ g k r, (P.event c code a0 a1).1 = { P with regs := g, keys := k, rings := r } := by
  unfold Part.event
  dsimp only
  split
  · exact ⟨_, _, _, rfl⟩
  split
  · obtain ⟨g, k, R, os, ph, env, hemit, -⟩ := P.emit_eq c .event (eventBytes code c.now a0 a1)
    exact ⟨g, k, _, by rw [hemit]⟩
  · exact ⟨_, _, _, rfl⟩

theorem Part.flagR_event {f : Fld} (hf : f.eventFree) (P : Part) (c : HCtx) (code a0 a1 : Nat) :
    (P.event c code a0 a1).1.flagR f = P.flagR f := congrArg (· == 1) (Part.getR_event hf P c code a0 a1)

/-! ### Consumer indices -/

/-- From `P` to `Q` the store of rings stays in order, and the host's indices stand. -/
def Part.consKept (P Q : Part) : Prop :=
  Map.sortedFrom 0 P.rings = true → Map.sortedFrom 0 Q.rings = true ∧ ∀ r, (Q.ring r).cons = (P.ring r).cons

theorem Part.consKept_of_rings {P Q : Part} (h : Q.rings = P.rings) : P.consKept Q := fun hs =>
  ⟨h ▸ hs, fun r => by rw [Part.ring, Part.ring, h]⟩
theorem Part.consKept.trans {P Q R : Part} (h : P.consKept Q) (h' : Q.consKept R) : P.consKept R := fun hs => by
  obtain ⟨hQ, hcons⟩ := h hs
  obtain ⟨hR, hcons'⟩ := h' hQ
  exact ⟨hR, fun r => (hcons' r).trans (hcons r)⟩

/-- What a ring reads after one of the rings is written, where their store is in order. -/
theorem Part.ring_of_rings_set {P Q : Part} {i : Nat} {R : Ring} (hs : Map.sortedFrom 0 P.rings = true)
    (hQ : Q.rings = Map.set {} P.rings i R) (r : Nat) : Q.ring r = if r = i then R else P.ring r := by
  rw [Part.ring, hQ]
  split
  case isTrue h => rw [h]; exact Map.get_set_sorted hs i
  case isFalse h => exact Map.get_set_other h _ _ _ _
theorem Part.consKept_set {P Q : Part} {i : Nat} {R : Ring} (hQ : Q.rings = Map.set {} P.rings i R)
    (hR : R.cons = (P.ring i).cons) : P.consKept Q := fun hs => by
  refine ⟨hQ ▸ Map.sortedFrom_set hs i, fun r => ?_⟩
  rw [Part.ring_of_rings_set hs hQ]
  split
  case isTrue h => rw [hR, h]
  case isFalse => rfl

theorem Part.modRing_consKept (P : Part) (i : Nat) {f : Ring → Ring} (hf : (f (P.ring i)).cons = (P.ring i).cons) :
    P.consKept (P.modRing i f) := Part.consKept_set rfl hf

theorem Part.emit_consKept (P : Part) (c : HCtx) (rid : RingId) (b : List Byte) : P.consKept (P.emit c rid b).1 := by
  obtain ⟨g, k, R, os, ph, env, hemit, hcons, -⟩ := P.emit_eq c rid b
  rw [hemit]
  exact Part.consKept_set rfl hcons
theorem Part.event_consKept (P : Part) (c : HCtx) (code a0 a1 : Nat) : P.consKept (P.event c code a0 a1).1 := by
  unfold Part.event
  dsimp only
  split
  · exact Part.consKept_of_rings rfl
  split
  · exact P.emit_consKept c _ _
  · exact P.modRing_consKept 2 rfl

theorem PRes.andThen_consKept {P : Part} {r : PRes} {f : Part → PRes} (hr : P.consKept r.1) (hf : ∀ Q, Part.consKept Q (f Q).1) :
    P.consKept (r.andThen f).1 := hr.trans (hf r.1)
theorem forEach_consKept {α : Type} {P : Part} {l : List α} {f : α → Part → PRes} {r : PRes} (hr : P.consKept r.1)
    (hf : ∀ x Q, Part.consKept Q (f x Q).1) : P.consKept (forEach l f r).1 :=
  List.foldlRecOn l _ (motive := fun q : PRes => P.consKept q.1) hr fun _ hq x _ => PRes.andThen_consKept hq (hf x)

/-! ### Completion records -/

/-- The registers once the end of a descriptor is noted in them. -/
def RegFile.noteDone (g : RegFile) (d : Done) : RegFile :=
  let g := if d.status = .busy then (g.set Reg.SERVE_EVT_BUSY_SEEN 1).count (Reg.CLASS_STAT_BUSY_COUNT d.req.desc.cls) 1 else g
  if d.status = .badDesc then g.set Reg.SERVE_EVT_BAD_DESC_SEEN 1 else g
/-- The partition as the record of a descriptor is written. -/
def Part.noteDone (P : Part) (d : Done) : Part := { P with regs := P.regs.noteDone d, owed := P.owed - 1 }

/-- The end of a descriptor is noted, and its record is written, or waits. -/
theorem Part.writeDone_noted (P : Part) (c : HCtx) (d : Done) : P.writeDone c d =
    if (P.noteDone d).canEmit c .completion && ((P.noteDone d).ring 1).waiting.isEmpty
    then (P.noteDone d).emit c .completion ((P.noteDone d).doneBytes d)
    else ((P.noteDone d).modRing 1 fun R =>
      { R with waiting := R.waiting ++ [⟨d.req.seq, (P.noteDone d).doneBytes d, false, false⟩] }, []) := by
  have hnote : P.noteDone d = (
      let P := { P with owed := P.owed - 1 }
      let P := if d.status = .busy then (P.evt Reg.SERVE_EVT_BUSY_SEEN).cnt (Reg.CLASS_STAT_BUSY_COUNT d.req.desc.cls) 1 else P
      if d.status = .badDesc then P.evt Reg.SERVE_EVT_BAD_DESC_SEEN else P) := by
    dsimp only [Part.noteDone, RegFile.noteDone]
    split <;> split <;> rfl
  rw [hnote]
  rfl

theorem Part.writeDone_eq (P : Part) (c : HCtx) (d : Done) :
    ∃ g k r, (P.writeDone c d).1 = { P with regs := g, keys := k, rings := r, owed := P.owed - 1 } ∧ r ≠ [] := by
  rw [Part.writeDone_noted]
  split
  · obtain ⟨g, k, R, os, ph, env, hemit, -, hR⟩ := (P.noteDone d).emit_eq c .completion ((P.noteDone d).doneBytes d)
    exact ⟨g, k, _, by rw [hemit]; rfl, Map.set_ne_nil hR _ _⟩
  · exact ⟨_, _, _, rfl, Map.set_ne_nil (Ring.waits_ne_reset _ _) _ _⟩
theorem Part.getR_writeDone {f : Fld} (hf : f.eventFree) (P : Part) (c : HCtx) (d : Done) :
    (P.writeDone c d).1.getR f = (P.regs.noteDone d).get f := by
  rw [Part.writeDone_noted]
  split
  · exact Part.getR_seal hf (P.noteDone d) _ _ _
  · rfl
theorem Part.writeDone_consKept (P : Part) (c : HCtx) (d : Done) : P.consKept (P.writeDone c d).1 := by
  have hkept : P.consKept (P.noteDone d) := Part.consKept_of_rings rfl
  rw [Part.writeDone_noted]
  refine hkept.trans ?_
  split
  · exact (P.noteDone d).emit_consKept c _ _
  · exact (P.noteDone d).modRing_consKept 1 rfl

/-- The record of R315 begins with the descriptor's SUBMIT_SEQ and has its status at byte 17. -/
theorem Part.doneBytes_fields (P : Part) (d : Done) :
    (P.doneBytes d).length = 64 ∧ leNat ((P.doneBytes d).take 8) = d.req.seq % 2 ^ 64
      ∧ (P.doneBytes d).getD 17 0 = BitVec.ofNat 8 d.status.code := by
  have hseq : ∃ l, P.doneBytes d = leBytes 8 d.req.seq ++ l := by
    unfold Part.doneBytes
    dsimp only
    simp only [List.append_assoc]
    exact ⟨_, rfl⟩
  refine ⟨by simp [Part.doneBytes, leBytes_length], ?_, by simp [Part.doneBytes, leBytes]⟩
  obtain ⟨l, hl⟩ := hseq
  rw [hl, List.take_left' (leBytes_length 8 _), leNat_leBytes]
  norm_num

/-- The result writes the completion record of descriptor `seq` with a status, or has it wait (R301, R315, R429). -/
def PRes.completes (r : PRes) (p : PartId) (seq : Nat) (st : Status) : Prop :=
  ∃ bytes : List Byte, bytes.length = 64 ∧ leNat (bytes.take 8) = seq % 2 ^ 64 ∧ bytes.getD 17 0 = BitVec.ofNat 8 st.code
    ∧ ((∃ port i env, Out.record p port .completion i bytes env ∈ r.2) ∨ ∃ w ∈ (r.1.ring 1).waiting, w.bytes = bytes)

theorem State.completes_withResult {s : State} {p : PartId} {r : PRes} {seq : Nat} {st : Status} (h : r.completes p seq st)
    (hpart : (s.withResult p r).m.part p.val = { r.1 with faultEnds := 0 }) : s.completes (s.withResult p r) p seq st := by
  obtain ⟨bytes, hlen, hseq, hst, hrec⟩ := h
  refine ⟨bytes, hlen, hseq, hst, ?_⟩
  rw [State.withResult_out, List.drop_left, hpart]
  exact hrec

theorem Part.ring_waits (P : Part) (i : Nat) (w : TokenRec) :
    (P.modRing i fun R => { R with waiting := R.waiting ++ [w] }).ring i
      = { P.ring i with waiting := (P.ring i).waiting ++ [w] } := Map.get_set_listed (Ring.waits_ne_reset (P.ring i) w) P.rings i
theorem Part.writeDone_completes (P : Part) (c : HCtx) (d : Done) : (P.writeDone c d).completes c.p d.req.seq d.status := by
  obtain ⟨hlen, hseq, hst⟩ := (P.noteDone d).doneBytes_fields d
  rw [Part.writeDone_noted]
  split
  · obtain ⟨g, k, R, os, ph, env, hemit, -⟩ := (P.noteDone d).emit_eq c .completion ((P.noteDone d).doneBytes d)
    rw [hemit]
    refine ⟨_, ?_, ?_, ?_, .inl ⟨_, _, _, List.mem_cons_self⟩⟩
    · rw [List.length_set, hlen]
    · rw [List.take_set_of_le (by decide), hseq]
    · rw [List.getD_eq_getElem?_getD, List.getElem?_set_ne (by decide), ← List.getD_eq_getElem?_getD, hst]
  · refine ⟨_, hlen, hseq, hst, .inr ⟨⟨d.req.seq, (P.noteDone d).doneBytes d, false, false⟩, ?_, rfl⟩⟩
    rw [Part.ring_waits]
    exact List.mem_append_right _ List.mem_cons_self

/-! ### The end of a descriptor -/

section
variable {P : Part} {d : Done} (hw : (P.ring (3 + d.req.desc.stream)).waiting = [])
include hw

theorem Part.tokensWait_none : P.tokensWait d.req = false := by
  rw [Part.tokensWait, hw, List.any_nil]
/-- With no token record of it waiting, a descriptor ends with its record (R301). -/
theorem Part.complete_writes (c : HCtx) : ∃ n, P.complete c d = { P with faultEnds := n }.writeDone c d := by
  have hnone (n : Nat) : ({ P with faultEnds := n } : Part).tokensWait d.req = false := Part.tokensWait_none hw
  unfold Part.complete
  dsimp only
  split
  · exact ⟨P.faultEnds + 1, if_neg (by rw [hnone]; decide)⟩
  · exact ⟨P.faultEnds, if_neg (by rw [Part.tokensWait_none hw]; decide)⟩
theorem Part.complete_eq (c : HCtx) : ∃ g k r n,
    (P.complete c d).1 = { P with regs := g, keys := k, rings := r, owed := P.owed - 1, faultEnds := n } ∧ r ≠ [] := by
  obtain ⟨n, hn⟩ := Part.complete_writes hw c
  obtain ⟨g, k, r, hwrite, hr⟩ := Part.writeDone_eq { P with faultEnds := n } c d
  exact ⟨g, k, r, n, by rw [hn, hwrite], hr⟩
theorem Part.complete_completes (c : HCtx) : (P.complete c d).completes c.p d.req.seq d.status := by
  obtain ⟨n, hn⟩ := Part.complete_writes hw c
  rw [hn]
  exact Part.writeDone_completes _ c d
theorem Part.getR_complete {f : Fld} (hf : f.eventFree) (c : HCtx) : (P.complete c d).1.getR f = (P.regs.noteDone d).get f := by
  obtain ⟨n, hn⟩ := Part.complete_writes hw c
  rw [hn, Part.getR_writeDone hf]
end

/-! ### The fetch of descriptors -/

/-- The read of the next descriptor (R304, R308). -/
def Part.nextFetch (P : Part) (c : HCtx) : Fetch := ⟨P.fetchNext, bellOf P.bells P.fetchNext c.now, none⟩
/-- The partition once that read has begun. -/
def Part.fetchBegun (P : Part) (c : HCtx) : Part :=
  { P with
    fetching := P.fetching ++ [P.nextFetch c], fetchNext := P.fetchNext + 1
    fetchIdx := (P.fetchIdx + 1) % P.ringSize 0, owed := P.owed + 1 }

theorem Part.fetchMore_begins {P : Part} {c : HCtx} (h : P.mayFetch c = true) (n : Nat) : ∃ a,
    P.fetchMore c (n + 1) = (((P.fetchBegun c).fetchMore c n).1,
      .hostRead (some c.p) c.port a P.sqEntry :: ((P.fetchBegun c).fetchMore c n).2) := by
  rw [Part.fetchMore, if_pos h]
  exact ⟨_, rfl⟩
theorem Part.fetchMore_waits {P : Part} {c : HCtx} (h : P.mayFetch c = false) (n : Nat) : P.fetchMore c n = (P, []) := by
  cases n with
  | zero => rfl
  | succ n => rw [Part.fetchMore, if_neg (by rw [h]; decide)]
/-- No read begins where every entry up to TAIL has been asked for. -/
theorem Part.fetchMore_idle {P : Part} (h : P.fetchIdx = P.tail) (c : HCtx) (n : Nat) : P.fetchMore c n = (P, []) :=
  Part.fetchMore_waits (by simp [Part.mayFetch, h]) n

/-- Reads that begin join those in flight; each takes the next SUBMIT_SEQ and is owed (R304). -/
theorem Part.fetchMore_eq (P : Part) (c : HCtx) (n : Nat) : ∃ fs i, fs.length ≤ n
    ∧ (P.fetchMore c n).1 = { P with
        fetching := P.fetching ++ fs, fetchNext := P.fetchNext + fs.length, fetchIdx := i, owed := P.owed + fs.length } := by
  induction n generalizing P with
  | zero => exact ⟨[], P.fetchIdx, Nat.le_refl 0, by rw [List.append_nil]; rfl⟩
  | succ n ih =>
    cases hmay : P.mayFetch c with
    | true =>
      obtain ⟨a, hbegins⟩ := Part.fetchMore_begins hmay n
      obtain ⟨fs, i, hlen, hfs⟩ := ih (P.fetchBegun c)
      refine ⟨P.nextFetch c :: fs, i, Nat.succ_le_succ hlen, ?_⟩
      rw [hbegins, hfs, List.length_cons, ← List.singleton_append (l := fs), ← List.append_assoc, Nat.add_comm fs.length,
        ← Nat.add_assoc, ← Nat.add_assoc]
      rfl
    | false => exact ⟨[], P.fetchIdx, Nat.zero_le _, by rw [Part.fetchMore_waits hmay, List.append_nil]; rfl⟩

/-- The partition but for its fetch of descriptors: two partitions with the same rest differ in no other field. -/
def Part.unfetched (P : Part) : Part := { P with fetching := [], fetchNext := 0, fetchIdx := 0, owed := 0, faultEnds := 0 }

theorem Part.unfetched_fetchMore (P : Part) (c : HCtx) (n : Nat) : (P.fetchMore c n).1.unfetched = P.unfetched := by
  obtain ⟨fs, i, -, h⟩ := P.fetchMore_eq c n
  rw [h]
  rfl
theorem Part.fetchMore_consKept (P : Part) (c : HCtx) (n : Nat) : P.consKept (P.fetchMore c n).1 :=
  by
  have hrest := P.unfetched_fetchMore c n
  exact Part.consKept_of_rings (congrArg Part.rings hrest :)

end Sys2Proof.Machine
end

section
/-! O41: doorbells and the coalescing timer (R300 to R306). -/
namespace Sys2Proof.Machine

/-! ### Records that have waited -/

theorem Part.noteToken_rings (P : Part) (now : Nat) (w : TokenRec) : (P.noteToken now w).rings = P.rings := by
  unfold Part.noteToken
  dsimp only
  (repeat' split) <;> rfl

theorem Part.drainStream_consKept (P : Part) (c : HCtx) (n : Fin 64) (fuel : Nat) : P.consKept (P.drainStream c n fuel).1 := by
  induction fuel generalizing P with
  | zero => exact Part.consKept_of_rings rfl
  | succ fuel ih =>
    unfold Part.drainStream
    split
    next => exact Part.consKept_of_rings rfl
    next w ws _ =>
      split
      · have hemit := (P.modRing_consKept (3 + n.val) (f := fun R => { R with waiting := ws }) rfl).trans
          (Part.emit_consKept _ c (.stream n) (stampTime c.now w.bytes))
        exact (hemit.trans (Part.consKept_of_rings (Part.noteToken_rings _ c.now w))).trans (ih _)
      · exact Part.consKept_of_rings rfl

theorem Part.flushDone_consKept (P : Part) (c : HCtx) : P.consKept (P.flushDone c).1 :=
  forEach_consKept (Part.consKept_of_rings rfl) fun d Q => Q.writeDone_consKept c d

/-- A record of the completion or event ring that has waited, written if there is room. -/
def PRes.drainOne (c : HCtx) (rid : RingId) (r : PRes) (w : TokenRec) : PRes :=
  if r.1.canEmit c rid then
    r.andThen fun P => (P.modRing rid.num fun R => { R with waiting := R.waiting.drop 1 }).emit c rid w.bytes
  else r

theorem foldl_drainOne_consKept (c : HCtx) (rid : RingId) (ws : List TokenRec) (P : Part) :
    P.consKept (ws.foldl (PRes.drainOne c rid) (P, [])).1 := by
  refine List.foldlRecOn ws _ (motive := fun r : PRes => P.consKept r.1) (Part.consKept_of_rings rfl) fun r hr w _ => ?_
  unfold PRes.drainOne
  split
  · exact hr.trans ((r.1.modRing_consKept rid.num rfl).trans (Part.emit_consKept _ c rid w.bytes))
  · exact hr

theorem Part.drainAll_consKept (P : Part) (c : HCtx) : P.consKept (P.drainAll c).1 := by
  unfold Part.drainAll
  dsimp only
  refine PRes.andThen_consKept (PRes.andThen_consKept (PRes.andThen_consKept ?_ fun Q => ?_) fun Q => ?_) fun Q => ?_
  · exact forEach_consKept (Part.consKept_of_rings rfl) fun n Q => Q.drainStream_consKept c n 3072
  · exact Q.flushDone_consKept c
  · exact foldl_drainOne_consKept c .completion _ Q
  · exact foldl_drainOne_consKept c .event _ Q

/-! ### A consumer index -/

theorem Part.headBad_iff {P : Part} {r idx : Nat} : P.headBad r idx = false ↔
    P.ringOn r = true ∧ idx < P.ringSize r ∧ (P.ringSize r + idx - (P.ring r).cons) % P.ringSize r ≤ P.ringUsed r := by
  simp [Part.headBad, and_assoc]

/-- The ring reads the host's index once it is taken over. -/
theorem Part.setHead_cons {P : Part} (hs : Map.sortedFrom 0 P.rings = true) (r idx : Nat) :
    Map.sortedFrom 0 (P.setHead r idx).rings = true ∧ ((P.setHead r idx).ring r).cons = idx := by
  have hs' : Map.sortedFrom 0 (P.modRing r fun R => { R with cons := idx }).rings = true := Map.sortedFrom_set hs r
  have hring : (P.modRing r fun R => { R with cons := idx }).ring r = { P.ring r with cons := idx } := Map.get_set_sorted hs r
  have hcons : ((P.modRing r fun R => { R with cons := idx }).ring r).cons = idx := by rw [hring]
  obtain ⟨hsort, hkept⟩ := Part.consKept_set (Q := P.setHead r idx) rfl rfl hs'
  exact ⟨hsort, (hkept r).trans hcons⟩

/-- The partition with the host's index taken over by a doorbell. -/
def Part.takeHead (P : Part) (c : HCtx) (r idx : Nat) : Part := { P.setHead r idx with hostLost := P.hostLost && !c.up }

theorem Part.takeHead_cons {P : Part} (hs : Map.sortedFrom 0 P.rings = true) (c : HCtx) (r idx : Nat) :
    Map.sortedFrom 0 (P.takeHead c r idx).rings = true ∧ ((P.takeHead c r idx).ring r).cons = idx := Part.setHead_cons hs r idx

/-! ### Doorbells -/

section
variable {s : State} {w : Writer} {p : PartId} {val : W32} {n : Fin 64}

/-- A doorbell write by another function (R302). -/
theorem bell_ignored (h : s.m.bellOwner w p = false) {i : Instr}
    (hi : i = .sqTail w p val ∨ i = .cqHead w p val ∨ i = .eqHead w p val ∨ i = .streamHead w p n val) : exec i s = .next s := by
  rcases hi with rfl | rfl | rfl | rfl <;> exact lift_onPart_of_not s p (g := fun m => m.bellOwner w p) h _

theorem exec_cqHead (s : State) (w : Writer) (p : PartId) (val : W32) : exec (.cqHead w p val) s
    = headBell w p 1 0x008 val (fun c P => (P.drainAll c).andThen fun P => P.fetchMore c 16) s := rfl
theorem exec_eqHead (s : State) (w : Writer) (p : PartId) (val : W32) : exec (.eqHead w p val) s
    = headBell w p 2 0x010 val (fun c P => P.drainAll c) s := rfl
theorem exec_streamHead (s : State) (w : Writer) (p : PartId) (n : Fin 64) (val : W32) : exec (.streamHead w p n val) s
    = headBell w p (3 + n.val) (0x100 + 8 * n.val) val
      (fun c P => (P.drainStream c n 3072).andThen fun P => P.flushDone c) s := rfl

/-- What a doorbell write of a consumer index changes (R300, R303). -/
def Part.headBell (P : Part) (c : HCtx) (r off : Nat) (val : W32) (andThen : HCtx → Part → PRes) : PRes :=
  if P.headBad r (val.toNat % 65536) then P.bellBad c off val
  else andThen c (P.takeHead c r (val.toNat % 65536))

section
variable (h : s.m.bellOwner w p = true)
include h

theorem headBell_owned (r off : Nat) (f : HCtx → Part → PRes) :
    headBell w p r off val f s = .next (s.withResult p ((s.m.part p.val).headBell (s.m.hctx p) r off val f)) :=
  lift_onPart_of s p (g := fun m => m.bellOwner w p) h _

/-- An index in bounds is taken over; what is written and read then leaves it (R300). -/
theorem head_taken {i : Instr} {r off : Nat} {f : HCtx → Part → PRes} (hi : exec i s = headBell w p r off val f s)
    (hf : ∀ c Q, Part.consKept Q (f c Q).1) (hparts : Map.sortedFrom 0 s.m.parts = true)
    (hs : Map.sortedFrom 0 (s.m.part p.val).rings = true) (hok : (s.m.part p.val).headBad r (val.toNat % 65536) = false) :
    ∃ s', exec i s = .next s' ∧ s.onlyPart s' p ∧ ((s'.m.part p.val).ring r).cons = val.toNat % 65536 := by
  refine ⟨_, hi.trans (headBell_owned h r off f), State.onlyPart_withResult s p _, ?_⟩
  rw [State.withResult_part s p _ hparts, Part.headBell, if_neg (by rw [hok]; decide)]
  obtain ⟨hsort, hcons⟩ := Part.takeHead_cons hs (s.m.hctx p) r (val.toNat % 65536)
  obtain ⟨-, hkept⟩ := hf (s.m.hctx p) _ hsort
  exact (hkept r).trans hcons
end

/-- An index out of bounds sets DOORBELL_BAD, with an event, and changes no index (R303). -/
theorem Part.bellBad_keeps (P : Part) (c : HCtx) (off : Nat) (val : W32) :
    (P.bellBad c off val).1.flagR Reg.SERVE_EVT_DOORBELL_BAD = true ∧ (P.bellBad c off val).1.tail = P.tail
      ∧ P.consKept (P.bellBad c off val).1 := by
  obtain ⟨g, k, r, hevent⟩ := (P.evt Reg.SERVE_EVT_DOORBELL_BAD).event_eq c 0x0008 off val.toNat
  obtain ⟨hflag, -⟩ := Part.raised_evt P (e := Reg.SERVE_EVT_DOORBELL_BAD) rfl rfl
  refine ⟨(Part.flagR_event (by decide) _ c _ _ _).trans hflag, ?_, ?_⟩
  · rw [Part.bellBad, hevent]
    rfl
  · have hevt : P.consKept (P.evt Reg.SERVE_EVT_DOORBELL_BAD) := Part.consKept_of_rings rfl
    exact hevt.trans (Part.event_consKept _ c _ _ _)
theorem bell_refused {i : Instr} {off : Nat} (hparts : Map.sortedFrom 0 s.m.parts = true)
    (hs : Map.sortedFrom 0 (s.m.part p.val).rings = true)
    (hi : exec i s = .next (s.withResult p ((s.m.part p.val).bellBad (s.m.hctx p) off val))) :
    ∃ s', exec i s = .next s' ∧ s.onlyPart s' p ∧ (s'.m.part p.val).flagR Reg.SERVE_EVT_DOORBELL_BAD = true
      ∧ (s'.m.part p.val).tail = (s.m.part p.val).tail
      ∧ ∀ r, ((s'.m.part p.val).ring r).cons = ((s.m.part p.val).ring r).cons := by
  refine ⟨_, hi, State.onlyPart_withResult s p _, ?_⟩
  rw [State.withResult_part s p _ hparts]
  obtain ⟨hflag, htail, hcons⟩ := (s.m.part p.val).bellBad_keeps (s.m.hctx p) off val
  exact ⟨hflag, htail, (hcons hs).2⟩
theorem head_refused (h : s.m.bellOwner w p = true) {i : Instr} {r off : Nat} {f : HCtx → Part → PRes}
    (hi : exec i s = headBell w p r off val f s) (hparts : Map.sortedFrom 0 s.m.parts = true)
    (hs : Map.sortedFrom 0 (s.m.part p.val).rings = true) (hbad : (s.m.part p.val).headBad r (val.toNat % 65536) = true) :
    ∃ s', exec i s = .next s' ∧ s.onlyPart s' p ∧ (s'.m.part p.val).flagR Reg.SERVE_EVT_DOORBELL_BAD = true
      ∧ (s'.m.part p.val).tail = (s.m.part p.val).tail
      ∧ ∀ r, ((s'.m.part p.val).ring r).cons = ((s.m.part p.val).ring r).cons := by
  refine bell_refused (off := off) (val := val) hparts hs (hi.trans ((headBell_owned h r off f).trans ?_))
  rw [Part.headBell, if_pos hbad]

/-! ### SQ_TAIL -/

/-- The partition with the tail that a doorbell gives (R303). -/
def Part.setTail (P : Part) (c : HCtx) (idx : Nat) : Part :=
  { P with
    tail := idx, bells := P.bells ++ [(P.fetchNext + (P.ringSize 0 + idx - P.fetchIdx) % P.ringSize 0, c.now)]
    fetchStopped := false, hostLost := P.hostLost && !c.up }

theorem sqTail_taken (h : s.m.bellOwner w p = true) (hon : (s.m.part p.val).ringOn 0 = true)
    (hidx : val.toNat % 65536 < (s.m.part p.val).ringSize 0) : exec (.sqTail w p val) s
      = .next (s.withResult p (((s.m.part p.val).setTail (s.m.hctx p) (val.toNat % 65536)).fetchMore (s.m.hctx p) 16)) := by
  refine (lift_onPart_of s p (g := fun m => m.bellOwner w p) h _).trans ?_
  rw [if_neg (by simp [hon, hidx])]
  rfl
theorem sqTail_refused (h : s.m.bellOwner w p = true)
    (hbad : (s.m.part p.val).ringOn 0 = false ∨ (s.m.part p.val).ringSize 0 ≤ val.toNat % 65536) :
    exec (.sqTail w p val) s = .next (s.withResult p ((s.m.part p.val).bellBad (s.m.hctx p) 0x000 val)) := by
  refine (lift_onPart_of s p (g := fun m => m.bellOwner w p) h _).trans ?_
  rw [if_pos (by rcases hbad with h | h <;> simp [h])]

/-- With nothing in flight, owed or waiting, a tail ahead of the fetch begins at least one read (R304). -/
theorem Part.setTail_mayFetch {P : Part} {c : HCtx} {idx : Nat} (hon : P.ringOn 0 = true) (hidx : idx ≠ P.fetchIdx) (hup : c.up = true)
    (hseal : P.isSealed = true) (hon1 : P.ringOn 1 = true) (hf : P.fetching = []) (ho : P.owed = 0) (hu : P.ringUsed 1 = 0)
    (hw : (P.ring 1).waiting = []) (hc : P.confidential = false) : (P.setTail c idx).mayFetch c = true := by
  have hroom : 0 < P.ringSize 1 - 1 := by
    have hpow : 1 ≤ 2 ^ P.getR (Reg.RING_CFG_SIZE_CODE 1) := Nat.one_le_two_pow
    have hsize : P.ringSize 1 = 64 * 2 ^ P.getR (Reg.RING_CFG_SIZE_CODE 1) := rfl
    omega
  have hmay : (P.setTail c idx).mayFetch c = (c.up && P.isSealed && !false && P.ringOn 0 && P.ringOn 1 && P.fetchIdx != idx
    && decide (P.fetching.length < 16) && decide (P.owed + P.ringUsed 1 + (P.ring 1).waiting.length < P.ringSize 1 - 1)
    && (!P.confidential || P.keys.inKey.isSome)) := rfl
  simp [hmay, hup, hseal, hon, hon1, Ne.symm hidx, hf, ho, hu, hw, hc, hroom]

theorem sqTail_sets_tail (h : s.m.bellOwner w p = true) (hparts : Map.sortedFrom 0 s.m.parts = true)
    (hon : (s.m.part p.val).ringOn 0 = true) (hidx : val.toNat % 65536 < (s.m.part p.val).ringSize 0) :
    ∃ s', exec (.sqTail w p val) s = .next s' ∧ s.onlyPart s' p ∧ (s'.m.part p.val).tail = val.toNat % 65536
      ∧ (s'.m.part p.val).fetchStopped = false := by
  refine ⟨_, sqTail_taken h hon hidx, State.onlyPart_withResult s p _, ?_⟩
  have hrest := ((s.m.part p.val).setTail (s.m.hctx p) (val.toNat % 65536)).unfetched_fetchMore (s.m.hctx p) 16
  rw [State.withResult_part s p _ hparts]
  exact ⟨(congrArg Part.tail hrest :), (congrArg Part.fetchStopped hrest :)⟩

theorem sqTail_reads (h : s.m.bellOwner w p = true) (hparts : Map.sortedFrom 0 s.m.parts = true)
    (hon : (s.m.part p.val).ringOn 0 = true) (hidx : val.toNat % 65536 < (s.m.part p.val).ringSize 0)
    (hmay : ((s.m.part p.val).setTail (s.m.hctx p) (val.toNat % 65536)).mayFetch (s.m.hctx p) = true)
    (hf : (s.m.part p.val).fetching = []) (ho : (s.m.part p.val).owed = 0) (hc : (s.m.part p.val).confidential = false) :
    ∃ s', exec (.sqTail w p val) s = .next s' ∧ s.onlyPart s' p ∧ ∃ f fs o, (s'.m.part p.val).fetching = f :: fs
      ∧ f.seq = (s.m.part p.val).fetchNext ∧ f.data = none ∧ fs.length < 16
      ∧ (s'.m.part p.val).fetchNext = (s.m.part p.val).fetchNext + fs.length + 1 ∧ (s'.m.part p.val).owed = fs.length + 1
      ∧ (s'.m.out.drop s.m.out.length).head? = some o ∧ ∃ a, o = .hostRead (some p) (s.m.hctx p).port a 128 := by
  obtain ⟨a, hbegins⟩ := Part.fetchMore_begins hmay 15
  refine ⟨_, sqTail_taken h hon hidx, State.onlyPart_withResult s p _, ?_⟩
  rw [State.withResult_part s p _ hparts, State.withResult_out, List.drop_left, hbegins]
  obtain ⟨fs, i, hlen, hfetch⟩ := (((s.m.part p.val).setTail (s.m.hctx p) (val.toNat % 65536)).fetchBegun (s.m.hctx p)).fetchMore_eq
    (s.m.hctx p) 15
  have hentry : ((s.m.part p.val).setTail (s.m.hctx p) (val.toNat % 65536)).sqEntry = 128 := by
    have hstd : ((s.m.part p.val).setTail (s.m.hctx p) (val.toNat % 65536)).confidential = false := hc
    rw [Part.sqEntry, hstd]
    rfl
  have hfirst (f : Fetch) : (s.m.part p.val).fetching ++ [f] ++ fs = f :: fs := by rw [hf]; rfl
  have howed : (s.m.part p.val).owed + 1 + fs.length = fs.length + 1 := by rw [ho]; omega
  rw [hfetch, hentry]
  exact ⟨_, fs, _, hfirst _, rfl, rfl, by omega, Nat.add_right_comm _ _ _, howed, rfl, a, rfl⟩

/-! ### The coalescing timer -/

theorem coalesceTimer_signals {rid : RingId} (hun : ((s.m.part p.val).ring rid.num).unsignalled ≠ 0)
    (hdue : ((s.m.part p.val).ring rid.num).sinceUs + (s.m.part p.val).getR (Reg.RING_CFG_COAL_US rid.num) ≤ (s.m.hctx p).now)
    (hup : (s.m.hctx p).up = true) : exec (.coalesceTimer p rid) s
      = .next (s.withResult p ((s.m.part p.val).modRing rid.num fun R => { R with unsignalled := 0 },
          [.msix (s.m.hctx p).port (s.m.hctx p).func ((s.m.part p.val).getR (Reg.RING_CFG_VECTOR rid.num))])) := by
  refine (lift_onPart s p _).trans ?_
  rw [if_pos ⟨hun, hdue, hup⟩]
theorem coalesceTimer_ends {rid : RingId} (hparts : Map.sortedFrom 0 s.m.parts = true)
    (hs : Map.sortedFrom 0 (s.m.part p.val).rings = true) (hun : ((s.m.part p.val).ring rid.num).unsignalled ≠ 0)
    (hdue : ((s.m.part p.val).ring rid.num).sinceUs + (s.m.part p.val).getR (Reg.RING_CFG_COAL_US rid.num) ≤ (s.m.hctx p).now)
    (hup : (s.m.hctx p).up = true) : ∃ s', exec (.coalesceTimer p rid) s = .next s' ∧ s.onlyPart s' p
      ∧ ((s'.m.part p.val).ring rid.num).unsignalled = 0
      ∧ Out.msix (s.m.hctx p).port (s.m.hctx p).func ((s.m.part p.val).getR (Reg.RING_CFG_VECTOR rid.num)) ∈ s'.m.out := by
  refine ⟨_, coalesceTimer_signals hun hdue hup, State.onlyPart_withResult s p _, ?_, ?_⟩
  · rw [State.withResult_part s p _ hparts]
    exact congrArg Ring.unsignalled (Map.get_set_sorted hs rid.num)
  · rw [State.withResult_out]
    exact List.mem_append_right _ List.mem_cons_self
end

/-! ### The obligation -/

/-- Settles O41: an index in bounds is taken over, and no record written afterwards moves it; one out of bounds is `Part.bellBad`. -/
theorem doorbells : Obligations.Doorbells := by
  unfold Obligations.Doorbells
  intro s w p val n rid P idx c ends headOk head bad hord hs
  obtain ⟨-, -, hparts, -⟩ := hord
  have hhead {i : Instr} {r off : Nat} {f : HCtx → Part → PRes} (h : s.m.bellOwner w p = true)
      (hi : exec i s = headBell w p r off val f s) (hf : ∀ c Q, Part.consKept Q (f c Q).1) : head i r := fun hok =>
    head_taken h hi hf hparts hs (Part.headBad_iff.2 hok)
  have hbad {i : Instr} {r off : Nat} {f : HCtx → Part → PRes} (h : s.m.bellOwner w p = true)
      (hi : exec i s = headBell w p r off val f s) (hno : ¬ headOk r) : bad i :=
    head_refused h hi hparts hs (Bool.eq_true_of_not_eq_false fun hok => hno (Part.headBad_iff.1 hok))
  have htail (h : s.m.bellOwner w p = true) (hno : P.ringOn 0 = false ∨ P.ringSize 0 ≤ idx) : bad (.sqTail w p val) :=
    bell_refused hparts hs (sqTail_refused h hno)
  clear_value head bad headOk
  refine ⟨fun h i hi => bell_ignored h hi, fun h => ⟨sqTail_sets_tail h hparts, fun hon hidx hne hup hseal hon1 hf ho hu hw hc =>
      sqTail_reads h hparts hon hidx (Part.setTail_mayFetch hon hne hup hseal hon1 hf ho hu hw hc) hf ho hc,
    htail h, hhead h (exec_cqHead s w p val) fun c Q => ?_, hhead h (exec_eqHead s w p val) fun c Q => Q.drainAll_consKept c,
    hhead h (exec_streamHead s w p n val) fun c Q => ?_, hbad h (exec_cqHead s w p val), hbad h (exec_eqHead s w p val),
    hbad h (exec_streamHead s w p n val)⟩, coalesceTimer_ends hparts hs⟩
  · exact PRes.andThen_consKept (Q.drainAll_consKept c) fun Q => Q.fetchMore_consKept c 16
  · exact PRes.andThen_consKept (Q.drainStream_consKept c n 3072) fun Q => Q.flushDone_consKept c

end Sys2Proof.Machine
end

section
/-! O42: descriptors as they are read (R304, R305, R307, R316, R383, R395). -/
namespace Sys2Proof.Machine

/-! ### Inbound envelopes (R395) -/

section
variable (P : Part) (env : Option Envelope) (cls idx seq len : Nat)

/-- An envelope opens, and at most a key is retired, or its failure is counted. -/
theorem Part.openEnv_cases : (∃ k, P.openEnv env cls idx seq len = ({ P with keys := k }, true))
    ∨ P.openEnv env cls idx seq len = ((P.cnt Reg.AUTH_FAIL_COUNT_AUTH_FAILS 1).evt Reg.PART_EVT_AUTH_FAIL_SEEN, false) := by
  unfold Part.openEnv
  split
  · exact .inl ⟨_, rfl⟩
  dsimp only
  cases env with
  | none => exact .inr rfl
  | some e =>
    dsimp only
    split
    · split <;> exact .inl ⟨_, rfl⟩
    · exact .inr rfl
/-- An envelope changes registers and keys. -/
theorem Part.openEnv_eq : ∃ g k, (P.openEnv env cls idx seq len).1 = { P with regs := g, keys := k } := by
  rcases P.openEnv_cases env cls idx seq len with ⟨k, h⟩ | h
  · exact ⟨_, k, by rw [h]⟩
  · exact ⟨_, _, by rw [h]; rfl⟩
/-- Whether it opens depends on registers and keys. -/
theorem Part.openEnv_opens {P Q : Part} (hr : Q.regs = P.regs) (hk : Q.keys = P.keys) :
    (Q.openEnv env cls idx seq len).2 = (P.openEnv env cls idx seq len).2 := by
  have hc : Q.confidential = P.confidential := by rw [Part.confidential, Part.flagR, hr]; rfl
  unfold Part.openEnv
  rw [hc, hk]
  split
  · rfl
  cases env with
  | none => rfl
  | some e =>
    dsimp only
    split <;> rfl
/-- The register fields that an envelope leaves alone. -/
theorem Part.getR_openEnv {f : Fld} (hcount : f.key ≠ Reg.AUTH_FAIL_COUNT_AUTH_FAILS.key)
    (hseen : f.key ≠ Reg.PART_EVT_AUTH_FAIL_SEEN.key) :
    (P.openEnv env cls idx seq len).1.getR f = P.getR f := by
  rcases P.openEnv_cases env cls idx seq len with ⟨k, h⟩ | h
  · rw [h]
    rfl
  · rw [h]
    exact (Part.getR_setR_other hseen _ 1).trans (RegFile.get_set_other hcount P.regs _)
theorem Part.turnSeq_openEnv : (P.openEnv env cls idx seq len).1.turnSeq = P.turnSeq := by
  simp (disch := decide) only [Part.turnSeq, Part.getR_openEnv]
/-- One that does not open sets AUTH_FAIL_SEEN. -/
theorem Part.openEnv_refused {P : Part} (h : (P.openEnv env cls idx seq len).2 = false) :
    (P.openEnv env cls idx seq len).1.flagR Reg.PART_EVT_AUTH_FAIL_SEEN = true := by
  rcases P.openEnv_cases env cls idx seq len with ⟨k, hopen⟩ | hopen
  · rw [hopen] at h
    cases h
  · rw [hopen]
    exact (Part.raised_evt _ rfl rfl).1
end

/-! ### The oldest read -/

theorem PRes.andThen_done {r : PRes} {f : Part → PRes} (h : f r.1 = (r.1, [])) : r.andThen f = r := by
  rw [PRes.andThen, h, List.append_nil]

/-- What the end of the oldest read `f` does, once `f` is no longer in flight: it is handed on, or completes at once. -/
def Part.handFirst (P : Part) (c : HCtx) (f : Fetch) (env : Option Envelope) (bs : List Byte) : PRes :=
  let o := P.openEnv env 0x01 0 f.seq 128
  if !o.2 then o.1.complete c (plainDone f.seq {} .authFail P.turnSeq)
  else match readDesc bs with
    | none => o.1.complete c (plainDone f.seq (badDescFields bs) .badDesc P.turnSeq)
    | some d => ({ o.1 with handed := o.1.handed ++ [⟨f.seq, f.bellUs, d⟩] }, [])

theorem Part.handOn_nil {P : Part} (h : P.fetching = []) (c : HCtx) (n : Nat) : P.handOn c n = (P, []) := by
  cases n with
  | zero => rfl
  | succ n => simp only [Part.handOn, h]
theorem Part.handOn_data {P : Part} {f : Fetch} {fs : List Fetch} {env : Option Envelope} {bs : List Byte} (hf : P.fetching = f :: fs)
    (hd : f.data = some (.data env bs)) (c : HCtx) (n : Nat) :
    P.handOn c (n + 1) = (Part.handFirst { P with fetching := fs } c f env bs).andThen fun P => P.handOn c n := by
  simp only [Part.handOn, hf, hd]
  rfl

section
variable {P : Part} {c : HCtx} {f : Fetch} {env : Option Envelope} {bs : List Byte}

theorem Part.handFirst_handed {d : Desc} (ho : (P.openEnv env 0x01 0 f.seq 128).2 = true) (hd : readDesc bs = some d) :
    ∃ g k, P.handFirst c f env bs = ({ P with regs := g, keys := k, handed := P.handed ++ [⟨f.seq, f.bellUs, d⟩] }, []) := by
  obtain ⟨g, k, heq⟩ := P.openEnv_eq env 0x01 0 f.seq 128
  refine ⟨g, k, ?_⟩
  unfold Part.handFirst
  dsimp only
  rw [ho, hd, heq]
  rfl

variable (hw : (P.ring 3).waiting = [])
include hw

/-- R395: a descriptor whose envelope does not open. -/
theorem Part.handFirst_refused (ho : (P.openEnv env 0x01 0 f.seq 128).2 = false) :
    (∃ g k r n, (P.handFirst c f env bs).1 = { P with regs := g, keys := k, rings := r, owed := P.owed - 1, faultEnds := n })
      ∧ (P.handFirst c f env bs).completes c.p f.seq .authFail
      ∧ (P.handFirst c f env bs).1.flagR Reg.PART_EVT_AUTH_FAIL_SEEN = true := by
  have hfirst : P.handFirst c f env bs
      = (P.openEnv env 0x01 0 f.seq 128).1.complete c (plainDone f.seq {} .authFail P.turnSeq) := by
    unfold Part.handFirst
    dsimp only
    rw [ho]
    rfl
  have hseen := Part.openEnv_refused env 0x01 0 f.seq 128 ho
  obtain ⟨g, k, heq⟩ := P.openEnv_eq env 0x01 0 f.seq 128
  rw [heq] at hfirst hseen
  have hw' : (Part.ring { P with regs := g, keys := k }
    (3 + (plainDone f.seq {} .authFail P.turnSeq).req.desc.stream)).waiting = [] := hw
  obtain ⟨g', k', r, n, hdone, -⟩ := Part.complete_eq hw' c
  rw [hfirst]
  refine ⟨⟨g', k', r, n, hdone⟩, Part.complete_completes hw' c, Part.flagR_iff.2 ?_⟩
  rw [Part.getR_complete hw' (by decide)]
  exact Part.flagR_iff.1 hseen
/-- R307: a descriptor of unknown TYPE or with a reserved bit. -/
theorem Part.handFirst_bad (ho : (P.openEnv env 0x01 0 f.seq 128).2 = true) (hd : readDesc bs = none) :
    (∃ g k r n, (P.handFirst c f env bs).1 = { P with regs := g, keys := k, rings := r, owed := P.owed - 1, faultEnds := n })
      ∧ (P.handFirst c f env bs).completes c.p f.seq .badDesc
      ∧ (P.handFirst c f env bs).1.flagR Reg.SERVE_EVT_BAD_DESC_SEEN = true := by
  obtain ⟨g, k, heq⟩ := P.openEnv_eq env 0x01 0 f.seq 128
  have hfirst : P.handFirst c f env bs
      = ({ P with regs := g, keys := k } : Part).complete c (plainDone f.seq (badDescFields bs) .badDesc P.turnSeq) := by
    unfold Part.handFirst
    dsimp only
    rw [ho, hd, heq]
    rfl
  have hw' : (Part.ring { P with regs := g, keys := k }
    (3 + (plainDone f.seq (badDescFields bs) .badDesc P.turnSeq).req.desc.stream)).waiting = [] := hw
  obtain ⟨g', k', r, n, hdone, -⟩ := Part.complete_eq hw' c
  rw [hfirst]
  refine ⟨⟨g', k', r, n, hdone⟩, Part.complete_completes hw' c, Part.flagR_iff.2 ?_⟩
  rw [Part.getR_complete hw' (by decide)]
  exact Part.getR_evt_same { P with regs := g } rfl rfl
end

/-! ### DESCRIPTOR_READ_DONE and RING_FETCH_ERROR -/

theorem Mach.dmaServes_iff {m : Mach} {p : PartId} : m.dmaServes p = true ↔ m.boot.fixedSlots = false
    ∨ (m.hostPort ((m.part p.val).getR Reg.SERVE_CFG_PORT)).serving = some p := by
  simp [Mach.dmaServes]

section
variable {s : State} {p : PartId} {f : Fetch} {fs : List Fetch} {env : Option Envelope} {bs : List Byte}

/-- Reads do not end outside the slots of the port's DMA engine (R383). -/
theorem reads_wait (h : s.m.dmaServes p = false) (n : Nat) (kind : PayloadKind) (data : HostRead) :
    exec (.descriptorReadDone p n data) s = .next s ∧ exec (.payloadReadDone p n kind data) s = .next s :=
  ⟨lift_onPart_of_not s p (g := fun m => m.dmaServes p) h _, lift_onPart_of_not s p (g := fun m => m.dmaServes p) h _⟩

/-- The only read in flight ends, and no entry is left to fetch. -/
theorem descriptorReadDone_first (h : s.m.dmaServes p = true) (hf : (s.m.part p.val).fetching = [f]) (hd : f.data = none) {r : PRes}
    (hr : Part.handFirst { s.m.part p.val with fetching := [] } (s.m.hctx p) f env bs = r) (hnil : r.1.fetching = [])
    (hidx : r.1.fetchIdx = r.1.tail) : exec (.descriptorReadDone p f.seq (.data env bs)) s = .next (s.withResult p r) := by
  refine (lift_onPart_of s p (g := fun m => m.dmaServes p) h _).trans ?_
  have hmap : (s.m.part p.val).fetching.map (fun g => if g.seq = f.seq ∧ g.data.isNone then { g with data := some (.data env bs) } else g)
      = [{ f with data := some (.data env bs) }] := by
    rw [hf, List.map_singleton, if_pos ⟨rfl, by rw [hd]; rfl⟩]
  have hhand : Part.handOn { s.m.part p.val with fetching := [{ f with data := some (.data env bs) }] } (s.m.hctx p) 17 = r := by
    rw [Part.handOn_data rfl rfl]
    have hfirst : Part.handFirst { s.m.part p.val with fetching := [] } (s.m.hctx p) { f with data := some (.data env bs) } env bs = r := hr
    exact (congrArg (PRes.andThen · _) hfirst).trans (PRes.andThen_done (Part.handOn_nil hnil _ 16))
  dsimp only
  rw [hmap, hhand, PRes.andThen_done (Part.fetchMore_idle hidx _ 16)]

/-- The oldest read fails: it and every read after it are dropped (R305). -/
theorem Part.fetchFailed_first {P : Part} (hf : P.fetching = f :: fs) (hlt : ∀ g ∈ fs, f.seq < g.seq) (c : HCtx) :
    (∃ g k r i, (P.fetchFailed c f.seq).1 = { P with
      regs := g, keys := k, rings := r, fetching := [], fetchNext := f.seq, fetchIdx := i, owed := P.owed - (fs.length + 1)
      fetchStopped := true }) ∧ (P.fetchFailed c f.seq).1.flagR Reg.SERVE_EVT_FETCH_ERROR = true := by
  have hany : (P.fetching.any fun g => g.seq == f.seq) = true := by simp [hf]
  have hkeep : (P.fetching.filter fun g => decide (g.seq < f.seq)) = [] := by
    rw [hf, List.filter_eq_nil_iff]
    intro g hg
    rcases List.mem_cons.1 hg with rfl | hg
    · simp
    · simpa using (hlt g hg).le
  have hgone : P.fetching.length = fs.length + 1 := by rw [hf]; rfl
  unfold Part.fetchFailed
  rw [if_pos hany]
  dsimp only
  rw [hkeep, hgone]
  refine ⟨?_, (Part.flagR_event (by decide) _ c _ _ _).trans (Part.raised_evt _ rfl rfl).1⟩
  obtain ⟨g, k, r, hevent⟩ := Part.event_eq (Part.evt { P with
    fetching := [], fetchNext := f.seq, fetchIdx := (P.fetchIdx + P.ringSize 0 - (fs.length + 1 - 0) % P.ringSize 0) % P.ringSize 0
    owed := P.owed - (fs.length + 1 - 0), fetchStopped := true } Reg.SERVE_EVT_FETCH_ERROR) c 0x0009 0
    (4096 * (P.getR (Reg.BASE_LO_BASE 0)) + 2 ^ 32 * P.getR (Reg.BASE_HI_BASE 0)
      + P.sqEntry * ((P.fetchIdx + P.ringSize 0 - (fs.length + 1 - 0) % P.ringSize 0) % P.ringSize 0))
  exact ⟨g, k, r, _, hevent⟩

/-- What a failed read of the oldest descriptor leaves. -/
theorem fetchFailed_ends {i : Instr} (hi : exec i s = .next (s.withResult p ((s.m.part p.val).fetchFailed (s.m.hctx p) f.seq)))
    (hf : (s.m.part p.val).fetching = f :: fs) (hlt : ∀ g ∈ fs, f.seq < g.seq) :
    ∃ s', exec i s = .next s' ∧ s.onlyPart s' p ∧ (s'.m.part p.val).fetchStopped = true
      ∧ (s'.m.part p.val).flagR Reg.SERVE_EVT_FETCH_ERROR = true ∧ (s'.m.part p.val).fetching = []
      ∧ (s'.m.part p.val).fetchNext = f.seq ∧ (s'.m.part p.val).owed = (s.m.part p.val).owed - (fs.length + 1)
      ∧ (s'.m.part p.val).handed = (s.m.part p.val).handed := by
  obtain ⟨⟨g, k, r, idx, hpart⟩, hflag⟩ := Part.fetchFailed_first hf hlt (s.m.hctx p)
  refine ⟨_, hi, State.onlyPart_withResult s p _, ?_⟩
  rw [State.withResult_part_listed s p _ (Part.ne_reset_of_flagR rfl hflag)]
  refine ⟨?_, hflag, ?_⟩
  · rw [hpart]
  · rw [hpart]
    exact ⟨rfl, rfl, rfl, rfl⟩

theorem descriptorReadDone_failed (h : s.m.dmaServes p = true) (hf : (s.m.part p.val).fetching = f :: fs) (hd : f.data = none) :
    exec (.descriptorReadDone p f.seq .failed) s
      = .next (s.withResult p ((s.m.part p.val).fetchFailed (s.m.hctx p) f.seq)) := by
  refine (lift_onPart_of s p (g := fun m => m.dmaServes p) h _).trans ?_
  dsimp only
  rw [if_pos (by simp [hf, hd])]
theorem exec_ringFetchError (s : State) (p : PartId) (n : Nat) :
    exec (.ringFetchError p n) s = .next (s.withResult p ((s.m.part p.val).fetchFailed (s.m.hctx p) n)) := lift_onPart s p _

section
variable (h : s.m.dmaServes p = true) (hf : (s.m.part p.val).fetching = [f]) (hd : f.data = none)
  (hidx : (s.m.part p.val).fetchIdx = (s.m.part p.val).tail)
include h hf hd hidx

theorem descriptorReadDone_hands_on {d : Desc}
    (ho : (Part.openEnv { s.m.part p.val with fetching := [] } env 0x01 0 f.seq 128).2 = true) (hbs : readDesc bs = some d) :
    ∃ s', exec (.descriptorReadDone p f.seq (.data env bs)) s = .next s' ∧ s.onlyPart s' p
      ∧ (s'.m.part p.val).handed = (s.m.part p.val).handed ++ [⟨f.seq, f.bellUs, d⟩] ∧ (s'.m.part p.val).fetching = []
      ∧ (s'.m.part p.val).owed = (s.m.part p.val).owed := by
  obtain ⟨g, k, hfirst⟩ := Part.handFirst_handed (c := s.m.hctx p) ho hbs
  refine ⟨_, descriptorReadDone_first h hf hd hfirst rfl hidx, State.onlyPart_withResult s p _, ?_⟩
  rw [State.withResult_part_listed s p _ fun e =>
    List.concat_ne_nil _ _ (congrArg Part.handed e :)]
  exact ⟨rfl, rfl, rfl⟩

/-- A descriptor that completes at once is no longer owed, and sets an event (R307, R395). -/
theorem descriptorReadDone_completes {st : Status} {e : Fld} (he : e.reset = 0)
    (hfirst : (∃ g k r n, (Part.handFirst { s.m.part p.val with fetching := [] } (s.m.hctx p) f env bs).1 = { s.m.part p.val with
        fetching := [], regs := g, keys := k, rings := r, owed := (s.m.part p.val).owed - 1, faultEnds := n })
      ∧ (Part.handFirst { s.m.part p.val with fetching := [] } (s.m.hctx p) f env bs).completes p f.seq st
      ∧ (Part.handFirst { s.m.part p.val with fetching := [] } (s.m.hctx p) f env bs).1.flagR e = true) :
    ∃ s', exec (.descriptorReadDone p f.seq (.data env bs)) s = .next s' ∧ s.onlyPart s' p ∧ s.completes s' p f.seq st
      ∧ (s'.m.part p.val).handed = (s.m.part p.val).handed ∧ (s'.m.part p.val).fetching = []
      ∧ (s'.m.part p.val).owed = (s.m.part p.val).owed - 1 ∧ (s'.m.part p.val).flagR e = true := by
  obtain ⟨⟨g, k, r, n, hpart⟩, hdone, hflag⟩ := hfirst
  have hread := State.withResult_part_listed s p _ (Part.ne_reset_of_flagR he hflag)
  refine ⟨_, descriptorReadDone_first h hf hd rfl (by rw [hpart]) (by rw [hpart]; exact hidx), State.onlyPart_withResult s p _,
    State.completes_withResult hdone hread, ?_⟩
  rw [hread]
  refine ⟨?_, ?_, ?_, hflag⟩ <;> rw [hpart]
end
end

/-! ### The obligation -/

/-- Settles O42: the oldest read is `Part.handFirst`, and a failed one `Part.fetchFailed`. -/
theorem descriptorFetch : Obligations.DescriptorFetch := by
  unfold Obligations.DescriptorFetch
  intro s p f fs bs P ends opens stopped
  have hfail {i : Instr} (hi : exec i s = .next (s.withResult p (P.fetchFailed (s.m.hctx p) f.seq))) (hf : P.fetching = f :: fs)
      (hlt : ∀ g ∈ fs, f.seq < g.seq) : ends i stopped := fetchFailed_ends hi hf hlt
  have hopen (env : Option Envelope) := Part.openEnv_opens env 0x01 0 f.seq 128 (P := P) (Q := { P with fetching := [] }) rfl rfl
  clear_value stopped
  refine ⟨fun hfix hserve => reads_wait ?waits, fun hserve hf hd hlt _ => ⟨fun env hnil hidx => ?_, ?failed⟩,
    fun hf hlt _ => hfail (exec_ringFetchError s p f.seq) hf hlt⟩
  case waits => exact Bool.eq_false_iff.2 fun h => (Mach.dmaServes_iff.1 h).elim (fun h => absurd (hfix.symm.trans h) (by decide)) hserve
  case failed => exact hfail (descriptorReadDone_failed (Mach.dmaServes_iff.2 hserve) hf hd) hf hlt
  have h := Mach.dmaServes_iff.2 hserve
  subst hnil
  exact ⟨fun d ho hbs => descriptorReadDone_hands_on h hf hd hidx ((hopen env).trans ho) hbs,
    fun ho hw => descriptorReadDone_completes h hf hd hidx rfl (Part.handFirst_refused hw ((hopen env).trans ho)),
    fun ho hbs hw => descriptorReadDone_completes h hf hd hidx rfl (Part.handFirst_bad hw ((hopen env).trans ho) hbs)⟩

end Sys2Proof.Machine
end

section
/-! The descriptor at the front of the queue acted on, and O43: the admission of requests (R309 to R311, R323). -/
namespace Sys2Proof.Machine

/-! ### The front of the queue -/

/-- `s'` is `s` after a descriptor has been acted on in partition `p` with result `r`, and reads of further descriptors may have begun. -/
def State.acted (s s' : State) (p : PartId) (r : PRes) : Prop :=
  s.onlyPart s' p ∧ (s'.m.part p.val).unfetched = r.1.unfetched ∧ ∃ os, s'.m.out = s.m.out ++ (r.2 ++ os)

section
variable {s s' : State} {p : PartId} {c : Instr} {h : Handed} {hs : List Handed}

theorem State.acted.completes {r : PRes} (ha : s.acted s' p r) {seq : Nat} {st : Status} (hr : r.completes p seq st) :
    s.completes s' p seq st := by
  obtain ⟨-, hrest, os, hout⟩ := ha
  obtain ⟨bytes, hlen, hseq, hst, hrec⟩ := hr
  have hrings : (s'.m.part p.val).rings = r.1.rings := (congrArg Part.rings hrest :)
  refine ⟨bytes, hlen, hseq, hst, ?_⟩
  rw [hout, List.drop_left, Part.ring.eq_def (s'.m.part p.val), hrings]
  exact hrec.imp_left fun ⟨port, i, env, hmem⟩ => ⟨port, i, env, List.mem_append_left os hmem⟩

theorem State.acts (s : State) (p : PartId) {c : Instr} {r : PRes} (hl : r.1.unfetched ≠ {})
    (hc : exec c s = .next (s.withResult p (r.andThen fun P => P.fetchMore (s.m.hctx p) 16))) :
    ∃ s', exec c s = .next s' ∧ s.acted s' p r := by
  have hrest := r.1.unfetched_fetchMore (s.m.hctx p) 16
  have hnew : ({ (r.andThen fun P => P.fetchMore (s.m.hctx p) 16).1 with faultEnds := 0 } : Part) ≠ {} := fun e =>
    hl (hrest.symm.trans (congrArg Part.unfetched e :))
  refine ⟨_, hc, State.onlyPart_withResult s p _, ?_, _, rfl⟩
  rw [State.withResult_part_listed s p _ hnew]
  exact hrest

/-- The descriptor at the front, of the row's type, leaves the queue and is acted on. -/
theorem takeHanded_acts {ty : DescType} {f : Mach → HCtx → Handed → Part → PRes} {r : PRes} (hc : exec c s = takeHandedIn p ty f s)
    (hh : (s.m.part p.val).handed = h :: hs) (ht : h.desc.type = ty)
    (hr : f s.m (s.m.hctx p) h { s.m.part p.val with handed := hs } = r) (hl : r.1.unfetched ≠ {}) :
    ∃ s', exec c s = .next s' ∧ s.acted s' p r := by
  refine State.acts s p hl (hc.trans ?_)
  rw [takeHandedIn, lift_next, State.onPart_eq]
  simp only [hh, ht, if_true, hr]
/-- A descriptor of another type stays at the front (log entry 5). -/
theorem takeHanded_waits {ty : DescType} {f : Mach → HCtx → Handed → Part → PRes} (hc : exec c s = takeHandedIn p ty f s)
    (hh : (s.m.part p.val).handed = h :: hs) (ht : h.desc.type ≠ ty) :
    exec c s = .next (s.withResult p (s.m.part p.val, [])) := by
  rw [hc, takeHandedIn, lift_next, State.onPart_eq]
  simp only [hh, ht, if_false]

/-- A descriptor at the front that completes: its record follows, and nothing else of the requests changes (R301, R316). -/
theorem takeHanded_completes {ty : DescType} {f : Mach → HCtx → Handed → Part → PRes} {d : Done}
    (hc : exec c s = takeHandedIn p ty f s) (hh : (s.m.part p.val).handed = h :: hs) (ht : h.desc.type = ty)
    (hr : f s.m (s.m.hctx p) h { s.m.part p.val with handed := hs }
      = Part.complete { s.m.part p.val with handed := hs } (s.m.hctx p) d)
    (hd : d.req.desc = h.desc) (hw : ((s.m.part p.val).ring (3 + h.desc.stream)).waiting = []) :
    ∃ s', exec c s = .next s' ∧ s.onlyPart s' p ∧ s.completes s' p d.req.seq d.status
      ∧ (s'.m.part p.val).slots = (s.m.part p.val).slots ∧ (s'.m.part p.val).holdQueue = (s.m.part p.val).holdQueue
      ∧ (s'.m.part p.val).handed = hs := by
  have hw' : (Part.ring { s.m.part p.val with handed := hs } (3 + d.req.desc.stream)).waiting = [] := by rw [hd]; exact hw
  obtain ⟨g, k, r, n, hpart, hne⟩ := Part.complete_eq hw' (s.m.hctx p)
  obtain ⟨s', hs', ha⟩ := takeHanded_acts hc hh ht hr fun e => hne <| by
    rw [hpart] at e
    exact (congrArg Part.rings e :)
  refine ⟨s', hs', ha.1, ha.completes (Part.complete_completes hw' (s.m.hctx p)), ?_⟩
  obtain ⟨-, hrest, -⟩ := ha
  rw [hpart] at hrest
  exact ⟨(congrArg Part.slots hrest :), (congrArg Part.holdQueue hrest :),
    (congrArg Part.handed hrest :)⟩
end

/-! ### The checks of R323 -/

section
variable {P : Part} {now : Nat} {d : Desc}

theorem Part.admission_faulted (h : P.faulted = true) : P.admission now d = .fail .partFaulted 0 0 := by
  rw [Part.admission, if_pos h]
theorem Part.admission_badDesc (hf : P.faulted = false) (h : P.descOk d = false) : P.admission now d = .fail .badDesc 0 0 := by
  rw [Part.admission, if_neg (by rw [hf]; decide), if_pos (by rw [h]; decide)]
/-- What is accepted has passed check 5: a slot is free. -/
theorem Part.freeSlot_of_accept (h : P.admission now d = .accept) : ∃ i, P.freeSlot = some i := by
  unfold Part.admission Part.admitRoom at h
  refine Option.ne_none_iff_exists'.1 fun hnone => ?_
  rw [hnone] at h
  split at h
  next => cases h
  split at h
  next => cases h
  split at h
  next => split at h <;> cases h
  split at h
  next => cases h
  next => cases h
end

/-! ### A request accepted or held -/

/-- The request that a descriptor asks for. -/
def Handed.request (h : Handed) : Req := { seq := h.seq, desc := h.desc, bellUs := h.bellUs }
/-- That request as it is accepted. -/
def Part.accepted (P : Part) (c : HCtx) (h : Handed) : Req :=
  { h.request with
    wver := Fin.ofNat 4 (P.descWver h.desc), acceptUs := c.now, cand := Nat.min h.desc.candidates (P.getR Reg.SPEC_CFG_MAX_CAND) }

section
variable {P : Part} {c : HCtx} {h : Handed}

theorem Steer.tuning_ne_reset (e : Steer) : { e with state := .tuning } ≠ ({} : Steer) := fun h => by
  have hstate := congrArg Steer.state h
  cases hstate

/-- An accepted request claims the free slot, and the entry of a TUNE goes to TUNING (R291, R323). -/
theorem Part.accept_eq {i : Nat} (hi : P.freeSlot = some i) : ∃ S st,
    (P.accept c h.request).1 = { P with slots := Map.set {} P.slots i S, steers := st } ∧ S.req = some (P.accepted c h)
      ∧ S.bound = false ∧ S.reserved = P.pagesFor h.desc
      ∧ (h.desc.type = .tune → (Map.get {} st h.desc.steer).state = .tuning) := by
  unfold Part.accept
  rw [hi]
  dsimp only
  split
  case isTrue =>
    refine ⟨{ req := some (P.accepted c h), reserved := P.pagesFor h.desc }, _, rfl, rfl, rfl, rfl, fun _ => ?_⟩
    exact congrArg Steer.state (Map.get_set_listed (Steer.tuning_ne_reset _) P.steers _)
  case isFalse ht =>
    exact ⟨{ req := some (P.accepted c h), reserved := P.pagesFor h.desc }, _, rfl, rfl, rfl, rfl, fun h => absurd (beq_iff_eq.2 h) ht⟩

theorem Part.examine_accept (hv : P.admission c.now h.desc = .accept) : P.examine c h = P.accept c h.request := by
  simp only [Part.examine, hv, Handed.request]
theorem Part.examine_hold (hv : P.admission c.now h.desc = .hold) :
    P.examine c h = ({ P with holdQueue := P.holdQueue ++ [{ h.request with held := true }] }, []) := by
  simp only [Part.examine, hv, Handed.request]
theorem Part.examine_fail {st : Status} {reason wait : Nat} (hv : P.admission c.now h.desc = .fail st reason wait) :
    P.examine c h = P.complete c { plainDone h.seq h.desc st P.turnSeq with reason := reason, waitUs := wait } := by
  simp only [Part.examine, hv]
end

/-! ### The obligation -/

theorem exec_examine {s : State} {p : PartId} {h : Handed} {c : Instr}
    (hc : h.desc.type = .generate ∧ c = .generate p ∨ h.desc.type = .tune ∧ c = .tune p) :
    exec c s = takeHandedIn p h.desc.type (fun _ c h P => P.examine c h) s := by
  rcases hc with ⟨ht, rfl⟩ | ⟨ht, rfl⟩ <;> rw [ht] <;> rfl

section
variable {s : State} {p : PartId} {h : Handed} {hs : List Handed} {c : Instr}
  (hc : exec c s = takeHandedIn p h.desc.type (fun _ c h P => P.examine c h) s) (hh : (s.m.part p.val).handed = h :: hs)
include hc hh

theorem accept_ends (hv : Part.admission { s.m.part p.val with handed := hs } s.m.timeUs h.desc = .accept) {i : Nat}
    (hi : (s.m.part p.val).freeSlot = some i) : ∃ s', exec c s = .next s' ∧ s.onlyPart s' p ∧ (s'.m.part p.val).handed = hs
      ∧ (∃ r, ((s'.m.part p.val).slot i).req = some r ∧ r.seq = h.seq ∧ r.desc = h.desc ∧ r.acceptUs = s.m.timeUs ∧ r.done = 0
        ∧ r.tokens = 0)
      ∧ ((s'.m.part p.val).slot i).bound = false ∧ ((s'.m.part p.val).slot i).reserved = (s.m.part p.val).pagesFor h.desc
      ∧ (∀ j, j ≠ i → (s'.m.part p.val).slot j = (s.m.part p.val).slot j)
      ∧ (h.desc.type = .tune → ((s'.m.part p.val).steer h.desc.steer).state = .tuning) := by
  have hexam := Part.examine_accept (P := { s.m.part p.val with handed := hs }) (c := s.m.hctx p) hv
  obtain ⟨S, st, hpart, hreq, hbound, hreserved, htune⟩ :=
    Part.accept_eq (P := { s.m.part p.val with handed := hs }) (c := s.m.hctx p) (h := h) hi
  have hS : S ≠ {} := fun e => Option.some_ne_none _ (hreq.symm.trans (congrArg Slot.req e))
  obtain ⟨s', hs', honly, hrest, -⟩ := takeHanded_acts hc hh rfl hexam fun e => Map.set_ne_nil hS (s.m.part p.val).slots i <| by
    rw [hpart] at e
    exact (congrArg Part.slots e :)
  rw [hpart] at hrest
  have hslots : (s'.m.part p.val).slots = Map.set {} (s.m.part p.val).slots i S := (congrArg Part.slots hrest :)
  have hsteers : (s'.m.part p.val).steers = st := (congrArg Part.steers hrest :)
  have hget : (s'.m.part p.val).slot i = S := by rw [Part.slot, hslots, Map.get_set_listed hS]
  refine ⟨s', hs', honly, (congrArg Part.handed hrest :), ?_⟩
  rw [hget, Part.steer, hsteers]
  refine ⟨⟨_, hreq, rfl, rfl, rfl, rfl, rfl⟩, hbound, hreserved, fun j hj => ?_, htune⟩
  rw [Part.slot, hslots, Map.get_set_other hj, Part.slot]

theorem hold_ends (hv : Part.admission { s.m.part p.val with handed := hs } s.m.timeUs h.desc = .hold) :
    ∃ s', exec c s = .next s' ∧ s.onlyPart s' p ∧ (s'.m.part p.val).handed = hs
      ∧ (s'.m.part p.val).slots = (s.m.part p.val).slots
      ∧ ∃ r, (s'.m.part p.val).holdQueue = (s.m.part p.val).holdQueue ++ [r] ∧ r.seq = h.seq ∧ r.held = true := by
  have hexam := Part.examine_hold (P := { s.m.part p.val with handed := hs }) (c := s.m.hctx p) hv
  obtain ⟨s', hs', honly, hrest, -⟩ := takeHanded_acts hc hh rfl hexam fun e =>
    List.concat_ne_nil _ _ (congrArg Part.holdQueue e :)
  exact ⟨s', hs', honly, (congrArg Part.handed hrest :), (congrArg Part.slots hrest :), _,
    (congrArg Part.holdQueue hrest :), rfl, rfl⟩
end

/-- Settles O43: the verdict of `Part.admission` picks what the examination does: `Part.accept`, the hold queue, or a completion. -/
theorem admission : Obligations.Admission := by
  unfold Obligations.Admission
  intro s p h hs c P v ends hh hc hw
  have hx := exec_examine (s := s) hc
  refine ⟨fun hf => Part.admission_faulted hf, fun hf hd => Part.admission_badDesc hf hd, fun hv => ?_, fun hv => hold_ends hx hh hv,
    fun st reason wait hv => takeHanded_completes hx hh rfl (Part.examine_fail hv) rfl hw⟩
  obtain ⟨i, hi⟩ := Part.freeSlot_of_accept hv
  exact ⟨i, hi, accept_ends hx hh hv hi⟩

end Sys2Proof.Machine
end

section
/-! O44: control descriptors, payloads and promotion (R305, R310 to R314, R325, R329, R395). -/
namespace Sys2Proof.Machine

/-! ### Control descriptors at the front of the queue -/

section
variable {s : State} {p : PartId} {c : Instr} {h : Handed} {hs : List Handed}

theorem Part.askPayload_eq (P : Part) (c : HCtx) (h : Handed) (n : Nat) :
    ∃ os, P.askPayload c h n = ({ P with reads := P.reads ++ [h] }, os) := ⟨_, rfl⟩

/-- A descriptor whose payload is asked for waits for it. -/
theorem takeHanded_asks {ty : DescType} {f : Mach → HCtx → Handed → Part → PRes} {n : Nat} (hc : exec c s = takeHandedIn p ty f s)
    (hh : (s.m.part p.val).handed = h :: hs) (ht : h.desc.type = ty)
    (hr : f s.m (s.m.hctx p) h { s.m.part p.val with handed := hs }
      = Part.askPayload { s.m.part p.val with handed := hs } (s.m.hctx p) h n) :
    ∃ s', exec c s = .next s' ∧ s.onlyPart s' p ∧ (s'.m.part p.val).handed = hs ∧ (s'.m.part p.val).slots = (s.m.part p.val).slots
      ∧ (s'.m.part p.val).reads = (s.m.part p.val).reads ++ [h] := by
  obtain ⟨os, hask⟩ := Part.askPayload_eq { s.m.part p.val with handed := hs } (s.m.hctx p) h n
  obtain ⟨s', hs', honly, hrest, -⟩ := takeHanded_acts hc hh ht (hr.trans hask) fun e =>
    List.concat_ne_nil _ _ (congrArg Part.reads e :)
  exact ⟨s', hs', honly, (congrArg Part.handed hrest :), (congrArg Part.slots hrest :),
    (congrArg Part.reads hrest :)⟩

/-- A control descriptor that completes. -/
theorem control_completes {ty : DescType} {f : Mach → HCtx → Handed → Part → PRes} {st : Status}
    (hc : exec c s = takeHandedIn p ty f s) (hh : (s.m.part p.val).handed = h :: hs) (ht : h.desc.type = ty)
    (hw : ((s.m.part p.val).ring (3 + h.desc.stream)).waiting = [])
    (hr : f s.m (s.m.hctx p) h { s.m.part p.val with handed := hs }
      = Part.complete { s.m.part p.val with handed := hs } (s.m.hctx p) (plainDone h.seq h.desc st (s.m.part p.val).turnSeq)) :
    ∃ s', exec c s = .next s' ∧ s.onlyPart s' p ∧ (s'.m.part p.val).handed = hs ∧ (s'.m.part p.val).slots = (s.m.part p.val).slots
      ∧ s.completes s' p h.seq st := by
  obtain ⟨s', hs', honly, hdone, hslots, -, hhanded⟩ := takeHanded_completes hc hh ht hr rfl hw
  exact ⟨s', hs', honly, hhanded, hslots, hdone⟩
end

/-! ### CANCEL, DRAFT, STEER_WRITE, STEER_READ -/

theorem exec_cancel (s : State) (p : PartId) : exec (.cancel p) s = takeHandedIn p .cancel (fun _ _ h P =>
    ({ P with cancels := P.cancels ++ [⟨h.seq, h.desc.tag, h.desc.target.toNat, P.turnSeq⟩] }, [])) s := rfl
/-- What a DRAFT at the front does (R312, R313). -/
def Part.draft (P : Part) (c : HCtx) (h : Handed) : PRes :=
  if h.desc.addr.toNat % 64 ≠ 0 then P.complete c (plainDone h.seq h.desc .badDesc P.turnSeq)
  else if (P.hostSlot h.desc.target.toNat).isNone then P.complete c (plainDone h.seq h.desc .notFound P.turnSeq)
  else P.askPayload c h 256
theorem exec_draft (s : State) (p : PartId) : exec (.draft p) s = takeHandedIn p .draft (fun _ c h P => P.draft c h) s := rfl
/-- What a STEER_WRITE at the front does (R314). -/
def Part.steerWrite (P : Part) (c : HCtx) (h : Handed) : PRes :=
  if h.desc.steer = 0 ∨ P.getR Reg.STEER_CFG_STEER_ENTRIES ≤ h.desc.steer ∨ h.desc.addr.toNat % 64 ≠ 0
      ∨ h.desc.len < P.anyHeader.steerBytes then
    P.complete c (plainDone h.seq h.desc .badDesc P.turnSeq)
  else P.askPayload c h P.anyHeader.steerBytes
theorem exec_steerWrite (s : State) (p : PartId) :
    exec (.steerWrite p) s = takeHandedIn p .steerWrite (fun _ c h P => P.steerWrite c h) s := rfl
/-- The records of a steering entry that STEER_READ writes after its header (R287, R314). -/
def Mach.entryRecords (m : Mach) (P : Part) (n : Nat) : List Byte :=
  if n = 0 then (List.range P.anyHeader.steerLayers).flatMap (baseRecord P.anyHeader) else m.steerRecords P n
/-- What a STEER_READ at the front does (R314). -/
def Mach.steerRead (m : Mach) (c : HCtx) (h : Handed) (P : Part) : PRes :=
  if P.getR Reg.STEER_CFG_STEER_ENTRIES ≤ h.desc.steer ∨ h.desc.addr.toNat % 64 ≠ 0 ∨ h.desc.len < P.anyHeader.steerBytes then
    P.complete c (plainDone h.seq h.desc .badDesc P.turnSeq)
  else
    let body := P.steerHeader h.desc.steer ++ m.entryRecords P h.desc.steer
    let sl := P.seal 0x84 0 body.length
    let r := sl.1.complete c (plainDone h.seq h.desc .completed P.turnSeq)
    (r.1, .hostWrite c.p c.port h.desc.addr body sl.2 :: r.2)
theorem exec_steerRead (s : State) (p : PartId) : exec (.steerRead p) s = takeHandedIn p .steerRead Mach.steerRead s := rfl

/-- R288: a header of 64 B. -/
theorem Part.steerHeader_length (P : Part) (i : Nat) : (P.steerHeader i).length = 64 := by
  simp [Part.steerHeader, leBytes_length]

/-- What is sent before the record of a completion leaves it as it is. -/
theorem PRes.completes.after_send {r : PRes} {p : PartId} {seq : Nat} {st : Status} (h : r.completes p seq st) (o : Out) :
    PRes.completes (r.1, o :: r.2) p seq st := by
  obtain ⟨bytes, hlen, hseq, hst, hrec⟩ := h
  exact ⟨bytes, hlen, hseq, hst, hrec.imp_left fun ⟨port, i, env, hmem⟩ => ⟨port, i, env, List.mem_cons_of_mem o hmem⟩⟩

/-- In range, a STEER_READ writes the entry, its header first, and completes. -/
theorem Mach.steerRead_writes (m : Mach) (c : HCtx) {h : Handed} {P : Part} (hok : ¬(P.getR Reg.STEER_CFG_STEER_ENTRIES ≤ h.desc.steer
      ∨ h.desc.addr.toNat % 64 ≠ 0 ∨ h.desc.len < P.anyHeader.steerBytes)) (hw : (P.ring (3 + h.desc.stream)).waiting = []) :
    ∃ g k r n body env os, m.steerRead c h P = ({ P with regs := g, keys := k, rings := r, owed := P.owed - 1, faultEnds := n },
        .hostWrite c.p c.port h.desc.addr body env :: os)
      ∧ r ≠ [] ∧ body.take 64 = P.steerHeader h.desc.steer ∧ (m.steerRead c h P).completes c.p h.seq .completed := by
  obtain ⟨g, k, hseal⟩ := P.seal_eq 0x84 0 (P.steerHeader h.desc.steer ++ m.entryRecords P h.desc.steer).length
  have hw' : (Part.ring { P with regs := g, keys := k }
    (3 + (plainDone h.seq h.desc .completed P.turnSeq).req.desc.stream)).waiting = [] := hw
  obtain ⟨g', k', r, n, hpart, hne⟩ := Part.complete_eq hw' c
  have hdone := Part.complete_completes hw' c
  rw [Mach.steerRead, if_neg hok]
  dsimp only
  rw [hseal]
  refine ⟨g', k', r, n, _, _, _, by rw [hpart], hne, ?_, hdone.after_send _⟩
  rw [List.take_left' (Part.steerHeader_length _ _)]

section
variable {s : State} {p : PartId} {h : Handed} {hs : List Handed} (hh : (s.m.part p.val).handed = h :: hs)
include hh

theorem cancel_ends (ht : h.desc.type = .cancel) : ∃ s', exec (.cancel p) s = .next s' ∧ s.onlyPart s' p
    ∧ (s'.m.part p.val).handed = hs ∧ (s'.m.part p.val).slots = (s.m.part p.val).slots
    ∧ (s'.m.part p.val).cancels
      = (s.m.part p.val).cancels ++ [⟨h.seq, h.desc.tag, h.desc.target.toNat, (s.m.part p.val).turnSeq⟩] := by
  obtain ⟨s', hs', honly, hrest, -⟩ := takeHanded_acts (exec_cancel s p) hh ht rfl fun e =>
    List.concat_ne_nil _ _ (congrArg Part.cancels e :)
  exact ⟨s', hs', honly, (congrArg Part.handed hrest :), (congrArg Part.slots hrest :),
    (congrArg Part.cancels hrest :)⟩
theorem cancel_waits (ht : h.desc.type ≠ .cancel) : ∃ s', exec (.cancel p) s = .next s' ∧ s.onlyPart s' p
    ∧ (s'.m.part p.val).handed = (s.m.part p.val).handed ∧ (s'.m.part p.val).cancels = (s.m.part p.val).cancels := by
  refine ⟨_, takeHanded_waits (exec_cancel s p) hh ht, State.onlyPart_withResult s p _, ?_⟩
  rw [State.withResult_part_listed s p _ fun e =>
    List.cons_ne_nil h hs (hh.symm.trans (congrArg Part.handed e :))]
  exact ⟨rfl, rfl⟩

/-- The entry is written to the host, and the descriptor completes (R314). -/
theorem steerRead_ends (ht : h.desc.type = .steerRead) (hw : ((s.m.part p.val).ring (3 + h.desc.stream)).waiting = [])
    (hok : ¬((s.m.part p.val).getR Reg.STEER_CFG_STEER_ENTRIES ≤ h.desc.steer ∨ h.desc.addr.toNat % 64 ≠ 0
      ∨ h.desc.len < (s.m.part p.val).anyHeader.steerBytes)) :
    ∃ s', exec (.steerRead p) s = .next s' ∧ s.onlyPart s' p ∧ (s'.m.part p.val).handed = hs
      ∧ (s'.m.part p.val).slots = (s.m.part p.val).slots ∧ s.completes s' p h.seq .completed
      ∧ ∃ body env, Out.hostWrite p (s.m.hctx p).port h.desc.addr body env ∈ s'.m.out
        ∧ body.take 64 = (s.m.part p.val).steerHeader h.desc.steer := by
  obtain ⟨g, k, r, n, body, env, os, hread, hne, hbody, hdone⟩ :=
    Mach.steerRead_writes s.m (s.m.hctx p) (P := { s.m.part p.val with handed := hs }) hok hw
  obtain ⟨s', hs', ha⟩ := takeHanded_acts (exec_steerRead s p) hh ht hread fun e =>
    hne (congrArg Part.rings e :)
  have hcompl := ha.completes (hread ▸ hdone)
  obtain ⟨honly, hrest, os', hout⟩ := ha
  refine ⟨s', hs', honly, (congrArg Part.handed hrest :), (congrArg Part.slots hrest :), hcompl, body, env,
    ?_, hbody⟩
  rw [hout]
  exact List.mem_append_right _ List.mem_cons_self
end

/-! ### The request of a payload -/

/-- The first slot of `P` holds request `r`, and no other slot holds one with its SUBMIT_SEQ. -/
def Part.soleReq (P : Part) (i : Nat) (S : Slot) (r : Req) (rest : Map Slot) : Prop :=
  P.slots = (i, S) :: rest ∧ S.req = some r ∧ ∀ e ∈ rest, ∀ q, e.2.req = some q → q.seq ≠ r.seq

section
variable {P : Part} {i : Nat} {S : Slot} {r : Req} {rest : Map Slot}

theorem Part.soleReq.modReq (hP : P.soleReq i S r rest) {f : Req → Req} {r' : Req} (hf : f r = r') (hseq : r'.seq = r.seq) :
    (P.modReq r.seq f).soleReq i { S with req := some r' } r' rest := by
  obtain ⟨hslots, hreq, hrest⟩ := hP
  refine ⟨?_, rfl, fun e he q hq => hseq ▸ hrest e he q hq⟩
  have hsame : rest.map (fun e => (e.1, { e.2 with req := e.2.req.map fun q => if q.seq = r.seq then f q else q })) = rest := by
    refine (List.map_congr_left fun e he => ?_).trans (List.map_id rest)
    have hother : (e.2.req.map fun q => if q.seq = r.seq then f q else q) = e.2.req := by
      cases hq : e.2.req with
      | none => rfl
      | some q => rw [Option.map_some, if_neg (hrest e he q hq)]
    rw [hother]
    rfl
  have hfirst : (S.req.map fun q => if q.seq = r.seq then f q else q) = some r' := by rw [hreq, Option.map_some, if_pos rfl, hf]
  dsimp only [Part.modReq]
  rw [hslots, List.map_cons, hsame, hfirst]

/-- A request that has no end yet is given one (R305). -/
theorem Part.soleReq.endReq (hP : P.soleReq i S r rest) (he : r.ending = none) (st : Status) :
    (P.endReq r.seq st).soleReq i { S with req := some { r with ending := some st } } { r with ending := some st } rest := by
  refine hP.modReq ?_ rfl
  rw [he]

theorem Part.soleReq.congr (hP : P.soleReq i S r rest) {Q : Part} (hQ : Q.slots = P.slots) : Q.soleReq i S r rest := by
  obtain ⟨hslots, hreq, hrest⟩ := hP
  exact ⟨hQ.trans hslots, hreq, hrest⟩
end

/-! ### Tokens (R310, R311) -/

/-- Token `k` is the word of the bytes from 4 k on. -/
theorem wordsOf_eq (n : Nat) (bs : List Byte) :
    wordsOf n bs = (List.range n).map fun k => BitVec.ofNat 32 (leNat ((bs.drop (4 * k)).take 4)) := by
  induction n generalizing bs with
  | zero => rfl
  | succ n ih =>
    rw [wordsOf, ih, List.range_succ_eq_map, List.map_cons, List.map_map]
    refine congrArg _ (List.map_congr_left fun k _ => ?_)
    rw [List.drop_drop, Function.comp_apply, Nat.mul_succ, Nat.add_comm]
/-- A word of at most 4 B is its token's number. -/
theorem toNat_token (bs : List Byte) (k : Nat) :
    (BitVec.ofNat 32 (leNat ((bs.drop (4 * k)).take 4))).toNat = leNat ((bs.drop (4 * k)).take 4) := by
  rw [BitVec.toNat_ofNat, Nat.mod_eq_of_lt]
  exact (leNat_lt _).trans_le (Nat.pow_le_pow_right (by decide) (List.length_take_le 4 _))
theorem toNat_wordsOf {n k : Nat} (hk : k < n) (bs : List Byte) :
    ((wordsOf n bs).getD k 0).toNat = leNat ((bs.drop (4 * k)).take 4) := by
  rw [wordsOf_eq, List.getD_eq_getElem _ _ (by simpa using hk), List.getElem_map, List.getElem_range, toNat_token]
/-- The tokens lie in the vocabulary where each word does. -/
theorem all_wordsOf (n : Nat) (bs : List Byte) (v : Nat) : ((wordsOf n bs).all fun t => decide (t.toNat < v)) = true
    ↔ ∀ k, k < n → leNat ((bs.drop (4 * k)).take 4) < v := by
  simp only [wordsOf_eq, List.all_map, List.all_eq_true, List.mem_range, Function.comp_apply, decide_eq_true_eq, toNat_token]

/-! ### A payload of a request -/

/-- What the end of a read of request `r`'s payload does (R305, R395). -/
def Part.requestRead (P : Part) (c : HCtx) (r : Req) (kind : PayloadKind) : HostRead → PRes
  | .failed => (P.endReq r.seq .fetchError, [.aer c.port])
  | .data env bs =>
    let sh := payloadShape P r.desc kind
    let o := P.openEnv env sh.1 0 r.seq sh.2
    (if o.2 then o.1.takePrompt r kind bs else o.1.endReq r.seq .authFail, [])

section
variable {s : State} {p : PartId} {i : SlotNo} {S : Slot} {r : Req} {rest : Map Slot}

/-- A change of a request: its slot reads as the result has it. -/
theorem request_changes {c : Instr} {R : PRes} {r' : Req} {good : Req → Prop} (hc : exec c s = .next (s.withResult p R))
    (hR : R.1.soleReq i.val { S with req := some r' } r' rest) (hgood : good r') :
    ∃ s' r', exec c s = .next s' ∧ s.onlyPart s' p
      ∧ (s'.m.part p.val).slots = (i.val, { S with req := some r' }) :: rest ∧ good r' := by
  obtain ⟨hslots, -⟩ := hR
  refine ⟨_, r', hc, State.onlyPart_withResult s p _, ?_, hgood⟩
  rw [State.withResult_part_listed s p _ fun e =>
    List.cons_ne_nil _ _ (hslots.symm.trans (congrArg Part.slots e :))]
  exact hslots

section
variable (hsole : (s.m.part p.val).soleReq i.val S r rest)
include hsole

theorem payloadReadDone_request (h : s.m.dmaServes p = true) (hreads : ∀ g ∈ (s.m.part p.val).reads, g.seq ≠ r.seq)
    (kind : PayloadKind) (data : HostRead) : exec (.payloadReadDone p r.seq kind data) s
      = .next (s.withResult p ((s.m.part p.val).requestRead (s.m.hctx p) r kind data)) := by
  obtain ⟨hslots, hreq, -⟩ := hsole
  have hnone : (s.m.part p.val).reads.find? (fun g => g.seq == r.seq) = none :=
    List.find?_eq_none.2 fun g hg => by simpa using hreads g hg
  have hsome : ((s.m.part p.val).slots.findSome? fun e => e.2.req.bind fun q => if q.seq = r.seq then some q else none) = some r := by
    rw [hslots, List.findSome?_cons, hreq, Option.bind_some, if_pos rfl]
  refine (lift_onPart_of s p (g := fun m => m.dmaServes p) h _).trans ?_
  simp only [hnone, hsome]
  cases data <;> rfl

variable (h : s.m.dmaServes p = true) (hreads : ∀ g ∈ (s.m.part p.val).reads, g.seq ≠ r.seq) {env : Option Envelope} {bs : List Byte}
include h hreads

/-- A payload whose envelope opens is taken. -/
theorem payload_taken {kind : PayloadKind} {r' : Req} {good : Req → Prop} (hopen : ((s.m.part p.val).openEnv env
      (payloadShape (s.m.part p.val) r.desc kind).1 0 r.seq (payloadShape (s.m.part p.val) r.desc kind).2).2 = true)
    (htake : ∀ Q : Part, Q.soleReq i.val S r rest → Q.places = (s.m.part p.val).places →
      (Q.takePrompt r kind bs).soleReq i.val { S with req := some r' } r' rest)
    (hgood : good r') :
    ∃ s' r', exec (.payloadReadDone p r.seq kind (.data env bs)) s = .next s' ∧ s.onlyPart s' p
      ∧ (s'.m.part p.val).slots = (i.val, { S with req := some r' }) :: rest ∧ good r' := by
  refine request_changes (payloadReadDone_request hsole h hreads kind (.data env bs)) ?_ hgood
  obtain ⟨g, k, heq⟩ := (s.m.part p.val).openEnv_eq env (payloadShape (s.m.part p.val) r.desc kind).1 0 r.seq
    (payloadShape (s.m.part p.val) r.desc kind).2
  dsimp only [Part.requestRead]
  rw [hopen, heq]
  exact htake _ (hsole.congr rfl) rfl

variable (he : r.ending = none)
include he

theorem payload_failed {kind : PayloadKind} {good : Req → Prop} (hgood : good { r with ending := some .fetchError }) :
    ∃ s' r', exec (.payloadReadDone p r.seq kind .failed) s = .next s' ∧ s.onlyPart s' p
      ∧ (s'.m.part p.val).slots = (i.val, { S with req := some r' }) :: rest ∧ good r' :=
  request_changes (payloadReadDone_request hsole h hreads kind .failed) (hsole.endReq he .fetchError) hgood

theorem payload_refused {kind : PayloadKind} {good : Req → Prop} (hopen : ((s.m.part p.val).openEnv env
      (payloadShape (s.m.part p.val) r.desc kind).1 0 r.seq (payloadShape (s.m.part p.val) r.desc kind).2).2 = false)
    (hgood : good { r with ending := some .authFail }) :
    ∃ s' r', exec (.payloadReadDone p r.seq kind (.data env bs)) s = .next s' ∧ s.onlyPart s' p
      ∧ (s'.m.part p.val).slots = (i.val, { S with req := some r' }) :: rest ∧ good r' := by
  refine request_changes (payloadReadDone_request hsole h hreads kind (.data env bs)) ?_ hgood
  obtain ⟨g, k, heq⟩ := (s.m.part p.val).openEnv_eq env (payloadShape (s.m.part p.val) r.desc kind).1 0 r.seq
    (payloadShape (s.m.part p.val) r.desc kind).2
  dsimp only [Part.requestRead]
  rw [hopen, heq]
  exact (hsole.congr rfl).endReq he .authFail
end
end

section
variable {P : Part} {i : Nat} {S : Slot} {r : Req} {rest : Map Slot} (hP : P.soleReq i S r rest) (bs : List Byte)
include hP

/-- The request with its tokens. -/
def Req.withPrompt (r : Req) (bs : List Byte) : Req := { r with prompt := wordsOf r.desc.len bs, promptRead := true }

theorem Part.takePrompt_prompt (hv : ∀ k, k < r.desc.len →
      leNat ((bs.drop (4 * k)).take 4) < ((P.place r.wver.val).header.getD {}).vocab) :
    (P.takePrompt r .prompt bs).soleReq i { S with req := some (r.withPrompt bs) } (r.withPrompt bs) rest := by
  have hall := (all_wordsOf r.desc.len bs ((P.place r.wver.val).header.getD {}).vocab).2 hv
  have htake : P.takePrompt r .prompt bs = P.modReq r.seq fun r' => { r' with prompt := wordsOf r.desc.len bs, promptRead := true } :=
    if_pos hall
  rw [htake]
  exact hP.modReq rfl rfl
theorem Part.takePrompt_badPrompt (he : r.ending = none)
    (hv : ∃ k, k < r.desc.len ∧ ((P.place r.wver.val).header.getD {}).vocab ≤ leNat ((bs.drop (4 * k)).take 4)) :
    (P.takePrompt r .prompt bs).soleReq i { S with req := some { r.withPrompt bs with ending := some .badDesc } }
      { r.withPrompt bs with ending := some .badDesc } rest := by
  obtain ⟨k, hk, hout⟩ := hv
  have hall : ¬ ((wordsOf r.desc.len bs).all fun t => decide (t.toNat < ((P.place r.wver.val).header.getD {}).vocab)) = true := fun e =>
    absurd ((all_wordsOf _ _ _).1 e k hk) (Nat.not_lt.2 hout)
  have htake : P.takePrompt r .prompt bs
      = (P.modReq r.seq fun r' => { r' with prompt := wordsOf r.desc.len bs, promptRead := true }).endReq r.seq .badDesc := if_neg hall
  rw [htake]
  have hread := hP.modReq (f := fun r' => { r' with prompt := wordsOf r.desc.len bs, promptRead := true }) rfl rfl
  exact hread.endReq he .badDesc

/-- The request with its mask, or ended where no bit of it is set (R311). -/
def Req.withMask (r : Req) (bs : List Byte) : Req :=
  if leNat bs % 2 ^ r.desc.len = 0 then { r with ending := some .badDesc } else { r with mask := bs }

theorem Part.takePrompt_mask (he : r.ending = none) :
    (P.takePrompt r .mask bs).soleReq i { S with req := some (r.withMask bs) } (r.withMask bs) rest := by
  unfold Part.takePrompt Req.withMask
  dsimp only
  split
  · exact hP.endReq he .badDesc
  · exact hP.modReq rfl rfl
end

/-! ### Promotion (R325) -/

theorem Map.set_first {α : Type} [DecidableEq α] {d v : α} (hv : v ≠ d) (k : Nat) (w : α) (m : Map α) :
    Map.set d ((k, w) :: m) k v = (k, v) :: m := by
  rw [Map.set, if_neg hv, Map.insert, if_neg (Nat.lt_irrefl k), if_pos rfl]

/-- The request once its bound is looked at: promoted if it has not begun within its class's bound. -/
def Part.promotion (P : Part) (now : Nat) (r : Req) : Req :=
  if r.prefillStarted = false ∧ r.acceptUs + 1000 * P.getR (Reg.CLASS_TIME_QUEUE_BOUND r.desc.cls) ≤ now then
    { r with promoted := true }
  else r

theorem Part.promotion_seq (P : Part) (now : Nat) (r : Req) : (P.promotion now r).seq = r.seq := by
  unfold Part.promotion
  split <;> rfl

theorem prefillPromotion_ends {s : State} {p : PartId} {i : SlotNo} {S : Slot} {r : Req} {rest : Map Slot} {good : Req → Prop}
    (hsole : (s.m.part p.val).soleReq i.val S r rest) (hgood : good ((s.m.part p.val).promotion s.m.timeUs r)) :
    ∃ s' r', exec (.prefillPromotion p i) s = .next s' ∧ s.onlyPart s' p
      ∧ (s'.m.part p.val).slots = (i.val, { S with req := some r' }) :: rest ∧ good r' := by
  refine request_changes (R := ((s.m.part p.val).modSlot i.val fun S =>
    { S with req := S.req.map ((s.m.part p.val).promotion s.m.timeUs) }, [])) (lift_onPart s p _) ?_ hgood
  obtain ⟨hslots, hreq, hrest⟩ := hsole
  have hslot : (s.m.part p.val).slot i.val = S := by rw [Part.slot, hslots, Map.get, Map.find, if_pos rfl]; rfl
  refine ⟨?_, rfl, fun e he q hq => Part.promotion_seq _ _ r ▸ hrest e he q hq⟩
  have hne : ({ S with req := some ((s.m.part p.val).promotion s.m.timeUs r) } : Slot) ≠ {} := fun e =>
    Option.some_ne_none _ (congrArg Slot.req e)
  rw [Part.modSlot, hslot, hslots, hreq, Option.map_some]
  exact Map.set_first hne _ _ _

/-! ### A payload of a control descriptor -/

/-- What the end of the read of a steering entry does, once its descriptor is no longer read (R305, R314, R395). -/
def Part.entryRead (P : Part) (c : HCtx) (h : Handed) : HostRead → PRes
  | .failed => ({ P with boundaryDone := P.boundaryDone ++ [plainDone h.seq h.desc .fetchError P.turnSeq] }, [.aer c.port])
  | .data env bs =>
    let o := P.openEnv env 0x05 0 h.seq P.anyHeader.steerBytes
    if !o.2 then ({ o.1 with boundaryDone := o.1.boundaryDone ++ [plainDone h.seq h.desc .authFail o.1.turnSeq] }, [])
    else (o.1.takeControl c h bs).andThen fun P => P.fetchMore c 16

section
variable {s : State} {p : PartId} {h : Handed} {rest : List Handed}

theorem payloadReadDone_entry (hdma : s.m.dmaServes p = true) (hreads : (s.m.part p.val).reads = h :: rest)
    (hrest : ∀ g ∈ rest, g.seq ≠ h.seq) (data : HostRead) : exec (.payloadReadDone p h.seq .steer data) s
      = .next (s.withResult p (Part.entryRead { s.m.part p.val with reads := rest } (s.m.hctx p) h data)) := by
  have hfind : (s.m.part p.val).reads.find? (fun g => g.seq == h.seq) = some h := by
    rw [hreads, List.find?_cons_of_pos (by simp)]
  have hfilter : (s.m.part p.val).reads.filter (fun g => g.seq != h.seq) = rest := by
    rw [hreads, List.filter_cons_of_neg (by simp)]
    exact List.filter_eq_self.2 fun g hg => by simpa using hrest g hg
  refine (lift_onPart_of s p (g := fun m => m.dmaServes p) hdma _).trans ?_
  simp only [hfind, hfilter]
  cases data <;> rfl

variable {env : Option Envelope} {bs : List Byte} {P : Part} {c : HCtx}

/-- An entry that does not open is due to complete at the next boundary. -/
theorem Part.entryRead_refused (ho : (P.openEnv env 0x05 0 h.seq P.anyHeader.steerBytes).2 = false) :
    ∃ g k, P.entryRead c h (.data env bs) = ({ P with
      regs := g, keys := k, boundaryDone := P.boundaryDone ++ [plainDone h.seq h.desc .authFail P.turnSeq] }, []) := by
  obtain ⟨g, k, heq⟩ := P.openEnv_eq env 0x05 0 h.seq P.anyHeader.steerBytes
  have hturn := P.turnSeq_openEnv env 0x05 0 h.seq P.anyHeader.steerBytes
  refine ⟨g, k, ?_⟩
  dsimp only [Part.entryRead]
  rw [ho, hturn, heq]
  rfl
theorem Part.entryRead_opens (ho : (P.openEnv env 0x05 0 h.seq P.anyHeader.steerBytes).2 = true) (ht : h.desc.type = .steerWrite) :
    ∃ g k, P.entryRead c h (.data env bs) = PRes.andThen (
      if P.steerHeaderOk h.desc.steer bs then ({ P with
        regs := g, keys := k, steerOps := P.steerOps ++ [⟨h.seq, h.desc.tag, h.desc.steer, some bs, false⟩] }, [])
      else Part.complete { P with regs := g, keys := k } c
        (plainDone h.seq h.desc .badDesc (Part.turnSeq { P with regs := g, keys := k }))) fun P => P.fetchMore c 16 := by
  obtain ⟨g, k, heq⟩ := P.openEnv_eq env 0x05 0 h.seq P.anyHeader.steerBytes
  refine ⟨g, k, ?_⟩
  dsimp only [Part.entryRead]
  rw [ho, heq]
  simp only [Part.takeControl, ht]
  rfl
/-- An entry that keeps R288 joins the steering writes. -/
theorem Part.entryRead_waits (ho : (P.openEnv env 0x05 0 h.seq P.anyHeader.steerBytes).2 = true) (ht : h.desc.type = .steerWrite)
    (hok : P.steerHeaderOk h.desc.steer bs = true) : ∃ (R : PRes) (g : RegFile) (k : Keys),
      P.entryRead c h (.data env bs) = R.andThen (fun P => P.fetchMore c 16) ∧ R.1 = { P with
        regs := g, keys := k, steerOps := P.steerOps ++ [⟨h.seq, h.desc.tag, h.desc.steer, some bs, false⟩] } := by
  obtain ⟨g, k, hread⟩ := Part.entryRead_opens (c := c) ho ht
  rw [if_pos hok] at hread
  exact ⟨_, g, k, hread, rfl⟩
/-- One that does not completes with BAD_DESC. -/
theorem Part.entryRead_bad (ho : (P.openEnv env 0x05 0 h.seq P.anyHeader.steerBytes).2 = true) (ht : h.desc.type = .steerWrite)
    (hok : P.steerHeaderOk h.desc.steer bs = false) (hw : (P.ring (3 + h.desc.stream)).waiting = []) :
    ∃ (R : PRes) (g : RegFile) (k : Keys) (r : Map Ring) (n : Nat),
      P.entryRead c h (.data env bs) = R.andThen (fun P => P.fetchMore c 16)
      ∧ R.1 = { P with regs := g, keys := k, rings := r, owed := P.owed - 1, faultEnds := n } ∧ r ≠ []
      ∧ R.completes c.p h.seq .badDesc := by
  obtain ⟨g, k, hread⟩ := Part.entryRead_opens (c := c) (bs := bs) ho ht
  rw [if_neg (by rw [hok]; decide)] at hread
  have hw' : (Part.ring { P with regs := g, keys := k }
    (3 + (plainDone h.seq h.desc .badDesc (Part.turnSeq { P with regs := g, keys := k })).req.desc.stream)).waiting = [] := hw
  obtain ⟨g', k', r, n, hpart, hne⟩ := Part.complete_eq hw' c
  exact ⟨_, g', k', r, n, hread, hpart, hne, Part.complete_completes hw' c⟩

section
variable (hdma : s.m.dmaServes p = true) (hreads : (s.m.part p.val).reads = h :: rest) (hrest : ∀ g ∈ rest, g.seq ≠ h.seq)
include hdma hreads hrest

/-- An entry that was not read, or did not open, changes the completions that are due at the boundary. -/
theorem entry_due {data : HostRead} {st : Status} {g : RegFile} {k : Keys} {os : List Out}
    (hr : Part.entryRead { s.m.part p.val with reads := rest } (s.m.hctx p) h data = ({ s.m.part p.val with
      reads := rest, regs := g, keys := k
      boundaryDone := (s.m.part p.val).boundaryDone ++ [plainDone h.seq h.desc st (s.m.part p.val).turnSeq] }, os)) :
    ∃ s', exec (.payloadReadDone p h.seq .steer data) s = .next s' ∧ s.onlyPart s' p
      ∧ (s'.m.part p.val).slots = (s.m.part p.val).slots ∧ (s'.m.part p.val).reads = rest
      ∧ (s'.m.part p.val).boundaryDone = (s.m.part p.val).boundaryDone ++ [plainDone h.seq h.desc st (s.m.part p.val).turnSeq]
      ∧ (s'.m.part p.val).steerOps = (s.m.part p.val).steerOps := by
  refine ⟨_, payloadReadDone_entry hdma hreads hrest data, State.onlyPart_withResult s p _, ?_⟩
  rw [hr, State.withResult_part_listed s p _ fun e =>
    List.concat_ne_nil _ _ (congrArg Part.boundaryDone e :)]
  exact ⟨rfl, rfl, rfl, rfl⟩

variable (ht : h.desc.type = .steerWrite)
  (ho : (Part.openEnv { s.m.part p.val with reads := rest } env 0x05 0 h.seq (s.m.part p.val).anyHeader.steerBytes).2 = true)
include ht ho

/-- An entry that keeps R288 waits for the boundary (R289). -/
theorem entry_waits (hok : (s.m.part p.val).steerHeaderOk h.desc.steer bs = true) :
    ∃ s', exec (.payloadReadDone p h.seq .steer (.data env bs)) s = .next s' ∧ s.onlyPart s' p
      ∧ (s'.m.part p.val).slots = (s.m.part p.val).slots ∧ (s'.m.part p.val).reads = rest
      ∧ (s'.m.part p.val).steerOps = (s.m.part p.val).steerOps ++ [⟨h.seq, h.desc.tag, h.desc.steer, some bs, false⟩] := by
  obtain ⟨R, g, k, hread, hpart⟩ := Part.entryRead_waits (P := { s.m.part p.val with reads := rest }) (c := s.m.hctx p) ho ht hok
  have hx := payloadReadDone_entry hdma hreads hrest (.data env bs)
  rw [hread] at hx
  obtain ⟨s', hs', honly, hkept, -⟩ := State.acts s p (fun e => List.concat_ne_nil _ _ <| by
    rw [hpart] at e
    exact (congrArg Part.steerOps e :)) hx
  rw [hpart] at hkept
  exact ⟨s', hs', honly, (congrArg Part.slots hkept :), (congrArg Part.reads hkept :), (congrArg Part.steerOps hkept :)⟩
/-- One that does not completes with BAD_DESC. -/
theorem entry_bad (hok : (s.m.part p.val).steerHeaderOk h.desc.steer bs = false)
    (hw : ((s.m.part p.val).ring (3 + h.desc.stream)).waiting = []) :
    ∃ s', exec (.payloadReadDone p h.seq .steer (.data env bs)) s = .next s' ∧ s.onlyPart s' p
      ∧ (s'.m.part p.val).slots = (s.m.part p.val).slots ∧ (s'.m.part p.val).reads = rest ∧ s.completes s' p h.seq .badDesc
      ∧ (s'.m.part p.val).steerOps = (s.m.part p.val).steerOps := by
  obtain ⟨R, g, k, r, n, hread, hpart, hne, hdone⟩ :=
    Part.entryRead_bad (P := { s.m.part p.val with reads := rest }) (c := s.m.hctx p) ho ht hok hw
  have hx := payloadReadDone_entry hdma hreads hrest (.data env bs)
  rw [hread] at hx
  obtain ⟨s', hs', ha⟩ := State.acts s p (fun e => hne <| by
    rw [hpart] at e
    exact (congrArg Part.rings e :)) hx
  have hcompl := ha.completes hdone
  obtain ⟨honly, hkept, -⟩ := ha
  rw [hpart] at hkept
  exact ⟨s', hs', honly, (congrArg Part.slots hkept :), (congrArg Part.reads hkept :), hcompl,
    (congrArg Part.steerOps hkept :)⟩
end
end

/-! ### The obligation -/

theorem out_of_range {a b c n l : Nat} (h : ¬(a < b ∧ c % 64 = 0 ∧ n ≤ l)) : b ≤ a ∨ c % 64 ≠ 0 ∨ l < n := by omega
theorem not_out_of_range {a b c n l : Nat} (h : a < b ∧ c % 64 = 0 ∧ n ≤ l) : ¬(b ≤ a ∨ c % 64 ≠ 0 ∨ l < n) := by omega

/-- Settles O44: what each control descriptor at the front does, what a payload does to the one request that it is read for, and what the
entry of a steering write does. -/
theorem controlsAndPayloads : Obligations.ControlsAndPayloads := by
  unfold Obligations.ControlsAndPayloads
  refine ⟨?controls, ?requests, ?entries⟩
  case controls =>
    intro s p h hs P d ends inRange hh hw
    refine ⟨cancel_ends hh, fun ht ha => ?_, fun ht ha hn => ?_, fun ht ha hn => ?_, fun ht h0 hr => ?_, fun ht hr => ?_,
      fun ht hr => steerRead_ends hh ht hw (not_out_of_range hr), fun ht hr => ?_, cancel_waits hh⟩
    · exact control_completes (exec_draft s p) hh ht hw (if_pos ha)
    · exact control_completes (exec_draft s p) hh ht hw ((if_neg (not_not.2 ha)).trans (if_pos (Option.isNone_iff_eq_none.2 hn)))
    · exact takeHanded_asks (exec_draft s p) hh ht ((if_neg (not_not.2 ha)).trans (if_neg fun e => hn (Option.isNone_iff_eq_none.1 e)))
    · exact takeHanded_asks (exec_steerWrite s p) hh ht (if_neg (not_or.2 ⟨h0, not_out_of_range hr⟩))
    · exact control_completes (exec_steerWrite s p) hh ht hw (if_pos (hr.imp_right out_of_range))
    · exact control_completes (exec_steerRead s p) hh ht hw (if_pos (out_of_range hr))
  case requests =>
    intro s p i S r rest bs P vocab gives hslots hreq hreads hrest _ he
    have hsole : P.soleReq i.val S r rest := ⟨hslots, hreq, hrest⟩
    refine ⟨fun hdma => ⟨fun hlen env ho => ⟨fun hv => ?_, fun hv => ?_⟩, fun env ho => ?_, fun env ho => ?_, ?_⟩,
      fun hgen hd hb ht hdue => ?_, fun hdue => ?_⟩
    · refine payload_taken hsole hdma hreads (kind := .prompt) (r' := r.withPrompt bs) ho (fun Q hQ hplaces =>
        Part.takePrompt_prompt hQ bs (by rw [Part.place, hplaces]; exact hv)) ⟨rfl, ?_, he, fun k hk => toNat_wordsOf hk bs⟩
      rw [Req.withPrompt, wordsOf_eq, List.length_map, List.length_range]
    · exact payload_taken hsole hdma hreads (kind := .prompt) (r' := { r.withPrompt bs with ending := some .badDesc }) ho
        (fun Q hQ hplaces => Part.takePrompt_badPrompt hQ bs he (by rw [Part.place, hplaces]; exact hv)) rfl
    · exact payload_refused hsole hdma hreads he (kind := .prompt) ho rfl
    · exact payload_taken hsole hdma hreads (kind := .mask) (r' := r.withMask bs) ho (fun Q hQ _ => Part.takePrompt_mask hQ bs he) rfl
    · exact payload_failed hsole hdma hreads he rfl
    · exact prefillPromotion_ends hsole (if_pos ⟨by simp [Req.prefillStarted, hd, hb, ht], hdue⟩)
    · exact prefillPromotion_ends hsole (if_neg fun hp => absurd hp.2 (Nat.not_le.2 hdue))
  case entries =>
    intro s p h rest bs env P ends opens due hdma hreads hrest ht hw
    have hopen := Part.openEnv_opens env 0x05 0 h.seq P.anyHeader.steerBytes (P := P) (Q := { P with reads := rest }) rfl rfl
    refine ⟨entry_due hdma hreads hrest rfl, fun ho => ?_, fun ho hok => entry_waits hdma hreads hrest ht (hopen.trans ho) hok,
      fun ho hok => entry_bad hdma hreads hrest ht (hopen.trans ho) hok hw⟩
    obtain ⟨g, k, hread⟩ := Part.entryRead_refused (P := { P with reads := rest }) (c := s.m.hctx p) (bs := bs) (hopen.trans ho)
    exact entry_due hdma hreads hrest hread

end Sys2Proof.Machine
end

section
/-! The loading service: what one of its commands leaves of the partition, of its load and of the shards the load keeps (R344, R345,
R355, R361 to R365). -/
namespace Sys2Proof

theorem Map.find_filter_none {α : Type} {m : Map α} {k : Nat} (h : Map.find m k = none) (q : Nat × α → Bool) :
    Map.find (m.filter q) k = none := by
  induction m with
  | nil => rfl
  | cons e m ih =>
    obtain ⟨j, w⟩ := e
    rw [Map.find] at h
    split at h
    case isTrue => cases h
    case isFalse hk =>
      rw [List.filter_cons]
      split
      · rw [Map.find, if_neg hk]; exact ih h
      · exact ih h

namespace Machine

/-! ### A partition that loads -/

theorem Part.ne_reset_of_loadOp {P : Part} {L : Load} (hL : P.loadOp = some L) : P ≠ {} := fun e => by
  rw [e] at hL
  cases hL
theorem Part.modLoad_some {P : Part} {L : Load} (hL : P.loadOp = some L) (f : Load → Load) :
    P.modLoad f = { P with loadOp := some (f L) } := by
  rw [Part.modLoad, hL]
  rfl

/-! ### One partition changed -/

theorem Mach.onPart_ports (m : Mach) (p : PartId) (f : HCtx → Part → PRes) : (m.onPart p f).ports = m.ports := by
  unfold Mach.onPart
  dsimp only
  rw [Mach.cnt_ports, Mach.setPart_ports]

/-- `n` is `m` with partition `p` now `P` and `os` sent: tiles, pallets, host ports and every other partition are as they were. -/
structure Mach.PartTo (m : Mach) (p : PartId) (P : Part) (os : List Out) (n : Mach) : Prop where
  part : n.part p.val = P
  other : ∀ q, q ≠ p.val → n.part q = m.part q
  tiles : n.tiles = m.tiles
  pallets : n.pallets = m.pallets
  ports : n.ports = m.ports
  out : n.out = m.out ++ os

theorem Mach.PartTo.refl (m : Mach) (p : PartId) : m.PartTo p (m.part p.val) [] m :=
  ⟨rfl, fun _ _ => rfl, rfl, rfl, rfl, (List.append_nil _).symm⟩

section
variable {m n : Mach} {p : PartId} {P Q : Part} {os : List Out} (h : m.PartTo p P os n)
include h

theorem Mach.PartTo.setPart (hQ : Q ≠ {}) : m.PartTo p Q os (n.setPart p.val Q) :=
  ⟨Mach.part_setPart_listed hQ n p.val, fun q hq => (Mach.part_setPart_other n hq Q).trans (h.other q hq),
    h.tiles, h.pallets, h.ports, h.out⟩
theorem Mach.PartTo.modPart {f : Part → Part} (hf : f P = Q) (hQ : Q ≠ {}) : m.PartTo p Q os (n.modPart p.val f) := by
  rw [Mach.modPart, h.part, hf]
  exact h.setPart hQ
theorem Mach.PartTo.send (xs : List Out) : m.PartTo p P (os ++ xs) (n.send xs) :=
  ⟨h.part, h.other, h.tiles, h.pallets, h.ports, by rw [Mach.send, h.out, List.append_assoc]⟩
theorem Mach.PartTo.onPart {n' : Mach} {f : HCtx → Part → PRes} (hn : n' = n.onPart p f) {r : PRes} (hf : f (n.hctx p) P = r)
    (hr : ({ r.1 with faultEnds := 0 } : Part) ≠ {}) : m.PartTo p { r.1 with faultEnds := 0 } (os ++ r.2) n' := by
  subst hn
  obtain ⟨htiles, hpallets, -, -, -, -, -, hout, hother⟩ := n.onPart_frame p f
  rw [h.part, hf] at hout
  refine ⟨?_, fun q hq => (hother q hq).trans (h.other q hq), htiles.trans h.tiles, hpallets.trans h.pallets,
    (n.onPart_ports p f).trans h.ports, ?_⟩
  · unfold Mach.onPart
    rw [h.part, hf]
    exact Map.get_set_listed hr n.parts p.val
  · rw [hout, h.out, List.append_assoc]
theorem Mach.PartTo.onPart_loads {n' : Mach} {f : HCtx → Part → PRes} (hn : n' = n.onPart p f) {r : PRes} (hf : f (n.hctx p) P = r)
    {L : Load} (hr : r.1.loadOp = some L) : m.PartTo p { r.1 with faultEnds := 0 } (os ++ r.2) n' :=
  h.onPart hn hf (Part.ne_reset_of_loadOp (P := { r.1 with faultEnds := 0 }) hr)
theorem Mach.PartTo.modLoad {L : Load} (hL : P.loadOp = some L) (f : Load → Load) :
    m.PartTo p { P with loadOp := some (f L) } os (n.modPart p.val fun P => P.modLoad f) :=
  h.modPart (f := fun P => P.modLoad f) (Part.modLoad_some hL f)
    (Part.ne_reset_of_loadOp (P := { P with loadOp := some (f L) }) rfl)
end

theorem Mach.PartTo.onlyPart {s : State} {n : Mach} {p : PartId} {P : Part} {os : List Out} (h : s.m.PartTo p P os n) :
    s.onlyPart { s with m := n } p := ⟨h.other, h.tiles, h.pallets, rfl⟩

/-! ### The load -/

section
variable {P : Part} {L : Load} (hL : P.loadOp = some L)
include hL

/-- A release of shards leaves all of the partition but what its load keeps. -/
theorem Part.releaseShards_eq {mf : Manifest} (hmf : P.loadManifest L = some mf) :
    ∃ q, P.releaseShards = { P with loadOp := some { L with keptShards := L.keptShards.filter q } } := by
  unfold Part.releaseShards
  simp only [hL, hmf, Part.modLoad_some hL]
  exact ⟨_, rfl⟩
end

/-- The lists of own shards, and of the shards a load takes, hold those of the manifest that pass a test. -/
theorem mem_shardIdx {mf : Manifest} {i : Nat} {e : ShardEnt} (he : mf.shards[i]? = some e) {q : ShardEnt → Bool} (hq : q e = true) :
    i ∈ ((List.range mf.shards.length).zip mf.shards).filterMap fun x => if q x.2 then some x.1 else none := by
  obtain ⟨hi, hget⟩ := List.getElem?_eq_some_iff.1 he
  refine List.mem_filterMap.2 ⟨(i, e), List.mem_iff_getElem.2 ⟨i, by simpa using hi, ?_⟩, by simp [hq]⟩
  simp [hget]

section
variable {m n : Mach} {p : PartId} {P : Part} {L : Load} {mf : Manifest} {os : List Out} {i j : Nat}

/-- Nothing is applied while the next own shard has not arrived (R345). -/
theorem Mach.pump_awaits (hL : (n.part p.val).loadOp = some L) (h : (n.part p.val).awaits L mf j) (fuel : Nat) : n.pump p fuel = n := by
  obtain ⟨hmf, hnext, hkept, hheld, hdue, hstaged, -⟩ := h
  cases fuel with
  | zero => rfl
  | succ fuel => simp only [Mach.pump, hL, hmf, hheld, hdue, hstaged, hnext, hkept, Bool.or_self, Bool.false_eq_true, if_false]
theorem Mach.PartTo.pump_awaits (h : m.PartTo p P os n) (hL : P.loadOp = some L) (ha : P.awaits L mf j) (fuel : Nat) :
    n.pump p fuel = n := by
  rw [← h.part] at hL ha
  exact Mach.pump_awaits hL ha fuel

/-- A load that releases shards awaits what it awaited. -/
theorem Mach.PartTo.released (h : m.PartTo p P os n) (hL : P.loadOp = some L) {f : Load → Load} (ha : P.awaits (f L) mf j) (fuel : Nat) :
    ∃ q, m.PartTo p { P with loadOp := some { f L with keptShards := (f L).keptShards.filter q } } os
      ((n.modPart p.val fun P => (P.modLoad f).releaseShards).pump p fuel) := by
  obtain ⟨hmf, hnext, hkept, hheld, hdue, hstaged, hreg⟩ := ha
  obtain ⟨q, hq⟩ := Part.releaseShards_eq (P := { P with loadOp := some (f L) }) rfl hmf
  have hto := h.modPart (f := fun P => (P.modLoad f).releaseShards) ((congrArg Part.releaseShards (Part.modLoad_some hL f)).trans hq)
    (Part.ne_reset_of_loadOp (P := { P with loadOp := some _ }) rfl)
  rw [hto.pump_awaits rfl ⟨hmf, hnext, Map.find_filter_none hkept q, hheld, hdue, hstaged, hreg⟩]
  exact ⟨q, hto⟩

theorem Load.forwards_none (hf : L.forward = []) (e : ShardEnt) : L.forwards e = false := by rw [Load.forwards, hf]; rfl
theorem Mach.forwardShard_none (hL : (n.part p.val).loadOp = some L) (hf : L.forward = []) (i : Nat) : n.forwardShard p i = n := by
  simp only [Mach.forwardShard, hL]
  split
  · rw [Load.forwards_none hf]; rfl
  · rfl
/-- A shard of the forward set is sent down from its kept copy. -/
theorem Mach.forwardShard_sends {e : ShardEnt} (hL : (n.part p.val).loadOp = some L) (hmf : (n.part p.val).loadManifest L = some mf)
    (he : mf.shards[i]? = some e) (hf : L.forwards e = true) (hstop : L.stopAt = none) :
    n.forwardShard p i = n.send ((n.part p.val).relayDown 2 i 0) := by
  have hbind : (((n.part p.val).loadManifest L).bind fun f => f.shards[i]?) = some e := by rw [hmf]; exact he
  simp only [Mach.forwardShard, hL, hbind, hf, hstop]
  rfl

/-! ### A shard that is kept (R344, R345, R363) -/

/-- The load once shard `i` has arrived. -/
def Load.taking (L : Load) (i : Nat) (bs : List Byte) : Load :=
  { L with inFlight := L.inFlight.erase i, keptShards := Map.insert L.keptShards i bs, next := Nat.max L.next (i + 1) }

/-- What arrives is kept and acknowledged; with nothing to forward, the shards that wait are then applied. -/
theorem Mach.PartTo.takeShard (h : m.PartTo p P os n) (hL : P.loadOp = some L) (hf : L.forward = []) (i : Nat) (bs : List Byte) :
    ∃ n', m.PartTo p { P with loadOp := some (L.taking i bs) } (os ++ P.relayUp 3 i 0) n' ∧ n.takeShard p i bs = n'.pump p 4096 := by
  have hkeep := (h.modLoad hL fun L => L.taking i bs).send (P.relayUp 3 i 0)
  refine ⟨_, hkeep, ?_⟩
  have hforward := Mach.forwardShard_none (congrArg Part.loadOp hkeep.part) hf i
  have htake : n.takeShard p i bs = (Mach.forwardShard ((n.modPart p.val fun P => P.modLoad fun L => L.taking i bs).send
    ((n.part p.val).relayUp 3 i 0)) p i).pump p 4096 := rfl
  rw [htake, h.part, hforward]

/-- A shard out of its turn waits. -/
theorem Mach.PartTo.takeShard_waits (h : m.PartTo p P os n) (hL : P.loadOp = some L) (hf : L.forward = []) (ha : P.awaits L mf j)
    (hij : i ≠ j) (bs : List Byte) :
    m.PartTo p { P with loadOp := some (L.taking i bs) } (os ++ P.relayUp 3 i 0) (n.takeShard p i bs) := by
  obtain ⟨n', hn', htake⟩ := h.takeShard hL hf i bs
  obtain ⟨hmf, hnext, hkept, hheld, hdue, hstaged, hreg⟩ := ha
  have hkept' : Map.find (L.taking i bs).keptShards j = none := (Map.find_insert_other hij.symm _ _).trans hkept
  rw [htake, hn'.pump_awaits rfl ⟨hmf, hnext, hkept', hheld, hdue, hstaged, hreg⟩]
  exact hn'
end

/-! ### A shard that fails (R364, R365) -/

/-- One failure of shard `i`, now the `k`-th, noted. -/
def Part.noteFailure (P : Part) (c : HCtx) (i k : Nat) : PRes :=
  ((P.modLoad fun L => { L with failures := Map.set 0 L.failures i k }).cnt Reg.LOAD_RETRY_COUNT_RETRIES 1).loadEvt c
    Reg.LOAD_EVT_SHARD_RETRY
/-- A failure before the eighth: the shard is asked for again, and it is in flight again where it is read from a host. -/
def Part.retryShard (P : Part) (c : HCtx) (i k : Nat) (read : Bool) (again : List Out) : PRes :=
  let r := P.noteFailure c i k
  (r.1.modLoad fun L => { L with inFlight := if read then L.inFlight ++ [i] else L.inFlight }, r.2 ++ again)
/-- The eighth failure holds the load, and `told` goes to the neighbours. -/
def Part.holdShard (P : Part) (c : HCtx) (i k hop : Nat) (up down : List Out) : PRes :=
  let r := P.noteFailure c i k
  let Q := (((r.1.modLoad fun L => { L with held := true, failedShard := some i, inFlight := L.inFlight.erase i }).setR
    Reg.LOAD_STATUS_STATE 4).setR Reg.LOAD_STATUS_REASON 0x0D).setR Reg.LOAD_FAIL_SHARD_INDEX i
  let q := ((Q.setR Reg.LOAD_FAIL_HOP hop).setR Reg.LOAD_FAIL_HOP_ATTEMPTS 8).loadEvt c Reg.LOAD_EVT_FAILED
  (q.1, r.2 ++ q.2 ++ up ++ down)

section
variable {P : Part} {L : Load} (hL : P.loadOp = some L) (c : HCtx) (i k : Nat)
include hL

theorem Part.noteFailure_eq : ∃ g os,
    P.noteFailure c i k = ({ P with regs := g, loadOp := some { L with failures := Map.set 0 L.failures i k } }, os)
      ∧ g.get Reg.LOAD_EVT_SHARD_RETRY = 1 ∧ g.get Reg.LOAD_STATUS_STATE = P.getR Reg.LOAD_STATUS_STATE := by
  unfold Part.noteFailure
  rw [Part.modLoad_some hL]
  exact ⟨_, _, rfl, RegFile.get_set_same (.inr (by decide)),
    (RegFile.get_set_other (by decide) _ 1).trans (RegFile.get_set_other (by decide) _ _)⟩
theorem Part.retryShard_eq (read : Bool) (again : List Out) : ∃ g fl os, P.retryShard c i k read again
      = ({ P with regs := g, loadOp := some { L with failures := Map.set 0 L.failures i k, inFlight := fl } }, os ++ again)
    ∧ g.get Reg.LOAD_EVT_SHARD_RETRY = 1 ∧ g.get Reg.LOAD_STATUS_STATE = P.getR Reg.LOAD_STATUS_STATE := by
  obtain ⟨g, os, hnote, hevt, hstate⟩ := Part.noteFailure_eq hL c i k
  unfold Part.retryShard
  rw [hnote]
  exact ⟨g, _, os, rfl, hevt, hstate⟩
theorem Part.holdShard_eq (hop : Nat) (up down : List Out) : ∃ g fl os, P.holdShard c i k hop up down
      = ({ P with regs := g, loadOp := some { L with
            failures := Map.set 0 L.failures i k, held := true, failedShard := some i, inFlight := fl } }, os)
    ∧ g.get Reg.LOAD_EVT_SHARD_RETRY = 1 ∧ g.get Reg.LOAD_STATUS_STATE = 4 ∧ g.get Reg.LOAD_STATUS_REASON = 0x0D := by
  obtain ⟨g, os, hnote, hevt, -⟩ := Part.noteFailure_eq hL c i k
  unfold Part.holdShard
  rw [hnote]
  refine ⟨(((((g.set Reg.LOAD_STATUS_STATE 4).set Reg.LOAD_STATUS_REASON 0x0D).set Reg.LOAD_FAIL_SHARD_INDEX i).set
    Reg.LOAD_FAIL_HOP hop).set Reg.LOAD_FAIL_HOP_ATTEMPTS 8).set Reg.LOAD_EVT_FAILED 1, _, _, rfl, ?_, ?_, ?_⟩ <;>
    simp (disch := decide) only [RegFile.get_set_other]
  · exact hevt
  · exact RegFile.get_set_same (f := Reg.LOAD_STATUS_STATE) (v := 4) (.inr (by decide))
  · exact RegFile.get_set_same (f := Reg.LOAD_STATUS_REASON) (v := 0x0D) (.inr (by decide))
end

section
variable {m n : Mach} {p : PartId} {P : Part} {L : Load} {os : List Out} (h : m.PartTo p P os n) (hL : P.loadOp = some L) (i reason : Nat)
include h hL

/-- A failure before the eighth. -/
theorem Mach.PartTo.shardFailed_again (hlt : Map.get 0 L.failures i + 1 < 8) : ∃ Q xs fl,
    m.PartTo p Q (os ++ (xs ++ n.askAgain p L i 4 reason)) (n.shardFailed p i reason)
      ∧ Q.loadOp = some { L with failures := Map.set 0 L.failures i (Map.get 0 L.failures i + 1), inFlight := fl }
      ∧ Q.flagR Reg.LOAD_EVT_SHARD_RETRY = true ∧ Q.getR Reg.LOAD_STATUS_STATE = P.getR Reg.LOAD_STATUS_STATE := by
  have hn : (n.part p.val).loadOp = some L := h.part ▸ hL
  obtain ⟨g, fl, xs, hretry, hevt, hstate⟩ := Part.retryShard_eq hL (n.hctx p) i (Map.get 0 L.failures i + 1)
    (!(n.part p.val).fromUp && i != manifestIx && !L.inFlight.contains i) (n.askAgain p L i 4 reason)
  have hfail : n.shardFailed p i reason = n.onPart p fun c P => P.retryShard c i (Map.get 0 L.failures i + 1)
      (!(n.part p.val).fromUp && i != manifestIx && !L.inFlight.contains i) (n.askAgain p L i 4 reason) := by
    simp only [Mach.shardFailed, hn, if_pos hlt]
    rfl
  have hto := h.onPart_loads hfail hretry rfl
  exact ⟨_, xs, fl, hto, rfl, Part.flagR_iff.2 hevt, hstate⟩
/-- The eighth. -/
theorem Mach.PartTo.shardFailed_holds (hge : ¬ Map.get 0 L.failures i + 1 < 8) : ∃ Q xs fl,
    m.PartTo p Q (os ++ xs) (n.shardFailed p i reason)
      ∧ Q.loadOp = some { L with
          failures := Map.set 0 L.failures i (Map.get 0 L.failures i + 1), held := true, failedShard := some i, inFlight := fl }
      ∧ Q.flagR Reg.LOAD_EVT_SHARD_RETRY = true ∧ Q.getR Reg.LOAD_STATUS_STATE = 4 ∧ Q.getR Reg.LOAD_STATUS_REASON = 0x0D := by
  have hn : (n.part p.val).loadOp = some L := h.part ▸ hL
  obtain ⟨g, fl, xs, hhold, hevt, hstate, hreason⟩ := Part.holdShard_eq hL (n.hctx p) i (Map.get 0 L.failures i + 1)
    (n.part p.val).hop ((n.part p.val).relayUp 5 i ((n.part p.val).hop * 16 + 8)) ((n.part p.val).relayDown 6 i 0)
  have hfail : n.shardFailed p i reason = n.onPart p fun c P => P.holdShard c i (Map.get 0 L.failures i + 1)
      (n.part p.val).hop ((n.part p.val).relayUp 5 i ((n.part p.val).hop * 16 + 8)) ((n.part p.val).relayDown 6 i 0) := by
    simp only [Mach.shardFailed, hn, if_neg hge]
    rfl
  have hto := h.onPart_loads hfail hhold rfl
  exact ⟨_, xs, fl, hto, rfl, Part.flagR_iff.2 hevt, hstate, hreason⟩
end
end Machine
end Sys2Proof
end

section
/-! O51: relay messages (R361 to R365). -/
namespace Sys2Proof.Machine

/-! ### The ports of a relay -/

section
variable {m : Mach} {l : LinkId} {p : PartId}

theorem Mach.upPart_spec (h : m.upPart l = some p) :
    (m.part p.val).fromUp = true ∧ (m.part p.val).getR Reg.RELAY_CFG_UP_PORT = l.val := by
  have hp := List.find?_some h
  simp only [Bool.and_eq_true, beq_iff_eq] at hp
  exact ⟨hp.1.2, hp.2⟩
theorem Mach.downPart_spec (h : m.downPart l = some p) :
    (m.part p.val).flagR Reg.RELAY_CFG_DOWN_EN = true ∧ (m.part p.val).getR Reg.RELAY_CFG_DOWN_PORT = l.val := by
  have hp := List.find?_some h
  simp only [Bool.and_eq_true, beq_iff_eq] at hp
  exact ⟨hp.1.2, hp.2⟩

theorem Part.relayUp_port {P : Part} (h : P.fromUp = true) (hl : P.getR Reg.RELAY_CFG_UP_PORT = l.val) (type i arg : Nat) :
    P.relayUp type i arg = [.relay l type i arg] := by
  simp only [Part.fromUp, Bool.and_eq_true, bne_iff_ne] at h
  have hport : Fin.ofNat 32 (P.getR Reg.RELAY_CFG_UP_PORT) = l := Fin.ext (by rw [hl]; exact Nat.mod_eq_of_lt l.isLt)
  rw [Part.relayUp, Part.hop, if_neg h.1, hport]
theorem Part.relayDown_port {P : Part} (h : P.flagR Reg.RELAY_CFG_DOWN_EN = true) (hl : P.getR Reg.RELAY_CFG_DOWN_PORT = l.val)
    (type i arg : Nat) : P.relayDown type i arg = [.relay l type i arg] := by
  have hport : Fin.ofNat 32 (P.getR Reg.RELAY_CFG_DOWN_PORT) = l := Fin.ext (by rw [hl]; exact Nat.mod_eq_of_lt l.isLt)
  rw [Part.relayDown, if_pos h, hport]
end

/-! ### From upstream -/

section
variable {s : State} {l : LinkId} {p : PartId} {L : Load} (hp : s.m.upPart l = some p)
include hp

theorem relayManifest_empty {bs : List Byte} (hbs : bs = []) : exec (.relayManifest l bs) s = .next s := by
  show execRelayManifest l bs s = _
  simp only [execRelayManifest, lift_next, hp, hbs, List.isEmpty_nil, if_true]

variable (hL : (s.m.part p.val).loadOp = some L)
include hL

theorem relayManifest_taken {bs : List Byte} (hbs : bs ≠ []) : exec (.relayManifest l bs) s
    = .next (s.withPart p { s.m.part p.val with loadOp := some { L with relayed := true, heldUp := false } }) := by
  show execRelayManifest l bs s = _
  simp only [execRelayManifest, lift_next, hp, List.isEmpty_eq_false_iff.2 hbs, Bool.false_eq_true, if_false, Mach.modPart,
    Part.modLoad_some hL, State.withPart]
theorem relayHeld_noted (i : Nat) : exec (.relayHeld l i) s
    = .next (s.withPart p { s.m.part p.val with loadOp := some { L with heldUp := true } }) := by
  show execRelayHeld l i s = _
  simp only [execRelayHeld, lift_next, hp, Mach.modPart, Part.modLoad_some hL, State.withPart]
end

/-- A shard that the load takes from upstream, where the store had room for it in `before` (R363, R364). -/
def Mach.takeRelayed (before m : Mach) (p : PartId) (L : Load) (i : Nat) (bs : List Byte) (ok : Bool) : Mach :=
  let P := m.part p.val
  let len := (((P.loadManifest L).bind fun f => f.shards[i]?).map fun e => e.len).getD 0
  if P.getR Reg.LOAD_STATUS_STATE = 1 ∨ L.held then m
  else if (Map.find L.keptShards i).isSome ∨ L.applied.contains i then m.send (P.relayUp 3 i 0)
  else if before.storeRoom p.val < before.storeUsed p.val + len then m
  else if ok && bs.length == len then m.takeShard p i bs
  else m.shardFailed p i 1

section
variable {s : State} {l : LinkId} {p : PartId} {L : Load} (hp : s.m.upPart l = some p) (hL : (s.m.part p.val).loadOp = some L)
include hp hL

/-- A shard from upstream ends a HELD; then it is judged. -/
theorem exec_relayShard (i : Nat) (bs : List Byte) (ok : Bool) : ∃ n,
    s.m.PartTo p { s.m.part p.val with loadOp := some { L with heldUp := false } } [] n
      ∧ exec (.relayShard l i bs ok) s = .next { s with m := s.m.takeRelayed n p { L with heldUp := false } i bs ok } := by
  have hto := (Mach.PartTo.refl s.m p).modLoad hL fun L => { L with heldUp := false }
  refine ⟨_, hto, ?_⟩
  show execRelayShard l i bs ok s = _
  have hload := congrArg Part.loadOp hto.part
  simp only [execRelayShard, lift_next, hp, hload]
  rfl

variable (hstate : (s.m.part p.val).getR Reg.LOAD_STATUS_STATE ≠ 1) (hheld : L.held = false)
include hstate hheld

/-- One that is already there is acknowledged again. -/
theorem relayShard_known {i : Nat} (hknown : Map.find L.keptShards i ≠ none ∨ i ∈ L.applied) (bs : List Byte) :
    ∃ s' K, exec (.relayShard l i bs true) s = .next s' ∧ s.onlyPart s' p ∧ (s'.m.part p.val).loadOp = some K
      ∧ Out.relay l 3 i 0 ∈ s'.m.out ∧ K = { L with heldUp := false } := by
  obtain ⟨n, hto, hx⟩ := exec_relayShard hp hL i bs true
  obtain ⟨hup, hport⟩ := Mach.upPart_spec hp
  have hknown' : (Map.find L.keptShards i).isSome ∨ L.applied.contains i :=
    hknown.imp Option.isSome_iff_ne_none.2 List.contains_iff_mem.2
  have hsend : s.m.takeRelayed n p { L with heldUp := false } i bs true = n.send [.relay l 3 i 0] := by
    have hstate' : (n.part p.val).getR Reg.LOAD_STATUS_STATE ≠ 1 := by rw [hto.part]; exact hstate
    have hsent : (n.part p.val).relayUp 3 i 0 = [.relay l 3 i 0] := by rw [hto.part]; exact Part.relayUp_port hup hport 3 i 0
    rw [Mach.takeRelayed, if_neg (by simp [hstate', hheld]), if_pos hknown', hsent]
  have hto' := hto.send [.relay l 3 i 0]
  rw [hsend] at hx
  exact ⟨_, _, hx, hto'.onlyPart, (congrArg Part.loadOp hto'.part :), hto'.out ▸ by simp, rfl⟩

section
variable {mf : Manifest} {i : Nat} {e : ShardEnt} (hkept : Map.find L.keptShards i = none) (hnew : i ∉ L.applied)
  (hmf : (s.m.part p.val).loadManifest L = some mf) (he : mf.shards[i]? = some e)
  (hroom : s.m.storeUsed p.val + e.len ≤ s.m.storeRoom p.val)
include hkept hnew hmf he hroom

/-- One that is not, and for which the store has room, is taken where it is whole, and else fails. -/
theorem relayShard_new (bs : List Byte) (ok : Bool) : ∃ n, s.m.PartTo p { s.m.part p.val with loadOp := some { L with heldUp := false } } [] n
    ∧ exec (.relayShard l i bs ok) s
      = .next { s with m := if ok && bs.length == e.len then n.takeShard p i bs else n.shardFailed p i 1 } := by
  obtain ⟨n, hto, hx⟩ := exec_relayShard hp hL i bs ok
  refine ⟨n, hto, ?_⟩
  have hstate' : (n.part p.val).getR Reg.LOAD_STATUS_STATE ≠ 1 := by rw [hto.part]; exact hstate
  have hmf' : (n.part p.val).loadManifest { L with heldUp := false } = some mf := by rw [hto.part]; exact hmf
  have hlen : ((((n.part p.val).loadManifest { L with heldUp := false }).bind fun f => f.shards[i]?).map fun e => e.len).getD 0
      = e.len := by simp only [hmf', Option.bind_some, he, Option.map_some, Option.getD_some]
  unfold Mach.takeRelayed at hx
  dsimp only at hx
  rw [if_neg (by simp [hstate', hheld]), if_neg (by simp [hkept, hnew]), hlen, if_neg (Nat.not_lt.2 hroom)] at hx
  exact hx

/-- One that is whole is kept and acknowledged. -/
theorem relayShard_taken {bs : List Byte} {j : Nat} (ha : (s.m.part p.val).awaits L mf j) (hij : i ≠ j) (hlen : bs.length = e.len)
    (hf : L.forward = []) :
    ∃ s' K, exec (.relayShard l i bs true) s = .next s' ∧ s.onlyPart s' p ∧ (s'.m.part p.val).loadOp = some K
      ∧ Out.relay l 3 i 0 ∈ s'.m.out ∧ Map.find K.keptShards i = some bs ∧ K.applied = L.applied := by
  obtain ⟨n, hto, hx⟩ := relayShard_new hp hL hstate hheld hkept hnew hmf he hroom bs true
  obtain ⟨hup, hport⟩ := Mach.upPart_spec hp
  have hto' := hto.takeShard_waits rfl hf ha hij bs
  have hsent : Part.relayUp { s.m.part p.val with loadOp := some { L with heldUp := false } } 3 i 0 = [.relay l 3 i 0] :=
    Part.relayUp_port hup hport 3 i 0
  rw [hsent] at hto'
  rw [if_pos (by simp [hlen])] at hx
  exact ⟨_, _, hx, hto'.onlyPart, (congrArg Part.loadOp hto'.part :), hto'.out ▸ by simp, Map.find_insert_same _ _ _, rfl⟩
/-- One without its digest is asked for again. -/
theorem relayShard_failed (bs : List Byte) (hi : i ≠ manifestIx) (hlt : Map.get 0 L.failures i + 1 < 8) :
    ∃ s' K, exec (.relayShard l i bs false) s = .next s' ∧ s.onlyPart s' p ∧ (s'.m.part p.val).loadOp = some K
      ∧ Out.relay l 4 i 1 ∈ s'.m.out ∧ Map.get 0 K.failures i = Map.get 0 L.failures i + 1 ∧ K.applied = L.applied := by
  obtain ⟨n, hto, hx⟩ := relayShard_new hp hL hstate hheld hkept hnew hmf he hroom bs false
  obtain ⟨hup, hport⟩ := Mach.upPart_spec hp
  obtain ⟨Q, xs, fl, hto', hK, -⟩ := hto.shardFailed_again rfl i 1 hlt
  have hask : n.askAgain p { L with heldUp := false } i 4 1 = [.relay l 4 i 1] := by
    have hmf' : (n.part p.val).loadManifest { L with heldUp := false } = some mf := by rw [hto.part]; exact hmf
    have hup' : (n.part p.val).fromUp = true := by rw [hto.part]; exact hup
    have hport' : (n.part p.val).getR Reg.RELAY_CFG_UP_PORT = l.val := by rw [hto.part]; exact hport
    simp only [Mach.askAgain, if_neg hi, hmf', Option.bind_some, he, if_pos hup', Part.relayUp_port hup' hport']
  rw [hask] at hto'
  refine ⟨_, _, hx, hto'.onlyPart, (congrArg Part.loadOp hto'.part).trans hK, hto'.out ▸ by simp, ?_, rfl⟩
  exact Map.get_set_listed (Nat.succ_ne_zero _) _ _
end
end

/-! ### From below -/

/-- Forwarding stops at a shard that has failed below (R365, step 3). -/
def Part.stopForwarding (P : Part) (c : HCtx) (i hop n : Nat) : PRes :=
  let Q := ((P.modLoad fun L => { L with stopAt := some i }).setR Reg.LOAD_FAIL_SHARD_INDEX i).setR Reg.LOAD_FAIL_HOP hop
  (Q.setR Reg.LOAD_FAIL_HOP_ATTEMPTS n).loadEvt c Reg.LOAD_EVT_RELAY_HELD

section
variable {s : State} {l : LinkId} {p : PartId} {L : Load} {mf : Manifest} {i j : Nat} {e : ShardEnt}
variable (hp : s.m.downPart l = some p) (hL : (s.m.part p.val).loadOp = some L)

include hp hL

theorem relayNack_kept (hmf : (s.m.part p.val).loadManifest L = some mf) (he : mf.shards[i]? = some e) {f : List Byte}
    (hkept : Map.find L.keptShards i = some f) (hf : L.forwards e = true) (hstop : L.stopAt = none) (why : Byte) :
    exec (.relayNack l i why) s = .next { s with m := { s.m with out := s.m.out ++ [.relay l 2 i 0] } } := by
  obtain ⟨hdown, hport⟩ := Mach.downPart_spec hp
  have hsent := Mach.forwardShard_sends hL hmf he hf hstop
  rw [Part.relayDown_port hdown hport] at hsent
  show execRelayNack l i why s = _
  simp [execRelayNack, lift_next, hp, hL, hkept, hsent, Mach.send]
theorem relayNack_unkept (hkept : Map.find L.keptShards i = none) (why : Byte) : exec (.relayNack l i why) s = .next s := by
  show execRelayNack l i why s = _
  simp [execRelayNack, lift_next, hp, hL, hkept]

theorem relayFail_stops (hop n : Nat) : ∃ s' K, exec (.relayFail l i hop n) s = .next s' ∧ s.onlyPart s' p
    ∧ (s'.m.part p.val).loadOp = some K ∧ K = { L with stopAt := some i } ∧ (s'.m.part p.val).flagR Reg.LOAD_EVT_RELAY_HELD = true := by
  have hstop : ((s.m.part p.val).stopForwarding (s.m.hctx p) i hop n).1.loadOp = some { L with stopAt := some i } := by
    rw [Part.stopForwarding, Part.modLoad_some hL]
    rfl
  have hto := (Mach.PartTo.refl s.m p).onPart_loads (f := fun c P => P.stopForwarding c i hop n) rfl rfl hstop
  refine ⟨_, _, ?_, hto.onlyPart, (congrArg Part.loadOp hto.part).trans hstop, rfl, ?_⟩
  · show execRelayFail l i hop n s = _
    simp only [execRelayFail, lift_next, hp]
    rfl
  · exact (congrArg (Part.flagR · Reg.LOAD_EVT_RELAY_HELD) hto.part).trans (Part.flagR_evt_same _ rfl rfl)

theorem relayResume_sends (hmf : (s.m.part p.val).loadManifest L = some mf) {k : Nat} {f : List Byte} (hkept : L.keptShards = [(k, f)])
    (hik : i ≤ k) (hacked : k ∉ L.acked) (he : mf.shards[k]? = some e) (hf : L.forwards e = true) :
    ∃ s' K, exec (.relayResume l i) s = .next s' ∧ s.onlyPart s' p ∧ (s'.m.part p.val).loadOp = some K
      ∧ K = { L with stopAt := none } ∧ s'.m.out = s.m.out ++ [.relay l 2 k 0] := by
  obtain ⟨hdown, hport⟩ := Mach.downPart_spec hp
  have hto := (Mach.PartTo.refl s.m p).modLoad hL fun L => { L with stopAt := none }
  have hL' := congrArg Part.loadOp hto.part
  have hsent := Mach.forwardShard_sends (i := k) hL' (by rw [hto.part]; exact hmf) he hf rfl
  have hdown' : Part.relayDown { s.m.part p.val with loadOp := some { L with stopAt := none } } 2 k 0 = [.relay l 2 k 0] :=
    Part.relayDown_port hdown hport 2 k 0
  rw [hto.part, hdown'] at hsent
  have hto' := hto.send [.relay l 2 k 0]
  refine ⟨_, _, ?_, hto'.onlyPart, (congrArg Part.loadOp hto'.part :), rfl, hto'.out⟩
  show execRelayResume l i s = _
  simp only [execRelayResume, lift_next, hp, Mach.forwardFrom, hL', hkept, ← hsent]
  simp [hik, hacked]

variable (ha : (s.m.part p.val).awaits L mf j)
include ha

theorem relayAck_noted : ∃ s' K, exec (.relayAck l i) s = .next s' ∧ s.onlyPart s' p ∧ (s'.m.part p.val).loadOp = some K
    ∧ i ∈ K.acked ∧ ∀ k ∈ L.acked, k ∈ K.acked := by
  obtain ⟨q, hto⟩ := (Mach.PartTo.refl s.m p).released hL
    (f := fun L => { L with acked := if L.acked.contains i then L.acked else L.acked ++ [i] }) ha 4096
  refine ⟨_, _, ?_, hto.onlyPart, (congrArg Part.loadOp hto.part :), ?_⟩
  · show execRelayAck l i s = _
    simp only [execRelayAck, lift_next, hp]
  · dsimp only
    split
    case isTrue h => exact ⟨List.contains_iff_mem.1 h, fun k hk => hk⟩
    case isFalse => exact ⟨List.mem_append_right _ List.mem_cons_self, fun k hk => List.mem_append_left _ hk⟩
theorem relayDrop_shrinks (hop : Nat) : ∃ s' K, exec (.relayDrop l hop) s = .next s' ∧ s.onlyPart s' p
    ∧ (s'.m.part p.val).loadOp = some K ∧ K.stopAt = none ∧ K.forward = L.forward.filter fun h => decide (h < hop) := by
  obtain ⟨q, hto⟩ := (Mach.PartTo.refl s.m p).released hL
    (f := fun L => { L with stopAt := none, forward := L.forward.filter fun h => decide (h < hop) }) ha 4096
  refine ⟨_, _, ?_, hto.onlyPart, (congrArg Part.loadOp hto.part :), rfl, rfl⟩
  show execRelayDrop l hop s = _
  simp only [execRelayDrop, lift_next, hp]
end

/-! ### Ports that no load names -/

theorem relay_unheard_above {s : State} {l : LinkId} (h : s.m.upPart l = none) {bs : List Byte} {i : Nat} {c : Instr}
    (hc : c = .relayManifest l bs ∨ c = .relayShard l i bs true ∨ c = .relayHeld l i) : exec c s = .next s := by
  rcases hc with rfl | rfl | rfl
  · show execRelayManifest l bs s = _
    simp only [execRelayManifest, lift_next, h]
  · show execRelayShard l i bs true s = _
    simp only [execRelayShard, lift_next, h]
  · show execRelayHeld l i s = _
    simp only [execRelayHeld, lift_next, h]
theorem relay_unheard_below {s : State} {l : LinkId} (h : s.m.downPart l = none) {i hop n : Nat} {why : Byte} {c : Instr}
    (hc : c = .relayAck l i ∨ c = .relayNack l i why ∨ c = .relayFail l i hop n ∨ c = .relayResume l i ∨ c = .relayDrop l hop) :
    exec c s = .next s := by
  rcases hc with rfl | rfl | rfl | rfl | rfl
  · show execRelayAck l i s = _
    simp only [execRelayAck, lift_next, h]
  · show execRelayNack l i why s = _
    simp only [execRelayNack, lift_next, h]
  · show execRelayFail l i hop n s = _
    simp only [execRelayFail, lift_next, h]
  · show execRelayResume l i s = _
    simp only [execRelayResume, lift_next, h]
  · show execRelayDrop l hop s = _
    simp only [execRelayDrop, lift_next, h]

/-! ### The obligation -/

/-- Settles O51: a message acts on the one load that its port names (`upPart`, `downPart`), and the next own shard of that load is
still awaited afterwards, so that nothing else is applied. -/
theorem relay : Obligations.Relay := by
  unfold Obligations.Relay
  intro s l p L mf bs i j hop n e why m P ends
  refine ⟨fun hno c hc => relay_unheard_above hno hc, fun hno c hc => relay_unheard_below hno hc, fun hp hL => ?above,
    fun hp hL ha => ?below⟩
  case above =>
    refine ⟨fun hbs => relayManifest_empty hp hbs, fun hbs => relayManifest_taken hp hL hbs, relayHeld_noted hp hL i, fun hstate hheld =>
      ⟨fun hknown => relayShard_known hp hL hstate hheld hknown bs, ?_, ?_⟩⟩
    · intro ha hkept hnew hij he hlen hf hroom
      exact relayShard_taken hp hL hstate hheld hkept hnew ha.1 he hroom ha hij hlen hf
    · intro hi hkept hnew hmf he hroom hlt
      exact relayShard_failed hp hL hstate hheld hkept hnew hmf he hroom bs hi hlt
  case below =>
    exact ⟨relayAck_noted hp hL ha, fun f hkept he hf hstop => relayNack_kept hp hL ha.1 he hkept hf hstop why,
      fun hkept => relayNack_unkept hp hL hkept why, relayFail_stops hp hL hop n,
      fun k f hkept hik hacked he hf => relayResume_sends hp hL ha.1 hkept hik hacked he hf, relayDrop_shrinks hp hL ha hop⟩

end Sys2Proof.Machine
end

section
/-! The end of a load with a reason (R356, R373): what it leaves of the partition, and the arrays that it erases (R68, R69). -/
namespace Sys2Proof.Machine

/-! ### Tiles that the loading service changes -/

theorem Mach.foldl_parts {α : Type} (f : Mach → α → Mach) (h : ∀ m x, (f m x).parts = m.parts) (l : List α) (m : Mach) :
    (l.foldl f m).parts = m.parts :=
  List.foldlRecOn l f (motive := fun n : Mach => n.parts = m.parts) rfl fun n hn x _ => (h n x).trans hn
/-- The commands of a load leave their controllers, and the arrays they program are UNKNOWN (R68). -/
def Mach.endRuns (m : Mach) (L : Load) : Mach :=
  L.runs.foldl (fun m r => m.modTile r.tile fun T => (maskArrs r.mask.toNat).foldl (fun T a => T.modArr a fun A =>
    if A.content == .loading then { A with content := .unknown } else A) { T with aq := T.aq.filter fun c => c.id != r.cmd }) m
/-- The arrays of tile `t` that a load has programmed. -/
def Load.programmedOf (L : Load) (t : Nat) : List Nat := ((L.programmed.filter fun x => x.1 == t).map (·.2)).dedup
theorem Mach.eraseProgrammed_eq (m : Mach) (L : Load) : m.eraseProgrammed L
    = ((L.programmed.map (·.1)).dedup).foldl (fun m t => m.loaderErase t (L.programmedOf t)) (m.endRuns L) := rfl
theorem Mach.eraseProgrammed_parts (m : Mach) (L : Load) : (m.eraseProgrammed L).parts = m.parts :=
  (Mach.foldl_parts _ (by intros; rfl) _ _).trans (Mach.foldl_parts _ (by intros; rfl) _ _)
theorem Mach.releaseLines_parts (m : Mach) (p : PartId) (v : Nat) (pl : Place) : (m.releaseLines p v pl).parts = m.parts :=
  Mach.foldl_parts _ (by intros; rfl) _ _
theorem Mach.part_of_parts {m n : Mach} (h : n.parts = m.parts) (q : Nat) : n.part q = m.part q := by
  rw [Mach.part, Mach.part, h]

/-! ### The arrays that a load has programmed -/

/-- Array `a` of tile `t` as an erase of the loading service leaves it: EMPTY with its levels gone, or FAILED where it keeps charge
(R69; whether it does is a free value). -/
def Arr.wiped (t a : Nat) (A : Arr) : Prop :=
  ∃ k, A.content = (if Config.eraseFails k t a then .failed else .empty) ∧ (A.content = .empty → A.rows = [])

theorem Arr.wiped_eraseDone (A : Arr) (now k t a : Nat) : (A.eraseDone now (Config.eraseFails k t a)).wiped t a := by
  refine ⟨k, ?_⟩
  unfold Arr.eraseDone
  split
  · exact ⟨rfl, fun h => nomatch h⟩
  · exact ⟨rfl, fun _ => rfl⟩

/-- An array that one of a list of erases reaches, or that was wiped before, is wiped. -/
theorem Tile.wiped_foldl_erase (now k t : Nat) {as : List Nat} {T : Tile} {a : Nat} (h : a ∈ as ∨ (T.arr a).wiped t a) :
    ((as.foldl (fun T a => T.modArr a fun A => A.eraseDone now (Config.eraseFails k t a)) T).arr a).wiped t a := by
  induction as generalizing T with
  | nil => exact h.resolve_left List.not_mem_nil
  | cons b as ih =>
    refine ih ?_
    by_cases hb : a = b
    · subst hb
      refine .inr ?_
      rw [Tile.arr_modArr_listed fun e => by
        have hdue := congrArg Arr.calDue e
        unfold Arr.eraseDone at hdue
        split at hdue <;> cases hdue]
      exact (T.arr a).wiped_eraseDone now k t a
    · rw [Tile.arr_modArr_other hb]
      exact h.imp_left fun hmem => (List.mem_cons.1 hmem).resolve_left hb

/-- The tiles are listed in order and array `x.2` of tile `x.1` is wiped. -/
def Mach.wipedAt (x : Nat × Nat) (m : Mach) : Prop := Map.sortedFrom 0 m.tiles = true ∧ ((m.tile x.1).arr x.2).wiped x.1 x.2

section
variable {m : Mach} {x : Nat × Nat}

theorem Mach.onPart_tiles (m : Mach) (p : PartId) (f : HCtx → Part → PRes) : (m.onPart p f).tiles = m.tiles := by
  obtain ⟨htiles, -⟩ := m.onPart_frame p f
  exact htiles
theorem Mach.tile_onPart (m : Mach) (p : PartId) (f : HCtx → Part → PRes) (t : Nat) : (m.onPart p f).tile t = m.tile t := by
  obtain ⟨-, hpallets, -⟩ := m.onPart_frame p f
  have hzeroed : (m.onPart p f).zeroed = m.zeroed := by
    unfold Mach.onPart
    dsimp only
    rw [Mach.cnt_zeroed, Mach.setPart_zeroed]
  unfold Mach.tile Mach.blankAt Mach.blank
  rw [Mach.onPart_tiles, hpallets, hzeroed]
theorem Mach.sorted_modTile (hs : Map.sortedFrom 0 m.tiles = true) (t : Nat) (f : Tile → Tile) :
    Map.sortedFrom 0 (m.modTile t f).tiles = true := Map.sortedFrom_set hs t
theorem Mach.sorted_endRuns (hs : Map.sortedFrom 0 m.tiles = true) (L : Load) : Map.sortedFrom 0 (m.endRuns L).tiles = true := by
  unfold Mach.endRuns
  generalize L.runs = rs
  induction rs generalizing m with
  | nil => exact hs
  | cons r rs ih => exact ih (Mach.sorted_modTile hs r.tile _)
theorem Mach.wipedAt_onPart (h : m.wipedAt x) (p : PartId) (f : HCtx → Part → PRes) : (m.onPart p f).wipedAt x := by
  rw [Mach.wipedAt, Mach.tile_onPart, Mach.onPart_tiles]
  exact h
theorem Mach.wipedAt_loaderErase (hs : Map.sortedFrom 0 m.tiles = true) {t : Nat} {as : List Nat}
    (h : x.1 = t ∧ x.2 ∈ as ∨ m.wipedAt x) : (m.loaderErase t as).wipedAt x := by
  refine ⟨Map.sortedFrom_set hs t, ?_⟩
  have htile : (m.loaderErase t as).tile x.1 = (m.modTile t fun T =>
    as.foldl (fun T a => T.modArr a fun A => A.eraseDone m.timeUs (Config.eraseFails m.ctr t a)) T).tile x.1 := rfl
  rw [htile, Mach.tile_modTile hs]
  split
  case isTrue hx =>
    subst hx
    exact Tile.wiped_foldl_erase m.timeUs m.ctr x.1 (h.imp And.right And.right)
  case isFalse hx => exact (h.resolve_left fun ht => hx ht.1).2

/-- A change of tiles that leaves their arrays alone. -/
theorem Mach.wipedAt_modTile (h : m.wipedAt x) (t : Nat) {f : Tile → Tile} (hf : ∀ T, (f T).arrs = T.arrs) :
    (m.modTile t f).wipedAt x := by
  obtain ⟨hs, hw⟩ := h
  refine ⟨Map.sortedFrom_set hs t, ?_⟩
  rw [Mach.tile_modTile hs]
  split
  · rw [Tile.arr, hf]
    exact hw
  · exact hw
theorem Mach.wipedAt_releaseLines (h : m.wipedAt x) (p : PartId) (v : Nat) (pl : Place) : (m.releaseLines p v pl).wipedAt x := by
  refine List.foldlRecOn _ _ (motive := fun n : Mach => n.wipedAt x) h fun n hn y _ => Mach.wipedAt_modTile hn y.tile fun T => ?_
  exact List.foldlRecOn _ _ (motive := fun U : Tile => U.arrs = T.arrs) rfl fun _ hU _ _ => hU

theorem Mach.wipedAt_foldl_erase {as : Nat → List Nat} {ts : List Nat} (hs : Map.sortedFrom 0 m.tiles = true) (ha : x.2 ∈ as x.1)
    (h : x.1 ∈ ts ∨ m.wipedAt x) : (ts.foldl (fun m t => m.loaderErase t (as t)) m).wipedAt x := by
  induction ts generalizing m with
  | nil => exact h.resolve_left List.not_mem_nil
  | cons t ts ih =>
    refine ih (Map.sortedFrom_set hs t) ?_
    by_cases ht : x.1 = t
    · exact .inr (Mach.wipedAt_loaderErase hs (.inl ⟨ht, ht ▸ ha⟩))
    · exact (h.imp_left fun hmem => (List.mem_cons.1 hmem).resolve_left ht).imp_right fun hw => Mach.wipedAt_loaderErase hs (.inr hw)
/-- What the load has programmed is erased (R356). -/
theorem Mach.wipedAt_eraseProgrammed (hs : Map.sortedFrom 0 m.tiles = true) {L : Load} (hx : x ∈ L.programmed) :
    (m.eraseProgrammed L).wipedAt x := by
  rw [Mach.eraseProgrammed_eq]
  have harrs : x.2 ∈ L.programmedOf x.1 :=
    List.mem_dedup.2 (List.mem_map.2 ⟨x, List.mem_filter.2 ⟨hx, beq_self_eq_true _⟩, rfl⟩)
  exact Mach.wipedAt_foldl_erase (Mach.sorted_endRuns hs L) harrs (.inl (List.mem_dedup.2 (List.mem_map_of_mem hx)))
end

/-! ### The partition -/

theorem Part.place_modPlace_listed {P : Part} {v : Nat} {f : Place → Place} (h : f (P.place v) ≠ {}) :
    (P.modPlace v f).place v = f (P.place v) := Map.get_set_listed h P.places v

theorem Part.place_of_set {P Q : Part} {v : Nat} {pl : Place} (hs : Map.sortedFrom 0 P.places = true)
    (h : Q.places = Map.set {} P.places v pl) : Q.place v = pl := by
  rw [Part.place, h]
  exact Map.get_set_sorted hs v

/-- The place of a load that has ended with a reason (R356, R373): REGISTERED where its manifest was verified, else EMPTY. -/
def Place.afterFailure (pl : Place) (registerOnly : Bool) : Place :=
  if pl.manifest.isSome && !registerOnly then { state := .registered, manifest := pl.manifest, header := pl.header } else {}
/-- The partition as a load ends with a reason. -/
def Part.loadFails (P : Part) (c : HCtx) (L : Load) (reason : Nat) : PRes :=
  let Q := { P with loadOp := none, places := Map.set {} P.places L.place.val ((P.place L.place.val).afterFailure L.registerOnly) }
  ((Q.setR Reg.LOAD_STATUS_STATE 5).setR Reg.LOAD_STATUS_REASON reason).loadEvt c
    (if L.applied.isEmpty && L.inFlight.isEmpty && L.next = 0 then Reg.LOAD_EVT_REFUSED else Reg.LOAD_EVT_FAILED)

theorem Part.loadFails_eq (P : Part) (c : HCtx) (L : Load) {reason : Nat} (h0 : reason ≠ 0) (hr : reason < 256) : ∃ g os,
    P.loadFails c L reason = ({ P with
        regs := g, loadOp := none
        places := Map.set {} P.places L.place.val ((P.place L.place.val).afterFailure L.registerOnly) }, os)
      ∧ g.get Reg.LOAD_STATUS_STATE = 5 ∧ g.get Reg.LOAD_STATUS_REASON = reason := by
  have hmod : reason % 2 ^ Reg.LOAD_STATUS_REASON.width = reason := Nat.mod_eq_of_lt hr
  have hevent : ∀ e : Fld, e = Reg.LOAD_EVT_REFUSED ∨ e = Reg.LOAD_EVT_FAILED →
      ((((P.regs.set Reg.LOAD_STATUS_STATE 5).set Reg.LOAD_STATUS_REASON reason).set e 1).get Reg.LOAD_STATUS_STATE = 5
        ∧ (((P.regs.set Reg.LOAD_STATUS_STATE 5).set Reg.LOAD_STATUS_REASON reason).set e 1).get Reg.LOAD_STATUS_REASON = reason) := by
    rintro e (rfl | rfl) <;> simp (disch := decide) only [RegFile.get_set_other] <;>
      exact ⟨RegFile.get_set_same (.inr (by decide)), (RegFile.get_set_same (.inr (by rw [hmod]; exact h0))).trans hmod⟩
  refine ⟨_, _, rfl, hevent _ ?_⟩
  split
  · exact .inl rfl
  · exact .inr rfl

section
variable {n : Mach} {p : PartId} {L : Load} (hL : (n.part p.val).loadOp = some L)
include hL

theorem Mach.failLoad_eq (reason : Nat) : n.failLoad p reason
    = (if L.registerOnly then n else (n.eraseProgrammed L).releaseLines p L.place.val ((n.part p.val).place L.place.val)).onPart p
        fun c P => P.loadFails c L reason := by
  simp only [Mach.failLoad, hL]
  rfl

/-- What a load that ends with a reason leaves of the partitions; tiles change as its arrays are erased and its lines released. -/
theorem Mach.failLoad_ends {reason : Nat} (h0 : reason ≠ 0) (hr : reason < 256) : ∃ Q, (n.failLoad p reason).part p.val = Q
    ∧ (∀ q, q ≠ p.val → (n.failLoad p reason).part q = n.part q) ∧ Q.loadOp = none
    ∧ Q.getR Reg.LOAD_STATUS_STATE = 5 ∧ Q.getR Reg.LOAD_STATUS_REASON = reason
    ∧ Q.places = Map.set {} (n.part p.val).places L.place.val (((n.part p.val).place L.place.val).afterFailure L.registerOnly) := by
  rw [Mach.failLoad_eq hL]
  generalize hk : (if L.registerOnly then n else (n.eraseProgrammed L).releaseLines p L.place.val ((n.part p.val).place L.place.val)) = k
  have hparts : ∀ q, k.part q = n.part q := by
    intro q
    rw [← hk]
    split
    · rfl
    · exact Mach.part_of_parts ((Mach.releaseLines_parts _ _ _ _).trans (Mach.eraseProgrammed_parts _ _)) q
  obtain ⟨g, os, hfails, hstate, hreason⟩ := (k.part p.val).loadFails_eq (k.hctx p) L h0 hr
  have hto := (Mach.PartTo.refl k p).onPart (f := fun c P => P.loadFails c L reason) rfl hfails fun e => by
    have hreset := congrArg (fun Q : Part => Q.getR Reg.LOAD_STATUS_STATE) e
    exact absurd (hstate.symm.trans hreset) (by decide)
  refine ⟨_, hto.part, fun q hq => (hto.other q hq).trans (hparts q), rfl, hstate, hreason, ?_⟩
  rw [← hparts]

/-- A registration that ends changes no tile. -/
theorem Mach.failLoad_registration (hreg : L.registerOnly = true) (reason : Nat) : (n.failLoad p reason).tiles = n.tiles := by
  rw [Mach.failLoad_eq hL, if_pos hreg, Mach.onPart_tiles]
theorem Mach.failLoad_wipes (hreg : L.registerOnly = false) (reason : Nat) (hs : Map.sortedFrom 0 n.tiles = true) {x : Nat × Nat}
    (hx : x ∈ L.programmed) : (n.failLoad p reason).wipedAt x := by
  rw [Mach.failLoad_eq hL, if_neg (by rw [hreg]; decide)]
  exact Mach.wipedAt_onPart (Mach.wipedAt_releaseLines (Mach.wipedAt_eraseProgrammed hs hx) p _ _) p _
end

end Sys2Proof.Machine
end

section
/-! O49: REGISTER, LOAD, ABORT and RESUME, and the end of a removal (R339, R340, R356, R365, R368, R373). -/
namespace Sys2Proof.Machine

/-! ### The start of a load -/

/-- The place of a load is LOADING (R340). -/
def Part.markLoading (P : Part) (v : PlaceNo) (registerOnly : Bool) : Part :=
  if registerOnly then P else P.modPlace v.val fun pl => { pl with state := .loading }
/-- The partition as a load of place `v` begins, its place marked already (R340, R356): the registers of the last load start again. -/
def Part.beginLoad (P : Part) (p : PartId) (v : PlaceNo) (registerOnly reload : Bool) : PRes :=
  let L : Load := { place := v, registerOnly := registerOnly, reload := reload }
  let P := { P with loadOp := some L, keys := { P.keys with loads := P.keys.loads + 1 } }
  let P := (((P.setR Reg.LOAD_STATUS_STATE 1).setR Reg.LOAD_STATUS_PLACE v.val).setR Reg.LOAD_STATUS_REASON 0).setR
    Reg.LOAD_DONE_SHARDS_DONE 0
  let P := ((P.setR Reg.LOAD_TOTAL_SHARDS_TOTAL 0).setR Reg.LOAD_FAIL_SHARD_INDEX 0).setR Reg.LOAD_FAIL_HOP 0
  (P.setR Reg.LOAD_FAIL_HOP_ATTEMPTS 0, P.askManifest p)
/-- The partition as a load is refused (R373). -/
def Part.refuseLoad (P : Part) (c : HCtx) (reason : Nat) : PRes :=
  (P.setR Reg.LOAD_STATUS_REASON reason).loadEvt c Reg.LOAD_EVT_REFUSED

theorem Part.beginLoad_eq {P : Part} (hs : P.regsOk) (p : PartId) (v : PlaceNo) (registerOnly reload : Bool) : ∃ g k os,
    P.beginLoad p v registerOnly reload = ({ P with
        regs := g, keys := k, loadOp := some { place := v, registerOnly := registerOnly, reload := reload } }, os)
      ∧ g.get Reg.LOAD_STATUS_STATE = 1 ∧ g.get Reg.LOAD_STATUS_PLACE = v.val
      ∧ (P.fromUp = false → P.flagR Reg.LOAD_SRC_SRC_PE0 = true → ∃ a n, os = [.hostRead (some p) 0 a n]) := by
  refine ⟨_, _, _, rfl, ?_, ?_, fun hup hpe0 => ?_⟩
  · simp (disch := decide) only [Part.setR, RegFile.get_set_other]
    exact RegFile.get_set_same (.inr (by decide))
  · simp (disch := decide) only [Part.setR, RegFile.get_set_other]
    exact (RegFile.get_set_sorted (RegFile.sorted_set hs _ _) _ _).trans (Nat.mod_eq_of_lt v.isLt)
  · unfold Part.askManifest
    rw [if_neg, if_pos]
    · exact ⟨_, _, rfl⟩
    · simp (disch := decide) only [Part.flagR_setR_other]
      exact hpe0
    · simp (disch := decide) only [Part.fromUp, Part.flagR_setR_other, Part.getR_setR_other]
      show ¬P.fromUp = true
      rw [hup]
      decide
theorem Part.refuseLoad_eq (P : Part) (c : HCtx) {reason : Nat} (h0 : reason ≠ 0) (hr : reason < 256) : ∃ g os,
    P.refuseLoad c reason = ({ P with regs := g }, os) ∧ g.get Reg.LOAD_STATUS_REASON = reason ∧ g.get Reg.LOAD_EVT_REFUSED = 1 := by
  have hmod : reason % 2 ^ Reg.LOAD_STATUS_REASON.width = reason := Nat.mod_eq_of_lt hr
  refine ⟨_, _, rfl, ?_, RegFile.get_set_same (.inr (by decide))⟩
  exact (RegFile.get_set_other (by decide) _ 1).trans ((RegFile.get_set_same (.inr (by rw [hmod]; exact h0))).trans hmod)

section
variable {m : Mach} {p : PartId} {v : PlaceNo}
variable (hsealed : (m.part p.val).isSealed = true) (hkeys : (m.part p.val).confidential = true → (m.part p.val).keys.inKey ≠ none)
include hsealed hkeys

theorem Mach.mayLoad : ¬ (!(m.part p.val).isSealed || ((m.part p.val).confidential && (m.part p.val).keys.inKey.isNone)) = true := by
  simpa [hsealed] using hkeys

variable (v) in
theorem Mach.startLoad_busy (hbusy : m.loadBusy p = true) (registerOnly reload : Bool) :
    m.startLoad p v registerOnly reload = m.onPart p fun c P => P.refuseLoad c 0x01 := by
  unfold Mach.startLoad
  dsimp only
  rw [if_neg (Mach.mayLoad hsealed hkeys), if_pos hbusy]
  rfl
variable (v) in
theorem Mach.startLoad_sourceless (hbusy : m.loadBusy p = false) (hsrc : m.sourceBad p = true) (registerOnly reload : Bool) :
    m.startLoad p v registerOnly reload = m.onPart p fun c P => P.refuseLoad c 0x02 := by
  unfold Mach.startLoad
  dsimp only
  rw [if_neg (Mach.mayLoad hsealed hkeys), if_neg (by rw [hbusy]; decide), if_pos hsrc]
  rfl
theorem Mach.startLoad_begins (hbusy : m.loadBusy p = false) (hsrc : m.sourceBad p = false) {registerOnly : Bool}
    (hst : ((m.part p.val).place v.val).state = .empty ∨ ((m.part p.val).place v.val).state = .registered ∧ !registerOnly) (reload : Bool) :
    m.startLoad p v registerOnly reload = m.onPart p fun _ P =>
      (P.markLoading v registerOnly).beginLoad p v registerOnly reload := by
  unfold Mach.startLoad
  dsimp only
  rw [if_neg (Mach.mayLoad hsealed hkeys), if_neg (by rw [hbusy]; decide), if_neg (by rw [hsrc]; decide), if_pos hst]
  rfl
end

/-! ### REGISTER and LOAD -/

section
variable {s : State} {w : Writer} {p : PartId} {v : PlaceNo}

theorem load_unreached (h : s.m.reaches w p.val = false) {c : Instr}
    (hc : c = .register w p v ∨ c = .load w p v ∨ c = .resume w p) : exec c s = .next s := by
  rcases hc with rfl | rfl | rfl
  · show execRegister w p v s = _
    rw [execRegister, lift_next, if_neg (by rw [h]; decide)]
  · show execLoad w p v s = _
    rw [execLoad, lift_next, if_neg (by rw [h]; decide)]
  · show execResume w p s = _
    cases hL : (s.m.part p.val).loadOp <;> simp [execResume, lift_next, hL, h]

variable (hr : s.m.reaches w p.val = true)
include hr

theorem exec_register : exec (.register w p v) s = .next { s with m := s.m.startLoad p v true false } := by
  show execRegister w p v s = _
  rw [execRegister, lift_next, if_pos hr]
theorem exec_load : ∃ reload, exec (.load w p v) s = .next { s with m := s.m.startLoad p v false reload } := by
  refine ⟨(s.m.part p.val).getR Reg.WVER_CFG_WVER_STATE == 2, ?_⟩
  show execLoad w p v s = _
  rw [execLoad, lift_next, if_pos hr]
/-- Both are a start of a load. -/
theorem exec_startLoad {c : Instr} (hc : c = .register w p v ∨ c = .load w p v) : ∃ registerOnly reload,
    exec c s = .next { s with m := s.m.startLoad p v registerOnly reload } := by
  rcases hc with rfl | rfl
  · exact ⟨_, _, exec_register hr⟩
  · obtain ⟨reload, hx⟩ := exec_load hr (v := v)
    exact ⟨_, reload, hx⟩

/-- A load that is refused leaves its reason. -/
theorem load_refused {c : Instr} (hc : c = .register w p v ∨ c = .load w p v) {reason : Nat} (h0 : reason ≠ 0) (h256 : reason < 256)
    (hrefuse : ∀ registerOnly reload, s.m.startLoad p v registerOnly reload = s.m.onPart p fun c P => P.refuseLoad c reason) :
    ∃ s', exec c s = .next s' ∧ (∀ q, q ≠ p.val → s'.m.part q = s.m.part q) ∧ (s'.m.part p.val).loadOp = (s.m.part p.val).loadOp
      ∧ (s'.m.part p.val).getR Reg.LOAD_STATUS_REASON = reason ∧ (s'.m.part p.val).flagR Reg.LOAD_EVT_REFUSED = true
      ∧ s'.m.tiles = s.m.tiles := by
  obtain ⟨registerOnly, reload, hx⟩ := exec_startLoad hr hc
  rw [hrefuse] at hx
  obtain ⟨g, os, heq, hreason, hevt⟩ := (s.m.part p.val).refuseLoad_eq (s.m.hctx p) h0 h256
  have hto := (Mach.PartTo.refl s.m p).onPart (f := fun c P => P.refuseLoad c reason) rfl heq fun e => by
    have hreset := congrArg (fun Q : Part => Q.getR Reg.LOAD_EVT_REFUSED) e
    exact absurd (hevt.symm.trans hreset) (by decide)
  refine ⟨_, hx, hto.other, ?_⟩
  dsimp only
  rw [hto.part]
  exact ⟨rfl, hreason, Part.flagR_iff.2 hevt, hto.tiles⟩

section
variable (hsealed : (s.m.part p.val).isSealed = true)
  (hkeys : (s.m.part p.val).confidential = true → (s.m.part p.val).keys.inKey ≠ none)
include hsealed hkeys

variable (hregs : (s.m.part p.val).regsOk) (hbusy : s.m.loadBusy p = false) (hsrc : s.m.sourceBad p = false)
include hregs hbusy hsrc

theorem register_begins (hst : ((s.m.part p.val).place v.val).state = .empty) :
    ∃ s', exec (.register w p v) s = .next s' ∧ (∀ q, q ≠ p.val → s'.m.part q = s.m.part q)
      ∧ (∃ K, (s'.m.part p.val).loadOp = some K ∧ K.place = v ∧ K.registerOnly = true)
      ∧ ((s'.m.part p.val).place v.val).state = .empty ∧ (s'.m.part p.val).getR Reg.LOAD_STATUS_STATE = 1
      ∧ s'.m.tiles = s.m.tiles := by
  obtain ⟨g, k, os, heq, hstate, -, -⟩ := Part.beginLoad_eq (P := (s.m.part p.val).markLoading v true) hregs p v true false
  have hto := (Mach.PartTo.refl s.m p).onPart_loads (Mach.startLoad_begins hsealed hkeys hbusy hsrc (.inl hst) false) heq rfl
  refine ⟨_, exec_register hr, hto.other, ?_⟩
  dsimp only
  rw [hto.part]
  exact ⟨⟨_, rfl, rfl, rfl⟩, hst, hstate, hto.tiles⟩
theorem load_begins (hst : ((s.m.part p.val).place v.val).state = .empty ∨ ((s.m.part p.val).place v.val).state = .registered) :
    ∃ s', exec (.load w p v) s = .next s' ∧ (∀ q, q ≠ p.val → s'.m.part q = s.m.part q)
      ∧ (∃ K, (s'.m.part p.val).loadOp = some K ∧ K.place = v ∧ K.registerOnly = false ∧ K.applied = [])
      ∧ ((s'.m.part p.val).place v.val).state = .loading ∧ (s'.m.part p.val).getR Reg.LOAD_STATUS_STATE = 1
      ∧ (s'.m.part p.val).getR Reg.LOAD_STATUS_PLACE = v.val ∧ s'.m.tiles = s.m.tiles
      ∧ ((s.m.part p.val).fromUp = false → (s.m.part p.val).flagR Reg.LOAD_SRC_SRC_PE0 = true →
        ∃ a n, Out.hostRead (some p) 0 a n ∈ s'.m.out) := by
  obtain ⟨reload, hx⟩ := exec_load hr (v := v)
  obtain ⟨g, k, os, heq, hstate, hplace, hread⟩ := Part.beginLoad_eq
    (P := (s.m.part p.val).markLoading v false) hregs p v false reload
  have hto := (Mach.PartTo.refl s.m p).onPart_loads (Mach.startLoad_begins hsealed hkeys hbusy hsrc
    (hst.imp_right fun h => ⟨h, rfl⟩) reload) heq rfl
  have hloading : (((s.m.part p.val).markLoading v false).place v.val).state = .loading :=
    congrArg Place.state (Part.place_modPlace_listed fun e => by cases (congrArg Place.state e :))
  refine ⟨_, hx, hto.other, ?_⟩
  dsimp only
  rw [hto.part, hto.out]
  refine ⟨⟨_, rfl, rfl, rfl, rfl⟩, hloading, hstate, hplace, hto.tiles, fun hup hpe0 => ?_⟩
  obtain ⟨a, n, rfl⟩ := hread hup hpe0
  exact ⟨a, n, by simp⟩
end
end

/-! ### ABORT and RESUME -/

/-- The partition as its held load goes on with the shard that failed (R365). -/
def Part.resumeLoad (P : Part) (i : Nat) : Part :=
  (P.modLoad fun L => { L with
    held := false, failedShard := none, failures := Map.set 0 L.failures i 0
    inFlight := if P.fromUp = false ∧ i ≠ manifestIx then L.inFlight ++ [i] else L.inFlight }).setR
      Reg.LOAD_STATUS_STATE (if i = manifestIx then 1 else 2)

theorem Part.resumeLoad_eq {P : Part} {L : Load} (hL : P.loadOp = some L) (i : Nat) : ∃ fl, P.resumeLoad i = { P with
    regs := P.regs.set Reg.LOAD_STATUS_STATE (if i = manifestIx then 1 else 2)
    loadOp := some { L with held := false, failedShard := none, failures := Map.set 0 L.failures i 0, inFlight := fl } } := by
  rw [Part.resumeLoad, Part.modLoad_some hL]
  exact ⟨_, rfl⟩

section
variable {s : State} {w : Writer} {p : PartId} {v : PlaceNo} {L : Load}

theorem abort_unloaded (hL : (s.m.part p.val).loadOp = none) : exec (.abort w p v) s = .next s ∧ exec (.resume w p) s = .next s := by
  constructor
  · show execAbort w p v s = _
    simp only [execAbort, lift_next, hL]
  · show execResume w p s = _
    simp only [execResume, lift_next, hL]

variable (hL : (s.m.part p.val).loadOp = some L)
include hL

theorem abort_other (hv : L.place ≠ v) : exec (.abort w p v) s = .next s := by
  show execAbort w p v s = _
  simp [execAbort, lift_next, hL, hv]
theorem resume_running (hheld : L.held = false) : exec (.resume w p) s = .next s := by
  show execResume w p s = _
  simp [execResume, lift_next, hL, hheld]

variable (hr : s.m.reaches w p.val = true)
include hr

/-- The load ends, after a held module has told the chain. -/
theorem exec_abort (hv : L.place = v) : ∃ os, exec (.abort w p v) s = .next { s with m := (s.m.send os).failLoad p 0x0F } := by
  cases hheld : L.held with
  | true =>
    refine ⟨(s.m.part p.val).relayUp 8 0 (s.m.part p.val).hop, ?_⟩
    show execAbort w p v s = _
    simp [execAbort, lift_next, hL, hv, hr, hheld]
  | false =>
    refine ⟨[], ?_⟩
    show execAbort w p v s = _
    simp [execAbort, lift_next, hL, hv, hr, hheld, Mach.send]

variable (hplaces : Map.sortedFrom 0 (s.m.part p.val).places = true)

include hplaces in
theorem abort_load (hv : L.place = v) (hreg : L.registerOnly = false) (hord : s.m.ordered) :
    ∃ s', exec (.abort w p v) s = .next s' ∧ (∀ q, q ≠ p.val → s'.m.part q = s.m.part q) ∧ (s'.m.part p.val).loadOp = none
      ∧ (s'.m.part p.val).getR Reg.LOAD_STATUS_STATE = 5 ∧ (s'.m.part p.val).getR Reg.LOAD_STATUS_REASON = 0x0F
      ∧ ((s'.m.part p.val).place v.val).state = (if ((s.m.part p.val).place v.val).manifest = none then .empty else .registered)
      ∧ ∀ x ∈ L.programmed, ((s'.m.tile x.1).arr x.2).wiped x.1 x.2 := by
  obtain ⟨os, hx⟩ := exec_abort hL hr hv
  obtain ⟨-, htiles, -⟩ := hord
  obtain ⟨Q, hQ, hother, hload, hstate, hreason, hat⟩ :=
    Mach.failLoad_ends (n := s.m.send os) hL (reason := 0x0F) (by decide) (by decide)
  refine ⟨_, hx, hother, ?_⟩
  dsimp only
  rw [hQ]
  refine ⟨hload, hstate, hreason, ?_, fun x hmem => (Mach.failLoad_wipes (n := s.m.send os) hL hreg 0x0F htiles hmem).2⟩
  have hplace : Q.place v.val = ((s.m.part p.val).place v.val).afterFailure false := by
    rw [hreg, hv] at hat
    exact Part.place_of_set hplaces hat
  rw [hplace, Place.afterFailure]
  cases ((s.m.part p.val).place v.val).manifest <;> rfl
include hplaces in
theorem abort_registration (hv : L.place = v) (hreg : L.registerOnly = true) :
    ∃ s', exec (.abort w p v) s = .next s' ∧ (∀ q, q ≠ p.val → s'.m.part q = s.m.part q) ∧ (s'.m.part p.val).loadOp = none
      ∧ (s'.m.part p.val).place v.val = {} ∧ (s'.m.part p.val).getR Reg.LOAD_STATUS_STATE = 5
      ∧ (s'.m.part p.val).getR Reg.LOAD_STATUS_REASON = 0x0F ∧ s'.m.tiles = s.m.tiles := by
  obtain ⟨os, hx⟩ := exec_abort hL hr hv
  obtain ⟨Q, hQ, hother, hload, hstate, hreason, hat⟩ :=
    Mach.failLoad_ends (n := s.m.send os) hL (reason := 0x0F) (by decide) (by decide)
  refine ⟨_, hx, hother, ?_⟩
  dsimp only
  rw [hQ]
  refine ⟨hload, ?_, hstate, hreason, Mach.failLoad_registration (n := s.m.send os) hL hreg 0x0F⟩
  have hempty : ((s.m.part p.val).place v.val).afterFailure true = {} := by
    rw [Place.afterFailure, Bool.not_true, Bool.and_false]
    rfl
  rw [hreg, hv] at hat
  exact (Part.place_of_set hplaces hat).trans hempty

/-- A held load asks for its failed shard again, whose failures are counted from 0. -/
theorem resume_held {i : Nat} (hheld : L.held = true) (hfailed : L.failedShard = some i)
    (hs : Map.sortedFrom 0 L.failures = true) :
    ∃ s', exec (.resume w p) s = .next s' ∧ (∀ q, q ≠ p.val → s'.m.part q = s.m.part q)
      ∧ (s'.m.part p.val).getR Reg.LOAD_STATUS_STATE = (if i = manifestIx then 1 else 2) ∧ s'.m.tiles = s.m.tiles
      ∧ ∃ K, (s'.m.part p.val).loadOp = some K ∧ K.held = false ∧ K.failedShard = none ∧ Map.get 0 K.failures i = 0
        ∧ K.applied = L.applied := by
  obtain ⟨fl, heq⟩ := Part.resumeLoad_eq hL i
  have hto := ((Mach.PartTo.refl s.m p).modPart (f := fun P => P.resumeLoad i) heq (Part.ne_reset_of_loadOp (P := { s.m.part p.val with
    regs := _, loadOp := some _ }) rfl)).send (s.m.askAgain p L i 7 0)
  have hx : exec (.resume w p) s = .next { s with m := (s.m.modPart p.val fun P => P.resumeLoad i).send (s.m.askAgain p L i 7 0) } := by
    show execResume w p s = _
    simp [execResume, lift_next, hL, hr, hheld, hfailed]
    rfl
  refine ⟨_, hx, hto.other, ?_⟩
  dsimp only
  rw [hto.part]
  have hset (k : Nat) (hk : k = 1 ∨ k = 2) : ((s.m.part p.val).regs.set Reg.LOAD_STATUS_STATE k).get Reg.LOAD_STATUS_STATE = k := by
    rcases hk with rfl | rfl <;> exact RegFile.get_set_same (.inr (by decide))
  refine ⟨hset _ ?_, hto.tiles, _, rfl, rfl, rfl, Map.get_set_sorted (d := 0) (v := 0) hs i, rfl⟩
  split
  · exact .inl rfl
  · exact .inr rfl
end

/-! ### The end of a removal -/

section
variable {s : State} {p : PartId} {v : PlaceNo}

theorem removalDone_ignored (h : ((s.m.part p.val).place v.val).state ≠ .removing) : exec (.removalDone p v) s = .next s := by
  show execRemovalDone p v s = _
  rw [execRemovalDone, lift_next]
  dsimp only
  rw [if_pos h]

/-- The partition as the removal of place `v` ends (R367). -/
def Part.placeRemoved (P : Part) (c : HCtx) (v : PlaceNo) : PRes :=
  let P := P.modPlace v.val fun _ => {}
  (if P.getR Reg.LOAD_STATUS_STATE = 6 then P.setR Reg.LOAD_STATUS_STATE 0 else P).loadEvt c Reg.LOAD_EVT_REMOVED

theorem Part.placeRemoved_eq (P : Part) (c : HCtx) (v : PlaceNo) : ∃ g os,
    P.placeRemoved c v = ({ P with regs := g, places := Map.set {} P.places v.val {} }, os) ∧ g.get Reg.LOAD_EVT_REMOVED = 1 := by
  unfold Part.placeRemoved
  dsimp only
  split <;> exact ⟨_, _, rfl, RegFile.get_set_same (.inr (by decide))⟩

/-- The tiles as the removal of place `v` ends: its arrays are erased and switched off, its lines released. -/
def Mach.clearPlace (m : Mach) (p : PartId) (v : PlaceNo) : Mach :=
  let pl := (m.part p.val).place v.val
  Mach.releaseLines (pl.tiles.foldl (fun m x =>
    let arrs := maskArrs x.arrUse.toNat
    (m.loaderErase x.tile arrs).modTile x.tile fun T => arrs.foldl (fun T a => T.modArr a Arr.switchedOff) T) m) p v.val pl

theorem Mach.clearPlace_parts (m : Mach) (p : PartId) (v : PlaceNo) : (m.clearPlace p v).parts = m.parts :=
  (Mach.releaseLines_parts _ _ _ _).trans (Mach.foldl_parts _ (by intros; rfl) _ _)
theorem exec_removalDone (h : ((s.m.part p.val).place v.val).state = .removing) : exec (.removalDone p v) s
    = .next { s with m := ((s.m.clearPlace p v).onPart p fun c P => P.placeRemoved c v).powerArrays p.val } := by
  show execRemovalDone p v s = _
  rw [execRemovalDone, lift_next]
  dsimp only
  rw [if_neg (fun hne => hne h)]
  rfl
theorem removalDone_ends (h : ((s.m.part p.val).place v.val).state = .removing)
    (hplaces : Map.sortedFrom 0 (s.m.part p.val).places = true) :
    ∃ s', exec (.removalDone p v) s = .next s' ∧ (∀ q, q ≠ p.val → s'.m.part q = s.m.part q)
      ∧ (s'.m.part p.val).place v.val = {} ∧ (s'.m.part p.val).flagR Reg.LOAD_EVT_REMOVED = true := by
  have hx := exec_removalDone h
  have hn := s.m.clearPlace_parts p v
  generalize s.m.clearPlace p v = n at hx hn
  obtain ⟨g, os, heq, hevt⟩ := (n.part p.val).placeRemoved_eq (n.hctx p) v
  have hto := (Mach.PartTo.refl n p).onPart (f := fun c P => P.placeRemoved c v) rfl heq fun e => by
    have hreset := congrArg (fun Q : Part => Q.getR Reg.LOAD_EVT_REMOVED) e
    exact absurd (hevt.symm.trans hreset) (by decide)
  have hparts : ((n.onPart p fun c P => P.placeRemoved c v).powerArrays p.val).parts = (n.onPart p fun c P => P.placeRemoved c v).parts :=
    Mach.parts_modTiles _ _ _
  refine ⟨_, hx, fun q hq => ?_, ?_⟩
  · exact (Mach.part_of_parts hparts q).trans ((hto.other q hq).trans (Mach.part_of_parts hn q))
  · dsimp only
    rw [Mach.part_of_parts hparts, hto.part, Mach.part_of_parts hn]
    exact ⟨Part.place_of_set hplaces rfl, Part.flagR_iff.2 hevt⟩
end

/-! ### The obligation -/

/-- Settles O49: a command that starts, ends or resumes a load changes its partition alone, and the end of a load erases what it has
programmed. -/
theorem loadCommands : Obligations.LoadCommands := by
  unfold Obligations.LoadCommands
  intro s w p v L m P ends
  refine ⟨fun hno c hc => load_unreached hno hc, fun hr hregs hplaces => ⟨fun hsealed hkeys => ⟨fun hbusy hsrc => ⟨?_, ?_⟩,
    fun c hc => ⟨fun hload => ?_, fun hbusy hsrc => ?_⟩⟩, fun hL => ⟨abort_other hL, ?_, abort_registration hL hr hplaces,
      resume_running hL, fun i => resume_held hL hr⟩, abort_unloaded⟩, removalDone_ignored, removalDone_ends⟩
  · exact load_begins hr hsealed hkeys hregs hbusy hsrc
  · exact register_begins hr hsealed hkeys hregs hbusy hsrc
  · have hbusy : m.loadBusy p = true := by rw [Mach.loadBusy, Option.isSome_iff_ne_none.2 hload, Bool.true_or]
    exact load_refused hr hc (by decide) (by decide) (Mach.startLoad_busy v hsealed hkeys hbusy)
  · have hnone : P.loadOp = none := by
      simp only [Mach.loadBusy, Bool.or_eq_false_iff, Option.isSome_eq_false_iff, Option.isNone_iff_eq_none] at hbusy
      exact hbusy.1
    have hrefused := load_refused hr hc (by decide) (by decide) (Mach.startLoad_sourceless v hsealed hkeys hbusy hsrc)
    rw [hnone] at hrefused
    exact hrefused
  · exact fun hv hreg hord => abort_load hL hr hplaces hv hreg hord

end Sys2Proof.Machine
end

section
/-! The shards of a load that does not forward them: those that arrive, those that fail, and the next one asked for (R344, R345, R355,
R364, R365, R395). -/
namespace Sys2Proof.Machine

/-! ### The shard store (R355) -/

/-- Partitions that are as they were hold as much of the store. -/
theorem Mach.storeUsed_congr {m n : Mach} (h : ∀ q, n.part q = m.part q) (p : Nat) :
    n.storeUsed p = m.storeUsed p ∧ n.storeRoom p = m.storeRoom p := by
  simp only [Mach.storeUsed, Mach.storeRoom, Mach.sealedParts, h, true_and]

/-! ### Shards that fail -/

/-- One failure: counted, with the shard asked for again, or at the eighth the load held. -/
theorem Mach.PartTo.shardFailed_counts {m n : Mach} {p : PartId} {P : Part} {L : Load} {os : List Out} (h : m.PartTo p P os n)
    (hL : P.loadOp = some L) (i reason : Nat) : ∃ Q xs, m.PartTo p Q xs (n.shardFailed p i reason)
      ∧ Q.flagR Reg.LOAD_EVT_SHARD_RETRY = true ∧ ∃ K, Q.loadOp = some K ∧ K.applied = L.applied
        ∧ Map.get 0 K.failures i = Map.get 0 L.failures i + 1
        ∧ (Map.get 0 L.failures i < 7 → K.held = L.held ∧ Q.getR Reg.LOAD_STATUS_STATE = P.getR Reg.LOAD_STATUS_STATE)
        ∧ (7 ≤ Map.get 0 L.failures i → K.held = true ∧ K.failedShard = some i ∧ Q.getR Reg.LOAD_STATUS_STATE = 4
          ∧ Q.getR Reg.LOAD_STATUS_REASON = 0x0D) := by
  have hcount : Map.get 0 (Map.set 0 L.failures i (Map.get 0 L.failures i + 1)) i = Map.get 0 L.failures i + 1 :=
    Map.get_set_listed (Nat.succ_ne_zero _) _ _
  by_cases hlt : Map.get 0 L.failures i + 1 < 8
  · obtain ⟨Q, xs, fl, hto, hK, hevt, hstate⟩ := h.shardFailed_again hL i reason hlt
    exact ⟨Q, _, hto, hevt, _, hK, rfl, hcount, fun _ => ⟨rfl, hstate⟩, fun h7 => absurd hlt (by omega)⟩
  · obtain ⟨Q, xs, fl, hto, hK, hevt, hstate, hreason⟩ := h.shardFailed_holds hL i reason hlt
    exact ⟨Q, _, hto, hevt, _, hK, rfl, hcount, fun h7 => absurd h7 (by omega), fun _ => ⟨rfl, rfl, hstate, hreason⟩⟩

/-- Command `c` is one more failure of shard `i` of load `L`: the shard is asked for again, and the eighth failure holds the load. -/
def Load.retriedBy (L : Load) (s : State) (p : PartId) (c : Instr) (i : Nat) : Prop :=
  ∃ s', exec c s = .next s' ∧ (∀ q, q ≠ p.val → s'.m.part q = s.m.part q) ∧ s'.m.tiles = s.m.tiles
    ∧ (s'.m.part p.val).flagR Reg.LOAD_EVT_SHARD_RETRY = true
    ∧ ∃ K, (s'.m.part p.val).loadOp = some K ∧ K.applied = L.applied ∧ Map.get 0 K.failures i = Map.get 0 L.failures i + 1
      ∧ (Map.get 0 L.failures i < 7 → K.held = L.held
        ∧ (s'.m.part p.val).getR Reg.LOAD_STATUS_STATE = (s.m.part p.val).getR Reg.LOAD_STATUS_STATE)
      ∧ (7 ≤ Map.get 0 L.failures i → K.held = true ∧ K.failedShard = some i
        ∧ (s'.m.part p.val).getR Reg.LOAD_STATUS_STATE = 4 ∧ (s'.m.part p.val).getR Reg.LOAD_STATUS_REASON = 0x0D)

/-- A command whose whole effect is the failure of a shard. -/
theorem shard_retried {s : State} {p : PartId} {P : Part} {L : Load} {n : Mach} {c : Instr} {os : List Out} {i reason : Nat}
    (hto : s.m.PartTo p P os n) (hL : P.loadOp = some L)
    (hstate : P.getR Reg.LOAD_STATUS_STATE = (s.m.part p.val).getR Reg.LOAD_STATUS_STATE)
    (hx : exec c s = .next { s with m := n.shardFailed p i reason }) : L.retriedBy s p c i := by
  obtain ⟨Q, xs, hto', hrest⟩ := hto.shardFailed_counts hL i reason
  rw [hstate] at hrest
  refine ⟨_, hx, hto'.other, hto'.tiles, ?_⟩
  dsimp only
  rw [hto'.part]
  exact hrest

/-! ### Envelopes of a load (R393 to R395) -/

/-- Image keys stand when an envelope is read. -/
theorem Part.image_openEnv (P : Part) (env : Option Envelope) (cls idx seq len : Nat) :
    (P.openEnv env cls idx seq len).1.keys.image = P.keys.image := by
  unfold Part.openEnv
  split
  · rfl
  cases env with
  | none => rfl
  | some e =>
    dsimp only
    split
    · split <;> rfl
    · rfl

section
variable (P : Part) (env : Option Envelope) (cls idx seq len : Nat)

theorem Part.loadOp_openEnv : (P.openEnv env cls idx seq len).1.loadOp = P.loadOp := by
  obtain ⟨g, k, h⟩ := P.openEnv_eq env cls idx seq len
  rw [h]
end

section
variable {m : Mach} {p : PartId} {L : Load} (hL : (m.part p.val).loadOp = some L) (env : Option Envelope) (cls idx seq len : Nat)
include hL

theorem Mach.PartTo.openEnv : m.PartTo p ((m.part p.val).openEnv env cls idx seq len).1 []
    (m.setPart p.val ((m.part p.val).openEnv env cls idx seq len).1) :=
  (Mach.PartTo.refl m p).setPart (Part.ne_reset_of_loadOp ((Part.loadOp_openEnv _ env cls idx seq len).trans hL))
/-- One that opens leaves all but the keys, and of these the image keys. -/
theorem Mach.PartTo.openEnv_opens (ho : ((m.part p.val).openEnv env cls idx seq len).2 = true) : ∃ k : Keys,
    k.image = (m.part p.val).keys.image ∧ m.PartTo p { m.part p.val with keys := k } []
      (m.setPart p.val ((m.part p.val).openEnv env cls idx seq len).1) := by
  have himage := (m.part p.val).image_openEnv env cls idx seq len
  have hto := Mach.PartTo.openEnv hL env cls idx seq len
  rcases (m.part p.val).openEnv_cases env cls idx seq len with ⟨k, hopen⟩ | hopen
  · rw [hopen] at himage hto ⊢
    exact ⟨k, himage, hto⟩
  · rw [hopen] at ho
    cases ho
end

/-- The failure of a shard or manifest whose envelope has been read. -/
theorem envelope_retried {s : State} {p : PartId} {L : Load} (hL : (s.m.part p.val).loadOp = some L) {env : Option Envelope}
    {cls idx seq len i reason : Nat} {c : Instr} (hx : exec c s = .next { s with m :=
      (s.m.setPart p.val ((s.m.part p.val).openEnv env cls idx seq len).1).shardFailed p i reason }) : L.retriedBy s p c i :=
  shard_retried (Mach.PartTo.openEnv hL env cls idx seq len) ((Part.loadOp_openEnv _ env cls idx seq len).trans hL)
    (Part.getR_openEnv _ env cls idx seq len (by decide) (by decide)) hx

/-! ### SHARD_ARRIVAL -/

/-- The envelope of shard `i` opened (R393). -/
def Part.openShard (P : Part) (L : Load) (env : Option Envelope) (i len : Nat) : Part × Bool :=
  P.openEnv env 0x07 L.place.val (P.keys.loads * 2 ^ 32 + i) len

section
variable {s : State} {p : PartId} {L : Load} {mf : Manifest} {bs : List Byte} {i : Nat} {e : ShardEnt} {env : Option Envelope}
variable (hL : (s.m.part p.val).loadOp = some L)
include hL

theorem shardArrival_unasked (hi : i ∉ L.inFlight) : exec (.shardArrival p i bs true env) s = .next s := by
  show execShardArrival p i bs true env s = _
  simp [execShardArrival, lift_next, hL, hi]

variable (hi : i ∈ L.inFlight) (hmf : (s.m.part p.val).loadManifest L = some mf) (he : mf.shards[i]? = some e)
include hi hmf he

/-- What the load does with a shard that it has asked for. -/
theorem exec_shardArrival (ok : Bool) : exec (.shardArrival p i bs ok env) s =
    (let o := (s.m.part p.val).openShard L env i e.len
    .next { s with m := if o.2 && ok && bs.length == e.len then (s.m.setPart p.val o.1).takeShard p i bs
      else (s.m.setPart p.val o.1).shardFailed p i 1 }) := by
  show execShardArrival p i bs ok env s = _
  have hin : L.inFlight.contains i = true := List.contains_iff_mem.2 hi
  simp only [execShardArrival, lift_next, hL, hin, hmf, Option.bind_some, he, Option.map_some, Option.getD_some, Bool.not_true,
    Bool.false_eq_true, if_false]
  rfl

/-- One without its digest, of another length, or whose envelope does not open, is read again. -/
theorem shardArrival_retried {ok : Bool}
    (hbad : ((s.m.part p.val).openShard L env i e.len).2 = false ∨ ok = false ∨ bs.length ≠ e.len) :
    exec (.shardArrival p i bs ok env) s = .next { s with m :=
      (s.m.setPart p.val ((s.m.part p.val).openShard L env i e.len).1).shardFailed p i 1 } := by
  have hfail : (((s.m.part p.val).openShard L env i e.len).2 && ok && bs.length == e.len) = false := by
    rcases hbad with hbad | hbad | hbad <;> simp [hbad]
  rw [exec_shardArrival hL hi hmf he]
  dsimp only
  rw [hfail]
  rfl
/-- One that is whole is kept. -/
theorem shardArrival_whole
    (ho : ((s.m.part p.val).openShard L env i e.len).2 = true)
    (hlen : bs.length = e.len) : ∃ k n, s.m.PartTo p { s.m.part p.val with keys := k } [] n
      ∧ exec (.shardArrival p i bs true env) s = .next { s with m := n.takeShard p i bs } := by
  obtain ⟨k, -, hto⟩ := Mach.PartTo.openEnv_opens hL env _ _ _ _ ho
  have hx := exec_shardArrival hL hi hmf he (bs := bs) (env := env) true
  dsimp only at hx
  rw [ho, if_pos (by simp [hlen])] at hx
  exact ⟨k, _, hto, hx⟩
end

/-! ### A KV_SCALE shard applied in its turn (R345, R347) -/

/-- The place once the scales of shard `bs` are noted in its leaf digest. -/
def Place.noteScale (bs : List Byte) (pl : Place) : Place :=
  { pl with leafDigest := pl.leafDigest * 2 ^ (8 * bs.length) + leNat bs }
/-- The load once shard `i`, of contents `h`, is applied; it still keeps the shards that pass `q`. -/
def Load.applying (L : Load) (i : Nat) (h : Shard) (q : Nat × List Byte → Bool) : Load :=
  { L with applied := L.applied ++ [i], seen := L.seen ++ seenOf h, keptShards := L.keptShards.filter q }
/-- The partition once shard `i`, of contents `h`, is applied, the `k`-th of its load. -/
def Part.noteApplied (P : Part) (i k : Nat) (h : Shard) : Part :=
  ((P.modLoad fun L => { L with applied := L.applied ++ [i], seen := L.seen ++ seenOf h }).setR
    Reg.LOAD_DONE_SHARDS_DONE k).releaseShards

theorem Part.noteApplied_def (P : Part) (i k : Nat) (h : Shard) : P.noteApplied i k h
    = ((P.modLoad fun L => { L with applied := L.applied ++ [i], seen := L.seen ++ seenOf h }).setR
      Reg.LOAD_DONE_SHARDS_DONE k).releaseShards := rfl
theorem Part.noteApplied_eq {P : Part} {L : Load} {mf : Manifest} (hL : P.loadOp = some L) (hmf : P.loadManifest L = some mf)
    (i k : Nat) (h : Shard) : ∃ q, P.noteApplied i k h =
      { P with regs := P.regs.set Reg.LOAD_DONE_SHARDS_DONE k, loadOp := some (L.applying i h q) } := by
  unfold Part.noteApplied
  rw [Part.modLoad_some hL]
  exact Part.releaseShards_eq (P := { P with regs := _, loadOp := some _ }) rfl hmf

/-- Own shards go by the hop of the module. -/
theorem Part.ownIdx_congr {P Q : Part} (h : Q.hop = P.hop) (mf : Manifest) : Q.ownIdx mf = P.ownIdx mf := by
  have hown : Q.ownShard = P.ownShard := funext fun e => by rw [Part.ownShard, Part.ownShard, h]
  rw [Part.ownIdx, Part.ownIdx, hown]
theorem Part.noteApplied_awaits {P : Part} {L : Load} {mf : Manifest} {i k : Nat}
    (ha : P.awaits { L with applied := L.applied ++ [i] } mf k) (h : Shard) (q : Nat × List Byte → Bool) (v : Nat) :
    ({ P with regs := P.regs.set Reg.LOAD_DONE_SHARDS_DONE v, loadOp := some (L.applying i h q) } : Part).awaits
      (L.applying i h q) mf k := by
  obtain ⟨hmf, hnext, hkept, hrest⟩ := ha
  refine ⟨hmf, ?_, Map.find_filter_none hkept q, hrest⟩
  refine (congrArg (List.find? _) (Part.ownIdx_congr ?_ mf)).trans hnext
  exact RegFile.get_set_other (by decide) P.regs v

theorem parseShard_kind {i kind : Nat} {bs : List Byte} {h : Shard} (hp : parseShard i kind bs = some h) : h.kind = kind := by
  simp only [parseShard, Option.ite_none_right_eq_some] at hp
  obtain ⟨-, hsome⟩ := hp
  exact (congrArg Shard.kind (Option.some.inj hsome)).symm

section
variable {n : Mach} {p : PartId} {L : Load} {i : Nat}

/-- Scales of the right number are only noted. -/
theorem Mach.applyShard_scale {bs : List Byte} {h : Shard} (hp : parseShard i 9 bs = some h) (ho : orderOk L.seen h = true)
    (hlen : h.payload.length = 8 * ((n.part p.val).loadHeader L).layers * ((n.part p.val).loadHeader L).kvHeads) :
    n.applyShard p L i 9 bs = .done (n.modPart p.val fun P => P.modPlace L.place.val (Place.noteScale bs)) := by
  have hkind := parseShard_kind hp
  have hmap : n.applyMap p L h bs = .done (n.modPart p.val fun P => P.modPlace L.place.val (Place.noteScale bs)) := by
    simp [Mach.applyMap, mapOk, hkind, hlen]
    rfl
  simp [Mach.applyShard, hp, ho, hmap]

/-- The load goes on while an own shard is not applied. -/
theorem Mach.endLoad_goesOn {mf : Manifest} {k : Nat} (ha : (n.part p.val).awaits L mf k) : n.endLoad p L mf = n := by
  obtain ⟨-, hnext, -, hheld, -, hstaged, hreg⟩ := ha
  have hall : (((n.part p.val).ownIdx mf).all fun i => L.applied.contains i) = false :=
    List.all_eq_false.2 ⟨k, List.mem_of_find?_eq_some hnext, by simpa using List.find?_some hnext⟩
  simp only [Mach.endLoad, Part.loadEnds, hreg, hstaged, hheld, hall, Bool.or_self, Bool.false_and, Bool.not_false,
    Bool.false_eq_true, if_false, if_true]
end

section
variable {m n : Mach} {p : PartId} {P : Part} {L : Load} {mf : Manifest} {os : List Out} {i k : Nat} {bs : List Byte} {e : ShardEnt}
  {h : Shard} {f : Place → Place}

/-- A shard applied in its turn that changes its place alone, the next one not yet here. -/
theorem Mach.PartTo.pump_applies (hto : m.PartTo p P os n) (hL : P.loadOp = some L)
    (hnext : (P.ownIdx mf).find? (fun x => !L.applied.contains x) = some i) (hkept : Map.find L.keptShards i = some bs)
    (he : mf.shards[i]? = some e) (hparse : parseShard i e.kind.toNat bs = some h)
    (happly : n.applyShard p L i e.kind.toNat bs = .done (n.modPart p.val fun P => P.modPlace L.place.val f))
    (hf : ∀ pl, (f pl).manifest = pl.manifest) (ha : P.awaits { L with applied := L.applied ++ [i] } mf k) (fuel : Nat) :
    ∃ Q q, Q.loadOp = some (L.applying i h q) ∧ m.PartTo p Q os (n.pump p (fuel + 1)) := by
  obtain ⟨hmf, hnext', hkept', hheld, hdue, hstaged, hreg⟩ := ha
  have hmanifest : (f (P.place L.place.val)).manifest = some mf := (hf _).trans hmf
  have hmf1 : (P.modPlace L.place.val f).loadManifest L = some mf := by
    rw [Part.loadManifest, Part.place_modPlace_listed fun e => by rw [e] at hmanifest; cases hmanifest]
    exact hmanifest
  obtain ⟨q, hq⟩ := Part.noteApplied_eq (P := P.modPlace L.place.val f) hL hmf1 i (L.applied.length + 1) h
  have hto1 := hto.modPart (f := fun P => P.modPlace L.place.val f) rfl (Part.ne_reset_of_loadOp (P := P.modPlace _ _) hL)
  have hto2 := hto1.modPart (f := fun P => P.noteApplied i (L.applied.length + 1) h) hq
    (Part.ne_reset_of_loadOp (P := { P.modPlace _ _ with regs := _, loadOp := some _ }) rfl)
  have hawaits := Part.noteApplied_awaits (P := P.modPlace L.place.val f) ⟨hmf1, hnext', hkept', hheld, hdue, hstaged, hreg⟩ h q
    (L.applied.length + 1)
  have hn : n.pump p (fuel + 1) = (n.modPart p.val fun P => P.modPlace L.place.val f).modPart p.val
      fun P => P.noteApplied i (L.applied.length + 1) h := by
    generalize hn1 : n.modPart p.val (fun P => P.modPlace L.place.val f) = n1 at happly hto1 hto2 ⊢
    have hpart := hto2.part
    have hmf' : P.loadManifest L = some mf := hmf
    simp only at hheld hdue hstaged
    simp only [Mach.pump, hto.part, hL, hmf', hheld, hdue, hstaged, hnext, hkept, he, happly, hparse, Option.getD_some,
      Bool.or_self, Bool.false_eq_true, if_false, ← Part.noteApplied_def, hpart]
    rw [Mach.endLoad_goesOn (hpart ▸ hawaits)]
    exact Mach.pump_awaits (by rw [hpart]) (hpart ▸ hawaits) fuel
  rw [hn]
  exact ⟨_, q, rfl, hto2⟩
end

/-! ### SHARD_ARRIVAL in the turn of the shard, and out of it -/

section
variable {s : State} {p : PartId} {L : Load} {mf : Manifest} {bs : List Byte} {i j : Nat} {e : ShardEnt} {env : Option Envelope}
variable (hL : (s.m.part p.val).loadOp = some L) (ha : (s.m.part p.val).awaits L mf j) (hi : i ∈ L.inFlight)
  (he : mf.shards[i]? = some e)
  (ho : ((s.m.part p.val).openShard L env i e.len).2 = true)
  (hlen : bs.length = e.len) (hf : L.forward = [])
include hL ha hi he ho hlen hf

theorem shardArrival_waits (hij : i ≠ j) :
    ∃ s', exec (.shardArrival p i bs true env) s = .next s' ∧ (∀ q, q ≠ p.val → s'.m.part q = s.m.part q) ∧ s'.m.tiles = s.m.tiles
      ∧ ∃ K, (s'.m.part p.val).loadOp = some K ∧ Map.find K.keptShards i = some bs ∧ K.inFlight = L.inFlight.erase i
        ∧ K.applied = L.applied := by
  obtain ⟨k, n, hto, hx⟩ := shardArrival_whole hL hi ha.1 he ho hlen
  have hkeep := hto.takeShard_waits hL hf ha hij bs
  refine ⟨_, hx, hkeep.other, hkeep.tiles, ?_⟩
  dsimp only
  rw [hkeep.part]
  exact ⟨_, rfl, Map.find_insert_same _ _ _, rfl, rfl⟩

/-- The scales that the load awaits are applied at once, when the shard after them is not here yet. -/
theorem shardArrival_applies {h : Shard} {k : Nat} (hij : i = j) (hkind : e.kind = 9) (hparse : parseShard i 9 bs = some h)
    (horder : orderOk L.seen h = true) (hscales : h.payload.length
      = 8 * ((s.m.part p.val).loadHeader L).layers * ((s.m.part p.val).loadHeader L).kvHeads)
    (hnext : ((s.m.part p.val).ownIdx mf).find? (fun x => !(L.applied ++ [i]).contains x) = some k) (hki : k ≠ i)
    (hkept : Map.find L.keptShards k = none) :
    ∃ s', exec (.shardArrival p i bs true env) s = .next s' ∧ (∀ q, q ≠ p.val → s'.m.part q = s.m.part q) ∧ s'.m.tiles = s.m.tiles
      ∧ ∃ K, (s'.m.part p.val).loadOp = some K ∧ K.applied = L.applied ++ [i] := by
  subst hij
  obtain ⟨hmf, hturn, -, hrest⟩ := ha
  obtain ⟨keys, n, hto, hx⟩ := shardArrival_whole hL hi hmf he ho hlen
  obtain ⟨n', hto', htake⟩ := hto.takeShard hL hf i bs
  have hkept' : Map.find (L.taking i bs).keptShards k = none := (Map.find_insert_other hki _ _).trans hkept
  have hscales' : h.payload.length = 8 * ((n'.part p.val).loadHeader (L.taking i bs)).layers
      * ((n'.part p.val).loadHeader (L.taking i bs)).kvHeads := by
    rw [hto'.part]
    exact hscales
  have hkind' : e.kind.toNat = 9 := by rw [hkind]; rfl
  obtain ⟨Q, q, hQ, hdone⟩ := hto'.pump_applies (f := Place.noteScale bs) (h := h) (k := k) rfl hturn (Map.find_insert_same _ _ _) he
    (hkind'.symm ▸ hparse) (hkind'.symm ▸ Mach.applyShard_scale hparse horder hscales') (fun _ => rfl) ⟨hmf, hnext, hkept', hrest⟩ 4095
  rw [htake] at hx
  refine ⟨_, hx, hdone.other, hdone.tiles, ?_⟩
  dsimp only
  rw [hdone.part]
  exact ⟨_, hQ, rfl⟩
end

/-! ### SHARD_MISSING_TIMEOUT -/

theorem Part.fromUp_first {P : Part} (h : P.hop = 0) : P.fromUp = false := by
  have hhop : P.getR Reg.RELAY_CFG_HOP = 0 := h
  rw [Part.fromUp, hhop]
  rfl

section
variable {s : State} {p : PartId} {L : Load} {mf : Manifest} {i : Nat} {e : ShardEnt}

theorem load_commands_unloaded (hL : (s.m.part p.val).loadOp = none) (r : ManifestRead) (sig : Bool) (dg : BitVec 512) :
    exec (.manifestVerified p r sig dg) s = .next s ∧ exec (.shardMissingTimeout p i) s = .next s := by
  constructor
  · show execManifestVerified p r sig dg s = _
    simp only [execManifestVerified, lift_next, hL]
  · show execShardMissingTimeout p i s = _
    simp only [execShardMissingTimeout, lift_next, hL]

theorem shardMissingTimeout_fails (hL : (s.m.part p.val).loadOp = some L) (hmf : (s.m.part p.val).loadManifest L = some mf)
    (hstate : (s.m.part p.val).getR Reg.LOAD_STATUS_STATE ≠ 1) (hheld : L.held = false) (hup : L.heldUp = false)
    (he : mf.shards[i]? = some e) (hown : (s.m.part p.val).ownShard e = true) (hkept : Map.find L.keptShards i = none)
    (happlied : i ∉ L.applied) (hi : i ∈ L.inFlight) :
    exec (.shardMissingTimeout p i) s = .next { s with m := s.m.shardFailed p i 2 } := by
  have hwant : i ∈ (s.m.part p.val).takenIdx L mf :=
    mem_shardIdx (q := fun e => (s.m.part p.val).ownShard e || L.forwards e) he (by rw [hown]; rfl)
  show execShardMissingTimeout p i s = _
  simp [execShardMissingTimeout, lift_next, hL, hmf, hstate, hheld, hup, hwant, hkept, happlied, hi]
end

/-! ### LOADER_SHARD_FETCH (R355) -/

/-- The load once it has asked for shard `i`. -/
def Load.asking (L : Load) (i : Nat) : Load := { L with next := i + 1, inFlight := L.inFlight ++ [i] }

/-- The one named port that is up supplies every shard. -/
theorem Mach.shardPort_first {n : Mach} {p : Nat} (h0 : (n.part p).flagR Reg.LOAD_SRC_SRC_PE0 = true)
    (h1 : (n.part p).flagR Reg.LOAD_SRC_SRC_PE1 = false) (hport : (n.hostPort 0).up = true) (i : Nat) : n.shardPort p i = some 0 := by
  simp [Mach.shardPort, h0, h1, hport]
theorem Mach.readShard_first {n : Mach} {p : PartId} {i : Nat} (hport : n.shardPort p.val i = some 0) (e : ShardEnt) :
    ∃ a, n.readShard p i e = [.hostRead (some p) 0 a (e.len + if (n.part p.val).confidential then 32 else 0)] := by
  simp only [Mach.readShard, hport]
  split
  · exact ⟨_, rfl⟩
  · exact ⟨_, rfl⟩

section
variable {m n : Mach} {p : PartId} {P : Part} {L : Load} {mf : Manifest} {os : List Out} {i j : Nat} {e : ShardEnt}

theorem Mach.PartTo.askShard (hto : m.PartTo p P os n) (hL : P.loadOp = some L) (ha : P.awaits L mf j)
    (hstate : P.getR Reg.LOAD_STATUS_STATE ≠ 1) (hup : P.fromUp = false)
    (hwant : (P.takenIdx L mf).find? (fun k => decide (L.next ≤ k)) = some i) (he : mf.shards[i]? = some e)
    (hport : n.shardPort p.val i = some 0) (hroom : n.storeUsed p.val + e.len ≤ n.storeRoom p.val) :
    m.PartTo p { P with loadOp := some (L.asking i) } (os ++ n.readShard p i e) (n.askShard p) := by
  obtain ⟨hmf, -, -, hheld, -, -, hreg⟩ := ha
  have hask := (hto.modLoad hL fun L => L.asking i).send (n.readShard p i e)
  have hn : n.askShard p = (n.modPart p.val fun P => P.modLoad fun L => L.asking i).send (n.readShard p i e) := by
    simp [Mach.askShard, hto.part, hL, hmf, hreg, hstate, hheld, hup, hwant, he, hport, Nat.not_lt.2 hroom]
    rfl
  rw [hn]
  exact hask

/-- With no run open, nothing is fed to the arrays. -/
theorem Mach.feedLoad_rests (hL : (m.part p.val).loadOp = some L) (ha : (m.part p.val).awaits L mf j) (hruns : L.runs = []) :
    m.PartTo p (m.part p.val) [] (m.feedLoad p) := by
  have hsame : ({ m.part p.val with loadOp := some { L with runs := [] } } : Part) = m.part p.val := by
    rw [← hruns, ← hL]
  have hto := (Mach.PartTo.refl m p).modLoad hL fun L => { L with runs := [] }
  have hfeed : m.feedLoad p = (m.modPart p.val fun P => P.modLoad fun L => { L with runs := [] }).pump p 4096 := by
    simp only [Mach.feedLoad, hL, hruns, List.foldl_nil]
  rw [hsame] at hto
  rw [hfeed, hto.pump_awaits hL ha]
  exact hto
end

section
variable {s : State} {p : PartId} {L : Load} {mf : Manifest} {i j : Nat} {e : ShardEnt}

theorem loaderShardFetch_asks (hL : (s.m.part p.val).loadOp = some L) (ha : (s.m.part p.val).awaits L mf j)
    (hstate : (s.m.part p.val).getR Reg.LOAD_STATUS_STATE ≠ 1) (hhop : (s.m.part p.val).hop = 0)
    (h0 : (s.m.part p.val).flagR Reg.LOAD_SRC_SRC_PE0 = true) (h1 : (s.m.part p.val).flagR Reg.LOAD_SRC_SRC_PE1 = false)
    (hruns : L.runs = []) (hwant : ((s.m.part p.val).takenIdx L mf).find? (fun k => decide (L.next ≤ k)) = some i)
    (he : mf.shards[i]? = some e) (hport : (s.m.hostPort 0).up = true) (hroom : s.m.storeUsed p.val + e.len ≤ s.m.storeRoom p.val)
    (hovf : ∀ x ∈ (s.m.part p.val).residentPlaces, (x.2.header.any fun h => h.overflow) = false) :
    ∃ s', exec (.loaderShardFetch p) s = .next s' ∧ (∀ q, q ≠ p.val → s'.m.part q = s.m.part q) ∧ s'.m.tiles = s.m.tiles
      ∧ (∃ K, (s'.m.part p.val).loadOp = some K ∧ K.inFlight = L.inFlight ++ [i] ∧ K.next = i + 1 ∧ K.applied = L.applied)
      ∧ ∃ a, Out.hostRead (some p) 0 a (e.len + if (s.m.part p.val).confidential then 32 else 0) ∈ s'.m.out := by
  have hfed := Mach.feedLoad_rests hL ha hruns
  have hidle : (s.m.feedLoad p).feedOverflow p = s.m.feedLoad p := Mach.feedOverflow_idle (by rw [hfed.part]; exact hovf)
  have hx : exec (.loaderShardFetch p) s = .next { s with m := ((s.m.feedLoad p).feedOverflow p).askShard p } := rfl
  rw [hidle] at hx
  generalize s.m.feedLoad p = n at hfed hx
  have hsame : ∀ q, n.part q = s.m.part q := fun q => by
    by_cases hq : q = p.val
    · rw [hq, hfed.part]
    · exact hfed.other q hq
  obtain ⟨hused, hfree⟩ := Mach.storeUsed_congr hsame p.val
  have hshard : n.shardPort p.val i = some 0 := Mach.shardPort_first (by rw [hfed.part]; exact h0) (by rw [hfed.part]; exact h1)
    (by rw [Mach.hostPort, hfed.ports]; exact hport) i
  have hask := hfed.askShard hL ha hstate (Part.fromUp_first hhop) hwant he hshard (by rw [hused, hfree]; exact hroom)
  obtain ⟨a, hread⟩ := Mach.readShard_first hshard e
  rw [hread, hfed.part] at hask
  refine ⟨_, hx, hask.other, hask.tiles, ?_⟩
  dsimp only
  rw [hask.part, hask.out]
  exact ⟨⟨_, rfl, rfl, rfl, rfl⟩, a, by simp⟩
end
end Sys2Proof.Machine
end

section
/-! O50: the manifest of a load (R341 to R343, R356, R373, R395), and the obligation. -/
namespace Sys2Proof.Machine

/-! ### MANIFEST_VERIFIED (R341 to R343, R356) -/

/-- The shards stand in order of their offsets, as a CONFIDENTIAL partition has them. -/
def Manifest.rising (mf : Manifest) : Bool :=
  ((mf.shards.map (·.off)).zip ((mf.shards.map (·.off)).drop 1)).all fun x => decide (x.1 < x.2)
/-- A key of the partition that may sign the manifest. -/
def Part.signs (P : Part) (mf : Manifest) : Prop := ∃ x ∈ P.keys.image, ∃ k, x.2 = some k ∧ k.id = mf.keyId
/-- The envelope of the manifest opened (R393). -/
def Part.openManifest (P : Part) (L : Load) (env : Option Envelope) : Part × Bool :=
  P.openEnv env 0x06 L.place.val (P.keys.loads * 2 ^ 32 + manifestIx) (P.getR Reg.MANIFEST_LEN)
/-- The load of a refused manifest ends with its reason. -/
def Mach.refuseManifest (m : Mach) (p : PartId) (L : Load) (reason : Nat) : Mach :=
  (m.modPart p.val fun P => P.modPlace L.place.val fun pl => { pl with manifest := none }).failLoad p reason
def Place.withManifest (mf : Manifest) (pl : Place) : Place := { pl with manifest := some mf }
/-- The manifest kept, its shards counted; none of them goes to a module below. -/
def Part.keepManifest (P : Part) (L : Load) (mf : Manifest) : Part :=
  (((P.modPlace L.place.val (Place.withManifest mf)).modLoad fun L => { L with forward := [] }).setR
    Reg.LOAD_TOTAL_SHARDS_TOTAL (P.ownIdx mf).length).setR Reg.LOAD_STATUS_STATE 2

theorem Part.signs_iff (P : Part) (mf : Manifest) : (P.keys.image.any fun e => e.2.any fun k => k.id == mf.keyId) = true ↔ P.signs mf := by
  simp [Part.signs, Option.any_eq_true]

theorem parseManifest_hops {bs : List Byte} {dg : BitVec 512} {mf : Manifest} (h : parseManifest bs dg = some mf) : 0 < mf.hopCount := by
  simp only [parseManifest, Option.ite_none_right_eq_some, Option.bind_eq_some_iff] at h
  obtain ⟨⟨-, -, -, -, -, hhops, -⟩, es, -, -, hsome⟩ := h
  rw [← Option.some.inj hsome]
  exact hhops

section
variable {m n : Mach} {p : PartId} {P : Part} {L : Load} {os : List Out} (h : m.PartTo p P os n) (hL : P.loadOp = some L)
include h hL

theorem Mach.PartTo.refuseManifest {reason : Nat} (h0 : reason ≠ 0) (hr : reason < 256) :
    (∀ q, q ≠ p.val → (n.refuseManifest p L reason).part q = m.part q) ∧ ((n.refuseManifest p L reason).part p.val).loadOp = none
      ∧ ((n.refuseManifest p L reason).part p.val).getR Reg.LOAD_STATUS_STATE = 5
      ∧ ((n.refuseManifest p L reason).part p.val).getR Reg.LOAD_STATUS_REASON = reason := by
  have hto := h.modPart (f := fun P => P.modPlace L.place.val fun pl => { pl with manifest := none }) rfl
    (Part.ne_reset_of_loadOp (P := P.modPlace _ _) hL)
  obtain ⟨Q, hQ, hother, hload, hstate, hreason, -⟩ := Mach.failLoad_ends (by rw [hto.part]; exact hL) h0 hr
  refine ⟨fun q hq => (hother q hq).trans (hto.other q hq), ?_⟩
  rw [Mach.refuseManifest, hQ]
  exact ⟨hload, hstate, hreason⟩

variable (hstate : P.getR Reg.LOAD_STATUS_STATE = 1) (hhop : P.hop = 0) (hold : P.loadManifest L = none) {bs : List Byte}
  (hlen : P.getR Reg.MANIFEST_LEN = bs.length) {dg : BitVec 512} (sig : Bool)
include hstate hhop hold hlen

/-- The first manifest of a load that does not read. -/
theorem Mach.PartTo.manifestDone_unread (hnone : parseManifest bs dg = none) :
    n.manifestDone p bs sig dg = n.refuseManifest p L 3 := by
  simp [Mach.manifestDone, Mach.refuseManifest, h.part, hL, hstate, Part.fromUp_first hhop, hold, hlen, hnone]
/-- The first manifest of a load that reads: it is refused, or kept and forwarded to no module. -/
theorem Mach.PartTo.manifestDone_read {mf : Manifest} (hparse : parseManifest bs dg = some mf)
    (hdown : P.flagR Reg.RELAY_CFG_DOWN_EN = false) : n.manifestDone p bs sig dg =
      if P.confidential && !mf.rising then n.refuseManifest p L 3
      else if !sig || !(P.keys.image.any fun e => e.2.any fun k => k.id == mf.keyId) then n.refuseManifest p L 4
      else n.modPart p.val fun P => P.keepManifest L mf := by
  have hhops : ¬ mf.hopCount ≤ P.hop := by
    have hpos := parseManifest_hops hparse
    omega
  simp only [Mach.manifestDone, h.part, hL, hstate, Part.fromUp_first hhop, hold, hlen, hparse, hdown, ne_eq, not_true_eq_false,
    Bool.false_and, Bool.false_eq_true, or_self, if_false, if_true, Option.any_none, hhops, List.isEmpty_nil, Option.isNone_none,
    Bool.true_or]
  rfl
end

theorem Part.keepManifest_eq {P : Part} {L : Load} (hL : P.loadOp = some L) (mf : Manifest) : ∃ g K, P.keepManifest L mf
    = { P.modPlace L.place.val (Place.withManifest mf) with regs := g, loadOp := some K } ∧ g.get Reg.LOAD_STATUS_STATE = 2 := by
  unfold Part.keepManifest
  rw [Part.modLoad_some (P := P.modPlace _ _) hL]
  exact ⟨_, _, rfl, RegFile.get_set_same (.inr (by decide))⟩
theorem Part.manifest_withManifest (P : Part) (v : Nat) (mf : Manifest) :
    ((P.modPlace v (Place.withManifest mf)).place v).manifest = some mf :=
  congrArg Place.manifest (Part.place_modPlace_listed fun e => by cases (congrArg Place.manifest e :))

section
variable {s : State} {p : PartId} {L : Load} {bs : List Byte} {dg : BitVec 512} {sig : Bool} {env : Option Envelope}
variable (hL : (s.m.part p.val).loadOp = some L) (hstate : (s.m.part p.val).getR Reg.LOAD_STATUS_STATE = 1)
  (hhop : (s.m.part p.val).hop = 0)
include hL hstate hhop

/-- A manifest that is read from a host comes in its envelope. -/
theorem exec_manifestVerified (hrelayed : L.relayed = false) : exec (.manifestVerified p ⟨bs, env⟩ sig dg) s =
    (let o := (s.m.part p.val).openManifest L env
    .next { s with m := if o.2 then (s.m.setPart p.val o.1).manifestDone p bs sig dg
      else (s.m.setPart p.val o.1).shardFailed p manifestIx 1 }) := by
  show execManifestVerified p ⟨bs, env⟩ sig dg s = _
  simp only [execManifestVerified, lift_next, hL, hstate, Part.fromUp_first hhop, hrelayed, ne_eq, not_true_eq_false,
    Bool.false_eq_true, or_self, if_false]
  rfl

theorem manifestVerified_unopened (ho : ((s.m.part p.val).openManifest L env).2 = false) (hrelayed : L.relayed = false) :
    exec (.manifestVerified p ⟨bs, env⟩ sig dg) s = .next { s with m :=
      (s.m.setPart p.val ((s.m.part p.val).openManifest L env).1).shardFailed p manifestIx 1 } := by
  rw [exec_manifestVerified hL hstate hhop hrelayed]
  dsimp only
  rw [ho]
  rfl

variable (ho : ((s.m.part p.val).openManifest L env).2 = true)
include ho

/-- A manifest that opens, or comes over the chain, is judged. -/
theorem manifestVerified_opened : ∃ k n, s.m.PartTo p { s.m.part p.val with keys := k } [] n ∧ k.image = (s.m.part p.val).keys.image
    ∧ exec (.manifestVerified p ⟨bs, env⟩ sig dg) s = .next { s with m := n.manifestDone p bs sig dg } := by
  cases hrelayed : L.relayed with
  | true =>
    refine ⟨(s.m.part p.val).keys, s.m, Mach.PartTo.refl s.m p, rfl, ?_⟩
    show execManifestVerified p ⟨bs, env⟩ sig dg s = _
    simp [execManifestVerified, lift_next, hL, hrelayed]
  | false =>
    obtain ⟨k, himage, hto⟩ := Mach.PartTo.openEnv_opens hL env _ _ _ _ ho
    have hx := exec_manifestVerified hL hstate hhop hrelayed (bs := bs) (dg := dg) (sig := sig) (env := env)
    dsimp only at hx
    rw [if_pos ho] at hx
    exact ⟨k, _, hto, himage, hx⟩

variable (hold : (s.m.part p.val).loadManifest L = none) (hlen : (s.m.part p.val).getR Reg.MANIFEST_LEN = bs.length)
  (hdown : (s.m.part p.val).flagR Reg.RELAY_CFG_DOWN_EN = false)
include hold hlen hdown

theorem manifestVerified_malformed (hbad : parseManifest bs dg = none
    ∨ ∃ mf, parseManifest bs dg = some mf ∧ (s.m.part p.val).confidential = true ∧ mf.rising = false) :
    ∃ s', exec (.manifestVerified p ⟨bs, env⟩ sig dg) s = .next s' ∧ (∀ q, q ≠ p.val → s'.m.part q = s.m.part q)
      ∧ (s'.m.part p.val).loadOp = none ∧ (s'.m.part p.val).getR Reg.LOAD_STATUS_STATE = 5
      ∧ (s'.m.part p.val).getR Reg.LOAD_STATUS_REASON = 3 := by
  obtain ⟨k, n, hto, -, hx⟩ := manifestVerified_opened hL hstate hhop ho (bs := bs) (dg := dg) (sig := sig)
  have hrefused : n.manifestDone p bs sig dg = n.refuseManifest p L 3 := by
    rcases hbad with hnone | ⟨mf, hparse, hconf, hrising⟩
    · exact hto.manifestDone_unread hL hstate hhop hold hlen sig hnone
    · have hunordered : ((s.m.part p.val).confidential && !mf.rising) = true := by rw [hconf, hrising]; rfl
      exact (hto.manifestDone_read hL hstate hhop hold hlen sig hparse hdown).trans (if_pos hunordered)
  rw [hrefused] at hx
  exact ⟨_, hx, hto.refuseManifest hL (by decide) (by decide)⟩

variable {mf : Manifest} (hparse : parseManifest bs dg = some mf)
  (hok : (s.m.part p.val).confidential = true → mf.rising = true)
include hparse hok

/-- A manifest that reads is kept if a key of the partition has signed it. -/
theorem manifestVerified_judged : ∃ k n, s.m.PartTo p { s.m.part p.val with keys := k } [] n
    ∧ (sig = false ∨ ¬ (s.m.part p.val).signs mf → exec (.manifestVerified p ⟨bs, env⟩ sig dg) s
      = .next { s with m := n.refuseManifest p L 4 })
    ∧ (sig = true → (s.m.part p.val).signs mf → exec (.manifestVerified p ⟨bs, env⟩ sig dg) s
      = .next { s with m := n.modPart p.val fun P => P.keepManifest L mf }) := by
  obtain ⟨k, n, hto, himage, hx⟩ := manifestVerified_opened hL hstate hhop ho (bs := bs) (dg := dg) (sig := sig)
  have hordered : ¬ ((s.m.part p.val).confidential && !mf.rising) = true := by simpa using hok
  rw [(hto.manifestDone_read hL hstate hhop hold hlen sig hparse hdown).trans (if_neg hordered)] at hx
  dsimp only at hx
  rw [himage] at hx
  have hkey := (s.m.part p.val).signs_iff mf
  refine ⟨k, n, hto, fun hbad => ?_, fun hsig hsigns => ?_⟩
  · rw [hx, if_pos]
    rcases hbad with rfl | hno
    · rfl
    · simp [Bool.eq_false_iff.2 fun h => hno (hkey.1 h)]
  · rw [hx, if_neg]
    rw [hsig, hkey.2 hsigns]
    decide

theorem manifestVerified_unsigned (hbad : sig = false ∨ ¬ (s.m.part p.val).signs mf) :
    ∃ s', exec (.manifestVerified p ⟨bs, env⟩ sig dg) s = .next s' ∧ (∀ q, q ≠ p.val → s'.m.part q = s.m.part q)
      ∧ (s'.m.part p.val).loadOp = none ∧ (s'.m.part p.val).getR Reg.LOAD_STATUS_STATE = 5
      ∧ (s'.m.part p.val).getR Reg.LOAD_STATUS_REASON = 4 := by
  obtain ⟨k, n, hto, hrefused, -⟩ := manifestVerified_judged hL hstate hhop ho hold hlen hdown hparse hok (sig := sig)
  exact ⟨_, hrefused hbad, hto.refuseManifest hL (by decide) (by decide)⟩
theorem manifestVerified_kept (hsig : sig = true) (hkey : (s.m.part p.val).signs mf) :
    ∃ s', exec (.manifestVerified p ⟨bs, env⟩ sig dg) s = .next s' ∧ (∀ q, q ≠ p.val → s'.m.part q = s.m.part q)
      ∧ s'.m.tiles = s.m.tiles ∧ ((s'.m.part p.val).place L.place.val).manifest = some mf
      ∧ (s'.m.part p.val).getR Reg.LOAD_STATUS_STATE = 2 := by
  obtain ⟨k, n, hto, -, hkept⟩ := manifestVerified_judged hL hstate hhop ho hold hlen hdown hparse hok (sig := sig)
  obtain ⟨g, K, hkeep, hready⟩ := Part.keepManifest_eq (P := { s.m.part p.val with keys := k }) hL mf
  have hto' := hto.modPart (f := fun P => P.keepManifest L mf) hkeep (Part.ne_reset_of_loadOp
    (P := { Part.modPlace _ _ _ with regs := _, loadOp := some _ }) rfl)
  refine ⟨_, hkept hsig hkey, hto'.other, hto'.tiles, ?_⟩
  dsimp only
  rw [hto'.part]
  exact ⟨Part.manifest_withManifest { s.m.part p.val with keys := k } L.place.val mf, hready⟩
end

/-! ### The obligation -/

/-- Settles O50: a manifest is judged once it is open, a shard is applied in its turn, and every failure counts as `Load.retriedBy` says. -/
theorem loadShards : Obligations.LoadShards := by
  unfold Obligations.LoadShards
  intro s p L mf bs dg sig i j e env m P ends fails retried seq opensM opens rising
  refine ⟨fun hL => load_commands_unloaded hL _ sig dg, fun hL hhop h0 h1 hup hdown => ⟨fun hstate hreg hold hlen hplaces =>
    ⟨fun ho hrelayed => ?_, fun ho hbad => ?_, fun ho hparse hok hbad => ?_, fun ho hparse hok hsig hkey => ?_⟩,
    fun hstate ha => ⟨?_, shardArrival_unasked hL, fun hi he => ?_⟩⟩⟩
  · exact envelope_retried hL (manifestVerified_unopened hL hstate hhop ho hrelayed)
  · exact manifestVerified_malformed hL hstate hhop ho hold hlen hdown (hbad.imp_right fun h => ⟨mf, h⟩)
  · exact manifestVerified_unsigned hL hstate hhop ho hold hlen hdown hparse hok hbad
  · exact manifestVerified_kept hL hstate hhop ho hold hlen hdown hparse hok hsig hkey
  · exact loaderShardFetch_asks hL ha hstate hhop h0 h1
  have ⟨hmf, _, _, hrun, _⟩ := ha
  refine ⟨fun ho hij hlen hf => ?_, fun h k ho hij hlen hf => ?_, ?_, fun hbad => ?_, fun hown hheld hkept happlied => ?_⟩
  · exact shardArrival_waits hL ha hi he ho hlen hf hij
  · exact shardArrival_applies hL ha hi he ho hlen hf hij
  · exact envelope_retried hL (shardArrival_retried hL hi hmf he (.inr (.inl rfl)))
  · exact envelope_retried hL (shardArrival_retried hL hi hmf he (hbad.imp_right .inr))
  · exact shard_retried (Mach.PartTo.refl s.m p) hL rfl
      (shardMissingTimeout_fails hL hmf hstate hrun hheld he hown hkept happlied hi)

end Sys2Proof.Machine
end
